-- ==== Sys2Proof/Word.lean ====
section
/-! DEFINITION. The word types of the Kearid 5 and the plainest helper on encoded words.

Registers hold 64 bits (R96), masks one bit per lane (R9, R118), program counters 57 bits (R173). -/

namespace Sys2Proof

/-- A register's contents, 64 bits. -/
abbrev Word := BitVec 64
/-- One byte. -/
abbrev Byte := BitVec 8
/-- One bit per lane, bit L for lane L (R9). -/
abbrev Mask := BitVec 32
/-- A 57-bit virtual byte address (R173, R337). -/
abbrev VAddr := BitVec 57
/-- One 64-bit value per lane (R96). -/
abbrev Lanes := Vector Word 32

/-- Bits `[hi:lo]` of an encoded word held as a number (R5). -/
abbrev fieldOf (w hi lo : Nat) : Nat := w / 2 ^ lo % 2 ^ (hi - lo + 1)

end Sys2Proof
end

