-- ==== Sys2Proof/Syntax.lean ====
section
/-! DEFINITION. The syntax: one constructor of `Instr` per row of the opcode table.

Register numbers, element types, conditions, access sizes and special registers are already typed here;
a number outside its file (R38) has no term. What a typed operand still has to meet is in WellFormed.lean. -/

namespace Sys2Proof

/-- A uniform register number, c0 to c63 (R38). -/
abbrev CReg := Fin 64
/-- An affine register number, a0 to a31 (R38). -/
abbrev AReg := Fin 32
/-- A varying register number, v0 to v127 (R38). -/
abbrev VReg := Fin 128
/-- A mask register m0 to m7, a queue register q0 to q7, or another 3-bit number (R38, R293, R260). -/
abbrev MReg := Fin 8
/-- A tile number, t0 to t31 (R38). -/
abbrev TReg := Fin 32
/-- A one-bit choice among two codes. -/
abbrev Bit1 := Fin 2
/-- A binary8 format code (R81). -/
abbrev Fmt8 := BitVec 5
/-- A matrix shape, 9m + 3n + k (R158). -/
abbrev Shape := Fin 27
/-- A drain shape, 3m + n: the shapes whose k is 0 (R158). -/
abbrev Shape2 := Fin 9

/-- The integer element types (R40). -/
inductive IntTy where
  | i64 | i32x2 | i16x4 | i8x8
  deriving DecidableEq, Repr, Inhabited

/-- The float element types (R40). -/
inductive FltTy where
  | f64 | f32x2 | f16x4 | bf16x4
  deriving DecidableEq, Repr, Inhabited

/-- An element type of either class (R40). -/
inductive ElTy where
  | int (t : IntTy)
  | flt (t : FltTy)
  deriving DecidableEq, Repr, Inhabited

/-- The types of the special functions (R131). -/
inductive SfuTy where
  | f32x2 | f16x4 | bf16x4
  deriving DecidableEq, Repr, Inhabited

/-- The second source of a V-format word (R39). -/
inductive Src where
  | v (r : VReg)
  | c (r : CReg)
  | a (r : AReg)
  | imm (b : BitVec 7)
  deriving DecidableEq, Repr, Inhabited

/-- The index of a memory operand (R47). -/
inductive Idx where
  | a (r : AReg)
  | v (r : VReg)
  deriving DecidableEq, Repr, Inhabited

/-- A memory operand: base, index, and whether the index is scaled by the access size (R47, R227). -/
structure MOp where
  base : CReg
  idx : Idx
  scaled : Bool
  deriving DecidableEq, Repr, Inhabited

/-- An access size (R47). -/
inductive Size where
  | b8 | b16 | b32 | b64 | b128
  deriving DecidableEq, Repr, Inhabited

/-- The conditions of major 0x22 (R46). -/
inductive Rel where
  | eq | ne | lt | le
  deriving DecidableEq, Repr, Inhabited

/-- The operations of `rdc` and `scan` (R46). -/
inductive RedOp where
  | add | min | max | minu
  deriving DecidableEq, Repr, Inhabited

/-- A mask selector: 0 to 7, 8 for `xm`, 9 for `lm` (R46). -/
inductive MaskSel where
  | m (k : MReg)
  | xm
  | lm
  deriving DecidableEq, Repr, Inhabited

/-- The special registers (R49, R66). -/
inductive SReg where
  | xm | lm | fl | cst | dmk
  | tcause | tpc | taddr | tlanes | tinfo | txm
  | tk0 | tk1 | hbud
  | nbv | nsf
  | mcfg | mst | gang
  | sfra | ftmap | ftst
  | bpc | ccyc | rfph | wdc
  | pme (n : Fin 16)
  | pmc (n : Fin 16)
  deriving DecidableEq, Repr, Inhabited

/-- An integer type's code (R40). -/
def IntTy.code : IntTy → Nat
  | .i64 => 0 | .i32x2 => 1 | .i16x4 => 2 | .i8x8 => 3

/-- A float type's code less 4 (R40). -/
def FltTy.low : FltTy → Nat
  | .f64 => 0 | .f32x2 => 1 | .f16x4 => 2 | .bf16x4 => 3

/-- A float type's code (R40). -/
def FltTy.code (t : FltTy) : Nat := 4 + t.low

/-- An element type's code (R40). -/
def ElTy.code : ElTy → Nat
  | .int t => t.code
  | .flt t => t.code

/-- `SUB[1:0]` of a special function (R131). -/
def SfuTy.code : SfuTy → Nat
  | .f32x2 => 0 | .f16x4 => 1 | .bf16x4 => 2

/-- `SZ` (R47). -/
def Size.code : Size → Nat
  | .b8 => 0 | .b16 => 1 | .b32 => 2 | .b64 => 3 | .b128 => 4

/-- The bytes an access size names. -/
def Size.bytes : Size → Nat
  | .b8 => 1 | .b16 => 2 | .b32 => 4 | .b64 => 8 | .b128 => 16

/-- `VAR` of a condition (R46). -/
def Rel.code : Rel → Nat
  | .eq => 0 | .ne => 1 | .lt => 2 | .le => 3

/-- `VAR` of a reduction (R46). -/
def RedOp.code : RedOp → Nat
  | .add => 0 | .min => 1 | .max => 2 | .minu => 3

/-- A mask selector's number (R46). -/
def MaskSel.code : MaskSel → Nat
  | .m k => k.val | .xm => 8 | .lm => 9

/-- A special register's selector (R66). -/
def SReg.selector : SReg → Nat
  | .xm => 0x000 | .lm => 0x001 | .fl => 0x002 | .cst => 0x003 | .dmk => 0x004
  | .tcause => 0x008 | .tpc => 0x009 | .taddr => 0x00A | .tlanes => 0x00B | .tinfo => 0x00C
  | .txm => 0x00D | .tk0 => 0x00E | .tk1 => 0x00F | .hbud => 0x010
  | .nbv => 0x080 | .nsf => 0x081
  | .mcfg => 0x0C0 | .mst => 0x0C1 | .gang => 0x0C2
  | .sfra => 0x140 | .ftmap => 0x150 | .ftst => 0x151
  | .bpc => 0x180 | .ccyc => 0x181 | .rfph => 0x182 | .wdc => 0x183
  | .pme n => 0x190 + n.val
  | .pmc n => 0x1A0 + n.val

/-- The instructions and events of the opcode table. -/

inductive Instr where
  /-- `br label` (R176) -/
  | br (o : BitVec 18)
  /-- `brc.z ct, label` (R176) -/
  | brcZ (t : CReg) (o : BitVec 18)
  /-- `brc.nz ct, label` (R176) -/
  | brcNz (t : CReg) (o : BitVec 18)
  /-- `brc.neg ct, label` (R176) -/
  | brcNeg (t : CReg) (o : BitVec 18)
  /-- `brv mk, taken, join` (R178) -/
  | brv (m : MReg) (o : BitVec 23)
  /-- `call cl, label` (R176) -/
  | call (l : CReg) (o : BitVec 18)
  /-- `nop` (R59) -/
  | nop
  /-- `jmpi ca` (R177) -/
  | jmpi (a : CReg)
  /-- `ret ca` (R177) -/
  | ret (a : CReg)
  /-- `elect md` (R182) -/
  | elect (m : MReg)
  /-- `yield` (R183) -/
  | yield
  /-- `end` (R186) -/
  | endd
  /-- `trap ca` (R184) -/
  | trap (a : CReg)
  /-- `rft` (R198) -/
  | rft
  /-- `pdone` (R200) -/
  | pdone
  /-- `wcnt ca` (R185) -/
  | wcnt (a : CReg)
  /-- `sigchk` (R189) -/
  | sigchk
  /-- `sread cd, name` (R190) -/
  | sread (d : CReg) (r : SReg)
  /-- `swrite name, cs` for every selector but `mcfg` and `ftmap` (R190) -/
  | swrite (c : CReg) (r : SReg)
  /-- `swrite mcfg, cs` (R151) -/
  | mcfgWrite (c : CReg)
  /-- `swrite ftmap, cs` (R348) -/
  | ftmapWrite (c : CReg)
  /-- `cadd cd, ca, cb` or an immediate (R105) -/
  | cadd (d : CReg) (a : CReg) (b : CReg)
  /-- `cadd cd, ca, imm` and `cli` (R103) -/
  | caddImm (d : CReg) (a : CReg) (i : BitVec 14)
  /-- `csub cd, ca, cb` or an immediate (R105) -/
  | csub (d : CReg) (a : CReg) (b : CReg)
  /-- `cmul cd, ca, cb` or an immediate (R105) -/
  | cmul (d : CReg) (a : CReg) (b : CReg)
  /-- `cmulh cd, ca, cb` or an immediate (R105) -/
  | cmulh (d : CReg) (a : CReg) (b : CReg)
  /-- `cmad cd, ca, cb` or an immediate (R105) -/
  | cmad (d : CReg) (a : CReg) (b : CReg)
  /-- `cand cd, ca, cb` or an immediate (R105) -/
  | cand (d : CReg) (a : CReg) (b : CReg)
  /-- `cor cd, ca, cb` or an immediate (R105) -/
  | cor (d : CReg) (a : CReg) (b : CReg)
  /-- `cxor cd, ca, cb` or an immediate (R105) -/
  | cxor (d : CReg) (a : CReg) (b : CReg)
  /-- `cnot cd, ca` (R105) -/
  | cnot (d : CReg) (a : CReg)
  /-- `cshl cd, ca, cb` or an immediate (R105) -/
  | cshl (d : CReg) (a : CReg) (b : CReg)
  /-- `cshr cd, ca, cb` or an immediate (R105) -/
  | cshr (d : CReg) (a : CReg) (b : CReg)
  /-- `csar cd, ca, cb` or an immediate (R105) -/
  | csar (d : CReg) (a : CReg) (b : CReg)
  /-- `cmin cd, ca, cb` or an immediate (R105) -/
  | cmin (d : CReg) (a : CReg) (b : CReg)
  /-- `cminu cd, ca, cb` or an immediate (R105) -/
  | cminu (d : CReg) (a : CReg) (b : CReg)
  /-- `cmax cd, ca, cb` or an immediate (R105) -/
  | cmax (d : CReg) (a : CReg) (b : CReg)
  /-- `cmaxu cd, ca, cb` or an immediate (R105) -/
  | cmaxu (d : CReg) (a : CReg) (b : CReg)
  /-- `ccmp.eq cd, ca, cb` or an immediate (R105) -/
  | ccmpEq (d : CReg) (a : CReg) (b : CReg)
  /-- `ccmp.ne cd, ca, cb` or an immediate (R105) -/
  | ccmpNe (d : CReg) (a : CReg) (b : CReg)
  /-- `ccmp.lt cd, ca, cb` or an immediate (R105) -/
  | ccmpLt (d : CReg) (a : CReg) (b : CReg)
  /-- `ccmp.le cd, ca, cb` or an immediate (R105) -/
  | ccmpLe (d : CReg) (a : CReg) (b : CReg)
  /-- `ccmp.ltu cd, ca, cb` or an immediate (R105) -/
  | ccmpLtu (d : CReg) (a : CReg) (b : CReg)
  /-- `ccmp.leu cd, ca, cb` or an immediate (R105) -/
  | ccmpLeu (d : CReg) (a : CReg) (b : CReg)
  /-- `csel cd, ca, cb` or an immediate (R105) -/
  | csel (d : CReg) (a : CReg) (b : CReg)
  /-- `cmov cd, ca` (R105) -/
  | cmov (d : CReg) (a : CReg)
  /-- `cbfe cd, ca, cb` or an immediate (R105) -/
  | cbfe (d : CReg) (a : CReg) (b : CReg)
  /-- `cpopc cd, ca` (R105) -/
  | cpopc (d : CReg) (a : CReg)
  /-- `cclz cd, ca` (R105) -/
  | cclz (d : CReg) (a : CReg)
  /-- `amov ad, aa` (R107) -/
  | amov (d : AReg) (a : AReg)
  /-- `aidx ad, cb` (R107) -/
  | aidx (d : AReg) (c : CReg)
  /-- `aadd ad, aa, ab` (R107) -/
  | aaddA (d : AReg) (a : AReg) (b : AReg)
  /-- `aadd ad, aa, cb` or an immediate (R107) -/
  | aaddC (d : AReg) (a : AReg) (c : CReg)
  /-- `asub ad, aa, ab` (R107) -/
  | asubA (d : AReg) (a : AReg) (b : AReg)
  /-- `asub ad, aa, cb` or an immediate (R107) -/
  | asubC (d : AReg) (a : AReg) (c : CReg)
  /-- `amul ad, aa, cb` or an immediate (R107) -/
  | amul (d : AReg) (a : AReg) (c : CReg)
  /-- `ashl ad, aa, cb` or an immediate (R107) -/
  | ashl (d : AReg) (a : AReg) (c : CReg)
  /-- `lca ad, ca` (R109) -/
  | lca (d : AReg) (a : CReg)
  /-- `lcv vd, ca` (R109) -/
  | lcv (d : VReg) (a : CReg)
  /-- `lav vd, aa` (R109) -/
  | lav (d : VReg) (a : AReg)
  /-- `lvc cd, va` (R110) -/
  | lvc (d : CReg) (a : VReg)
  /-- `lvcx cd, va` (R110) -/
  | lvcx (d : CReg) (a : VReg)
  /-- `grow.v cd, ca` (R114) -/
  | growV (d : CReg) (a : CReg)
  /-- `grow.t cd, ca` (R114) -/
  | growT (d : CReg) (a : CReg)
  /-- `shrink.v cd, ca` (R115) -/
  | shrinkV (d : CReg) (a : CReg)
  /-- `shrink.t cd, ca` (R115) -/
  | shrinkT (d : CReg) (a : CReg)
  /-- `qbind qK, ca` (R294) -/
  | qbind (k : MReg) (a : CReg)
  /-- `qstat cd, qK` (R297) -/
  | qstat (d : CReg) (k : MReg)
  /-- `cpy ca` (R301) -/
  | cpy (a : CReg)
  /-- `cpyw ca, cb` (R303) -/
  | cpyw (a : CReg) (b : CReg)
  /-- `tcpy ca` (R304) -/
  | tcpy (a : CReg)
  /-- `lnch cd, ca` (R289) -/
  | lnch (d : CReg) (a : CReg)
  /-- `bar ca` (R375) -/
  | bar (a : CReg)
  /-- `bara cd, ca` (R374) -/
  | bara (d : CReg) (a : CReg)
  /-- `bare ca, cb` (R374) -/
  | bare (a : CReg) (b : CReg)
  /-- `barw ca, cb` (R375) -/
  | barw (a : CReg) (b : CReg)
  /-- `wait ca, cb` (R380) -/
  | wait (a : CReg) (b : CReg)
  /-- `wait.ext ca, cb` (R380) -/
  | waitExt (a : CReg) (b : CReg)
  /-- `vadd.ET vd, va, b` (R124) -/
  | vadd (d : VReg) (a : VReg) (b : Src) (t : IntTy)
  /-- `fadd.ET vd, va, b` (R125) -/
  | fadd (d : VReg) (a : VReg) (b : Src) (t : FltTy)
  /-- `vsub.ET vd, va, b` (R124) -/
  | vsub (d : VReg) (a : VReg) (b : Src) (t : IntTy)
  /-- `fsub.ET vd, va, b` (R125) -/
  | fsub (d : VReg) (a : VReg) (b : Src) (t : FltTy)
  /-- `vmul.ET vd, va, b` (R124) -/
  | vmul (d : VReg) (a : VReg) (b : Src) (t : IntTy)
  /-- `fmul.ET vd, va, b` (R125) -/
  | fmul (d : VReg) (a : VReg) (b : Src) (t : FltTy)
  /-- `vmulh.ET vd, va, b` (R124) -/
  | vmulh (d : VReg) (a : VReg) (b : Src) (t : IntTy)
  /-- `vmad.ET vd, va, b` (R124) -/
  | vmad (d : VReg) (a : VReg) (b : Src) (t : IntTy)
  /-- `ffma.ET vd, va, b` (R125) -/
  | ffma (d : VReg) (a : VReg) (b : Src) (t : FltTy)
  /-- `vand.ET vd, va, b` (R124) -/
  | vand (d : VReg) (a : VReg) (b : Src) (t : IntTy)
  /-- `vor.ET vd, va, b` (R124) -/
  | vor (d : VReg) (a : VReg) (b : Src) (t : IntTy)
  /-- `vxor.ET vd, va, b` (R124) -/
  | vxor (d : VReg) (a : VReg) (b : Src) (t : IntTy)
  /-- `vshl.ET vd, va, b` (R124) -/
  | vshl (d : VReg) (a : VReg) (b : Src) (t : IntTy)
  /-- `vshr.ET vd, va, b` (R124) -/
  | vshr (d : VReg) (a : VReg) (b : Src) (t : IntTy)
  /-- `vsar.ET vd, va, b` (R124) -/
  | vsar (d : VReg) (a : VReg) (b : Src) (t : IntTy)
  /-- `vmin.ET vd, va, b` (R124) -/
  | vmin (d : VReg) (a : VReg) (b : Src) (t : IntTy)
  /-- `fmin.ET vd, va, b` (R125) -/
  | fmin (d : VReg) (a : VReg) (b : Src) (t : FltTy)
  /-- `vminu.ET vd, va, b` (R124) -/
  | vminu (d : VReg) (a : VReg) (b : Src) (t : IntTy)
  /-- `vmax.ET vd, va, b` (R124) -/
  | vmax (d : VReg) (a : VReg) (b : Src) (t : IntTy)
  /-- `fmax.ET vd, va, b` (R125) -/
  | fmax (d : VReg) (a : VReg) (b : Src) (t : FltTy)
  /-- `vmaxu.ET vd, va, b` (R124) -/
  | vmaxu (d : VReg) (a : VReg) (b : Src) (t : IntTy)
  /-- `vbfe.ET vd, va, b`, `i64` or `i32x2` (R126) -/
  | vbfe (d : VReg) (a : VReg) (b : Src) (t : Bit1)
  /-- `vbfi.ET vd, va, b`, `i64` or `i32x2` (R126) -/
  | vbfi (d : VReg) (a : VReg) (b : Src) (t : Bit1)
  /-- `vnot.ET vd, va` (R127) -/
  | vnot (d : VReg) (a : VReg) (t : IntTy)
  /-- `vabs.ET vd, va` (R127) -/
  | vabs (d : VReg) (a : VReg) (t : IntTy)
  /-- `vneg.ET vd, va` (R127) -/
  | vneg (d : VReg) (a : VReg) (t : IntTy)
  /-- `vpopc.ET vd, va` (R127) -/
  | vpopc (d : VReg) (a : VReg) (t : IntTy)
  /-- `fabs.ET vd, va` (R127) -/
  | fabs (d : VReg) (a : VReg) (t : FltTy)
  /-- `fneg.ET vd, va` (R127) -/
  | fneg (d : VReg) (a : VReg) (t : FltTy)
  /-- `frnd.ET vd, va` (R127) -/
  | frnd (d : VReg) (a : VReg) (t : FltTy)
  /-- `fclass.ET vd, va` (R127) -/
  | fclass (d : VReg) (a : VReg) (t : FltTy)
  /-- `vcmp.COND.ET md, va, vb` (R128) -/
  | vcmp (m : MReg) (a : VReg) (b : VReg) (r : Rel) (t : IntTy)
  /-- `fcmp.COND.ET md, va, vb` (R128) -/
  | fcmp (m : MReg) (a : VReg) (b : VReg) (r : Rel) (t : FltTy)
  /-- `vcmp.ltu.ET md, va, vb` (R128) -/
  | vcmpLtu (m : MReg) (a : VReg) (b : VReg) (t : IntTy)
  /-- `fcmp.uo.ET md, va, vb` (R128) -/
  | fcmpUo (m : MReg) (a : VReg) (b : VReg) (t : FltTy)
  /-- `vcmp.leu.ET md, va, vb` (R128) -/
  | vcmpLeu (m : MReg) (a : VReg) (b : VReg) (t : IntTy)
  /-- `vclz.ET vd, va` (R130) -/
  | vclz (d : VReg) (a : VReg) (t : IntTy)
  /-- `vperm vd, va, vb` (R130) -/
  | vperm (d : VReg) (a : VReg) (b : VReg)
  /-- `vsel vd, va, vb, mK` (R129) -/
  | vsel (d : VReg) (a : VReg) (b : VReg) (k : MReg)
  /-- `frcp.T vd, va` (R131) -/
  | frcp (d : VReg) (a : VReg) (t : SfuTy)
  /-- `frsq.T vd, va` (R131) -/
  | frsq (d : VReg) (a : VReg) (t : SfuTy)
  /-- `fsqrt.T vd, va` (R131) -/
  | fsqrt (d : VReg) (a : VReg) (t : SfuTy)
  /-- `fexp2.T vd, va` (R131) -/
  | fexp2 (d : VReg) (a : VReg) (t : SfuTy)
  /-- `flog2.T vd, va` (R131) -/
  | flog2 (d : VReg) (a : VReg) (t : SfuTy)
  /-- `fsin.T vd, va` (R131) -/
  | fsin (d : VReg) (a : VReg) (t : SfuTy)
  /-- `fcos.T vd, va` (R131) -/
  | fcos (d : VReg) (a : VReg) (t : SfuTy)
  /-- `cvt.D.S vd, va`, D = t (R133) -/
  | cvt (d : VReg) (a : VReg) (s : ElTy) (t : ElTy)
  /-- `dot2.f32x2 vd, va, vb` (R137) -/
  | dot2F32x2 (d : VReg) (a : VReg) (b : VReg)
  /-- `dot4.f16x4 vd, va, vb` (R137) -/
  | dot4F16x4 (d : VReg) (a : VReg) (b : VReg)
  /-- `dot4.bf16x4 vd, va, vb` (R137) -/
  | dot4Bf16x4 (d : VReg) (a : VReg) (b : VReg)
  /-- `dot4.i16x4 vd, va, vb` (R137) -/
  | dot4I16x4 (d : VReg) (a : VReg) (b : VReg)
  /-- `dot8.i8x8 vd, va, vb` (R137) -/
  | dot8I8x8 (d : VReg) (a : VReg) (b : VReg)
  /-- `dot8.F vd, va, vb` on binary8 (R137) -/
  | dot8Binary8 (d : VReg) (a : VReg) (b : VReg) (f : Fmt8)
  /-- `cvn.F.S vd, va` (R134) -/
  | cvn (d : VReg) (a : VReg) (s : FltTy) (f : Fmt8)
  /-- `cvw.D.F vd, va` (R135) -/
  | cvw (d : VReg) (a : VReg) (t : FltTy) (f : Fmt8)
  /-- `cvs.F vd, va, vb` (R136) -/
  | cvs (d : VReg) (a : VReg) (b : VReg) (f : Fmt8)
  /-- `welf.T vd, va`, `f64` or `f32x2` (R139) -/
  | welf (d : VReg) (a : VReg) (t : Bit1)
  /-- `wmrg.T vd, va` (R140) -/
  | wmrg (d : VReg) (a : VReg) (t : Bit1)
  /-- `shfl vd, va, vb` (R143) -/
  | shfl (d : VReg) (a : VReg) (b : VReg)
  /-- `shflx vd, va, vb` (R143) -/
  | shflx (d : VReg) (a : VReg) (b : VReg)
  /-- `bcst vd, va, J` (R144) -/
  | bcst (d : VReg) (a : VReg) (j : Fin 32)
  /-- `vote.any vd, va` (R145) -/
  | voteAny (d : VReg) (a : VReg)
  /-- `vote.all vd, va` (R145) -/
  | voteAll (d : VReg) (a : VReg)
  /-- `vote.bal vd, va` (R145) -/
  | voteBal (d : VReg) (a : VReg)
  /-- `rdc.OP.ET vd, va` (R146) -/
  | rdc (d : VReg) (a : VReg) (o : RedOp) (e : ElTy)
  /-- `scan.OP.ET vd, va` (R146) -/
  | scan (d : VReg) (a : VReg) (o : RedOp) (e : ElTy)
  /-- `mmov md, ma` (R147) -/
  | mmov (d : MaskSel) (a : MaskSel)
  /-- `mand md, ma, mb` (R147) -/
  | mand (d : MaskSel) (a : MaskSel) (b : MaskSel)
  /-- `mor md, ma, mb` (R147) -/
  | mor (d : MaskSel) (a : MaskSel) (b : MaskSel)
  /-- `mxor md, ma, mb` (R147) -/
  | mxor (d : MaskSel) (a : MaskSel) (b : MaskSel)
  /-- `mnot md, ma` (R147) -/
  | mnot (d : MaskSel) (a : MaskSel)
  /-- `mpop cd, ma` (R147) -/
  | mpop (d : CReg) (a : MaskSel)
  /-- `mfirst md, ma` (R147) -/
  | mfirst (d : MaskSel) (a : MaskSel)
  /-- `ld.SZ vd, [m]` (R231) -/
  | ld (d : VReg) (m : MOp) (z : Size) (x : Bool)
  /-- `st.SZ [m], vs` (R234) -/
  | st (v : VReg) (m : MOp) (z : Size)
  /-- `lds.SZ vd, [m]` (R231) -/
  | lds (d : VReg) (m : MOp) (z : Size) (x : Bool)
  /-- `sts.SZ [m], vs` (R234) -/
  | sts (v : VReg) (m : MOp) (z : Size)
  /-- `ldc.SZ cd, [m]` (R231) -/
  | ldc (d : CReg) (m : MOp) (z : Size) (x : Bool)
  /-- `atom.add.W vd, [m], vs` (R237) -/
  | atomAdd (d : VReg) (m : MOp) (w : Bool)
  /-- `atom.and.W vd, [m], vs` (R237) -/
  | atomAnd (d : VReg) (m : MOp) (w : Bool)
  /-- `atom.or.W vd, [m], vs` (R237) -/
  | atomOr (d : VReg) (m : MOp) (w : Bool)
  /-- `atom.xor.W vd, [m], vs` (R237) -/
  | atomXor (d : VReg) (m : MOp) (w : Bool)
  /-- `atom.min.W vd, [m], vs` (R237) -/
  | atomMin (d : VReg) (m : MOp) (w : Bool)
  /-- `atom.max.W vd, [m], vs` (R237) -/
  | atomMax (d : VReg) (m : MOp) (w : Bool)
  /-- `atom.minu.W vd, [m], vs` (R237) -/
  | atomMinu (d : VReg) (m : MOp) (w : Bool)
  /-- `atom.maxu.W vd, [m], vs` (R237) -/
  | atomMaxu (d : VReg) (m : MOp) (w : Bool)
  /-- `atom.exch.W vd, [m], vs` (R237) -/
  | atomExch (d : VReg) (m : MOp) (w : Bool)
  /-- `atom.fadd.W vd, [m], vs` (R237) -/
  | atomFadd (d : VReg) (m : MOp) (w : Bool)
  /-- `atom.fmin.W vd, [m], vs` (R237) -/
  | atomFmin (d : VReg) (m : MOp) (w : Bool)
  /-- `atom.fmax.W vd, [m], vs` (R237) -/
  | atomFmax (d : VReg) (m : MOp) (w : Bool)
  /-- `cas.W vd, [m], vs` (R237) -/
  | cas (d : VReg) (m : MOp) (w : Bool)
  /-- `pref.SZ [m]` (R243) -/
  | pref (m : MOp) (z : Size)
  /-- `pacq.SZ vd, [m]` (R241) -/
  | pacq (d : VReg) (m : MOp) (z : Size) (x : Bool)
  /-- `fence` (R242) -/
  | fence
  /-- `drain` (R236) -/
  | drain
  /-- `cctl.wb ca, cb` (R244) -/
  | cctlWb (a : CReg) (b : CReg)
  /-- `cctl.inv ca, cb` (R244) -/
  | cctlInv (a : CReg) (b : CReg)
  /-- `cctl.iinv ca, cb` (R244) -/
  | cctlIinv (a : CReg) (b : CReg)
  /-- `locq cd, ca, K` (R245) -/
  | locq (d : CReg) (a : CReg) (k : Bit1)
  /-- `mma.e8 td, ca, cb, MxNxK` (R163) -/
  | mmaE8 (t : TReg) (a : CReg) (b : CReg) (s : Shape)
  /-- `mmas.e8 td, ca, cb, MxNxK` (R163) -/
  | mmasE8 (t : TReg) (a : CReg) (b : CReg) (s : Shape)
  /-- `mmau.e8 td, ca, cb, MxNxK` (R164) -/
  | mmauE8 (t : TReg) (a : CReg) (b : CReg) (s : Shape)
  /-- `mma.e16 td, ca, cb, MxNxK` (R163) -/
  | mmaE16 (t : TReg) (a : CReg) (b : CReg) (s : Shape)
  /-- `mmas.e16 td, ca, cb, MxNxK` (R163) -/
  | mmasE16 (t : TReg) (a : CReg) (b : CReg) (s : Shape)
  /-- `mmau.e16 td, ca, cb, MxNxK` (R164) -/
  | mmauE16 (t : TReg) (a : CReg) (b : CReg) (s : Shape)
  /-- `gang ca` (R165) -/
  | gang (a : CReg)
  /-- `mzero td, ca` (R169) -/
  | mzero (t : TReg) (a : CReg)
  /-- `mldw ca, cb` (R168) -/
  | mldw (a : CReg) (b : CReg)
  /-- `mdrn.ts td, ca, cb, MxN` (R167) -/
  | mdrnTs (t : TReg) (a : CReg) (b : CReg) (s : Shape2)
  /-- `mdrn.q td, qK, cb, MxN` (R167) -/
  | mdrnQ (t : TReg) (q : MReg) (b : CReg) (s : Shape2)
  /-- `mdrn.peer td, ca, cb, MxN` (R167) -/
  | mdrnPeer (t : TReg) (a : CReg) (b : CReg) (s : Shape2)
  /-- `mrow td, qK, MxN` (R170) -/
  | mrow (t : TReg) (q : MReg) (s : Shape2)
  /-- `grdv vd, aI, K` (R261) -/
  | grdv (d : VReg) (a : AReg) (k : MReg)
  /-- `grdw aI, K, vs` (R262) -/
  | grdw (v : VReg) (a : AReg) (k : MReg)
  /-- `rsub vd, aI, ck` (R270) -/
  | rsub (d : VReg) (a : AReg) (c : CReg)
  /-- `samp vd, va, cb` (R272) -/
  | samp (d : VReg) (a : VReg) (c : CReg)
  /-- `rbox vd, vg, vn` (R274) -/
  | rbox (d : VReg) (g : VReg) (n : VReg)
  /-- `rtri vd, vg, vt` (R275) -/
  | rtri (d : VReg) (g : VReg) (n : VReg)
  /-- `rtri.alpha vd, vg, vt` (R275) -/
  | rtriAlpha (d : VReg) (g : VReg) (n : VReg)
  /-- `rpsh va, cs` (R277) -/
  | rpsh (a : VReg) (c : CReg)
  /-- `rpop vd, cs` (R277) -/
  | rpop (d : VReg) (c : CReg)
  /-- `rhit vd, va, vg` (R276) -/
  | rhit (d : VReg) (a : VReg) (g : VReg)
  /-- `nrq vd, va, cn` (R306) -/
  | nrq (d : VReg) (a : VReg) (n : CReg)
  /-- `hint.lo` (R58) -/
  | hintLo (p : BitVec 24)
  /-- `hint.hi` (R58) -/
  | hintHi (p : BitVec 24)
  /-- `hint.mod` (R58) -/
  | hintMod (p : BitVec 24)
  /-- `hint.join` (R58) -/
  | hintJoin (p : BitVec 24)
  -- The rows of the table that have no bits: events of the device and of its surroundings.
  /-- GROW_GRANT: the pool of pair `p` (tile pool when `tile`) grants its oldest request (R116) -/
  | growGrant (p : Nat) (tile : Bool)
  /-- SHRINK_COMPLETE: a waiting shrink of the crew in slot `sl` of pair `p` completes (R115) -/
  | shrinkComplete (p : Nat) (sl : Nat) (fid : Nat)
  /-- JOIN_FUSION: join record `j` of the crew fuses, or raises SIGMISS (R179) -/
  | joinFusion (p : Nat) (sl : Nat) (j : Nat)
  /-- FRAGMENT_RELOAD: the oldest spilled fragment of the crew is reloaded (R180) -/
  | fragmentReload (p : Nat) (sl : Nat)
  /-- END_RETIRE: a fragment that issued `end` retires, or takes a recorded fault (R186) -/
  | endRetire (p : Nat) (sl : Nat) (fid : Nat)
  /-- YIELD_HOLD_EXPIRY: a yield hold clears after 16 idle issue cycles (R183) -/
  | yieldHoldExpiry (p : Nat) (sl : Nat) (fid : Nat)
  /-- PROMOTION: a fragment whose passed-over count is 64 is promoted (R28) -/
  | promotion (p : Nat) (sl : Nat) (fid : Nat)
  /-- TRAP_DELIVERY: the first due cause of R196 is delivered to the crew (R193) -/
  | trapDelivery (p : Nat) (sl : Nat)
  /-- HBUD_EXPIRY: the handler budget of the crew is spent and it is force-saved (R199) -/
  | hbudExpiry (p : Nat) (sl : Nat)
  /-- SWAP_OUT: pair `p` saves parked crews for the highest-ranked candidate (R332) -/
  | swapOut (p : Nat)
  /-- SWAP_IN: the highest-ranked candidate, a saved crew, is restored (R331) -/
  | swapIn
  /-- PLACE_BLOCK: the highest-ranked candidate, a block, is placed (R329) -/
  | placeBlock
  /-- LATCH_RELEASE: the latch of block `b` releases the joint command that its crew `n` waits with, or faults (R166) -/
  | latchRelease (b : Nat) (n : Nat)
  /-- ENGINE_COMMAND_COMPLETE: the engine of pair `p` completes the command at the head of its queue (R161) -/
  | engineCommandComplete (p : Nat)
  /-- RS_POWER_UP: the row-statistics engine of pair `p` is powered (R151) -/
  | rsPowerUp (p : Nat)
  /-- FEED_PUSH: the oldest feed push of pair `p` enters the operand queue (R296) -/
  | feedPush (p : Nat)
  /-- NRQ_DISPATCH: an `nrq` at the head of the operand queue moves to the inference queue (R310) -/
  | nrqDispatch (p : Nat)
  /-- NRQ_COMPLETE: the oldest inference request completes; `bad`: its descriptor is uncorrectable (R308) -/
  | nrqComplete (p : Nat) (bad : Bool)
  /-- LOAD_COMPLETE: load `id` of the crew returns; `bad`: lanes whose data is uncorrectable (R231, R232) -/
  | loadComplete (p : Nat) (sl : Nat) (id : Nat) (bad : BitVec 32)
  /-- STORE_TRANSLATE: the oldest untranslated store of the crew translates (R234) -/
  | storeTranslate (p : Nat) (sl : Nat)
  /-- ATOMIC_RETIRE: the site retires queued atomic `i`, or a group of `n` from it; `bad`: its line is uncorrectable (R239,
  R240) -/
  | atomicRetire (i : Nat) (n : Nat) (bad : Bool)
  /-- ATOMERR: queued atomic `i` is applied and its response arrives in error (R240) -/
  | atomErr (i : Nat)
  /-- PROMOTION_HINT: hint `i` in flight reaches its home slice (R224) -/
  | promotionHint (i : Nat)
  /-- PACQ_SNAPSHOT: line sequence `i` of a `pacq` takes its snapshot (R225) -/
  | pacqSnapshot (i : Nat)
  /-- PROMOTE_REQUEST: promote request `i` in flight reaches its core (R223) -/
  | promoteRequest (i : Nat)
  /-- PACQ_COMPLETE: line sequence `i` has its acknowledgements and reads (R225) -/
  | pacqComplete (i : Nat) (bad : BitVec 32)
  /-- COPY_COMPLETE: copy `id` finishes; `bad`: uncorrectable source or link error; `flip`: bytes altered on a peer's write path
  (R301) -/
  | copyComplete (id : Nat) (bad : Bool) (flip : List (Nat × BitVec 8))
  /-- COPY_CHAIN_MEMBER_START: chained copy `id` starts (R302) -/
  | copyChainMemberStart (id : Nat)
  /-- TCPY_COMPLETE: tensor copy `id` finishes (R304) -/
  | tcpyComplete (id : Nat) (bad : Bool)
  /-- BARRIER_OPERATION: barrier operation `i` in flight is applied at its site (R374) -/
  | barrierOperation (i : Nat)
  /-- BARRIER_WITHDRAWAL: withdrawal `i` in flight is applied at its site (R376) -/
  | barrierWithdrawal (i : Nat)
  /-- BARRIER_COMBINER_SEND: entry `i` of die `d`'s combiner is sent (R378) -/
  | barrierCombinerSend (d : Nat) (i : Nat)
  /-- WAIT_POLL: the fabric port reads the counter that crew `cid` waits on (R380) -/
  | waitPoll (cid : Nat) (fid : Nat)
  /-- RING_CONSUME: ring `n` consumes its next record; `bad`: the read meets an uncorrectable line or a link error (R280, R281)
  -/
  | ringConsume (n : Nat) (bad : Bool)
  /-- RING_ENABLE: the host writes `v`, with `EN` set, to `RCFG` of ring `n` (R279) -/
  | ringEnable (n : Nat) (v : BitVec 64)
  /-- RING_DISABLE: the host writes `v`, with `EN` clear, to `RCFG` of ring `n` (R279) -/
  | ringDisable (n : Nat) (v : BitVec 64)
  /-- RING_RESUME: the host writes `ST` 01 to `RSTAT` of ring `n` (R279) -/
  | ringResume (n : Nat)
  /-- BEACON_PULSE: an edge at the Beacon input (R368) -/
  | beaconPulse
  /-- LAUNCH_TRANSFER: the oldest pending-launch record of pair `p` moves to the pool (R291) -/
  | launchTransfer (p : Nat)
  /-- LAUNCH_START: launch `id` starts (R287) -/
  | launchStart (id : Nat)
  /-- LAUNCH_COMPLETE: launch `id` completes; `bad`: the counter's line is uncorrectable or its link fails (R287) -/
  | launchComplete (id : Nat) (bad : Bool)
  /-- GROUP_COMMIT: commit group `g` commits (R357) -/
  | groupCommit (g : Nat)
  /-- SHADOW_COPY_BACK: committed entry `i` of die `d`'s shadow map is copied back (R355) -/
  | shadowCopyBack (d : Nat) (i : Nat)
  /-- FAULT_RECORD: batched fault `i` becomes a record (R350) -/
  | faultRecord (i : Nat)
  /-- BATCH_AGE_EXPIRY: the open batch closes by age (R350) -/
  | batchAgeExpiry
  /-- BATCH_DELIVER: the closed batch is written to the fault ring (R350) -/
  | batchDeliver
  /-- FRES_RESOLVE: the host writes `b` to `FRES` (R352) -/
  | fresResolve (b : BitVec 32)
  /-- SHOOTDOWN_GO: the host writes `SDCT.GO` (R344) -/
  | shootdownGo
  /-- SHOOTDOWN_DONE: every core has done the shootdown (R344) -/
  | shootdownDone
  /-- MMRL_RELEASE: the host writes `MMRL` (R345) -/
  | mmrlRelease
  /-- PTRT_WRITE: the host writes `v` to `PTRT` (R341) -/
  | ptrtWrite (v : BitVec 64)
  /-- PLAC_REFILL: the host writes `v`, with `GO`, to `PLAC` (R349) -/
  | placRefill (v : BitVec 64)
  /-- CKCT_GO: the host writes `CKCT.GO` (R360) -/
  | ckctGo
  /-- CHECKPOINT_SWITCH: the device flips `SEL` between two commits (R360) -/
  | checkpointSwitch
  /-- CHECKPOINT_STREAM_ACK: the next granule copy is acknowledged, or fails (R360, R361) -/
  | checkpointStreamAck (bad : Bool)
  /-- COMMIT_GO: the host writes `RGCM.GO` (R319) -/
  | commitGo
  /-- COMMIT_APPLY: the commit's reads complete; `bad`: a region whose entry or block is uncorrectable (R319) -/
  | commitApply (bad : Option Nat)
  /-- RGRS_RES: the host writes `RGRS` with `RES` for region `r` (R323) -/
  | rgrsRes (r : Nat)
  /-- RGRS_REL: the host writes `RGRS` with `REL` for region `r` (R324) -/
  | rgrsRel (r : Nat)
  /-- BUDGET_DEBIT: pair `p` debits the counter of S-group instance `i` (R322) -/
  | budgetDebit (p : Nat) (i : Nat)
  /-- BUDGET_EXHAUSTED: the counter of S-group instance `i` is spent (R322) -/
  | budgetExhausted (i : Nat)
  /-- WDOG: the watchdog of F-group instance `i` fires (R382) -/
  | wdog (i : Nat)
  /-- RENDER_LAUNCH_START: render launch `id` reads its camera block; `bad`: the line is uncorrectable (R247, R249) -/
  | renderLaunchStart (id : Nat) (bad : Bool)
  /-- PATCH_BIN: split/dice unit `u` bounds its next patch of launch `id` (R253) -/
  | patchBin (id : Nat) (u : Nat) (bad : Bool)
  /-- INSERT_QUEUE_MERGE: the least reference waiting for die `d` enters its bucket lists (R315) -/
  | insertQueueMerge (id : Nat) (d : Nat)
  /-- BUCKET_START: die `d` starts the head bucket of its deque (R253) -/
  | bucketStart (id : Nat) (d : Nat)
  /-- BUCKET_STEAL: die `d` steals the tail bucket of the fullest deque (R314) -/
  | bucketSteal (id : Nat) (d : Nat)
  /-- DICE_PATCH: bucket `b` of launch `id` takes its next dicing action (R256) -/
  | dicePatch (id : Nat) (b : Nat)
  /-- GRID_SHADE_START: the next grid of bucket `b` gets its block of vertex crews (R259) -/
  | gridShadeStart (id : Nat) (b : Nat)
  /-- GRID_HANDOFF: the next shaded grid of bucket `b` passes to a rasteriser (R259) -/
  | gridHandoff (id : Nat) (b : Nat)
  /-- GRID_RASTERISE: the oldest passed grid of bucket `b` is sampled (R268) -/
  | gridRasterise (id : Nat) (b : Nat)
  /-- BUCKET_RESOLVE: bucket `b` is resolved, or its resolve block is started (R269, R270) -/
  | bucketResolve (id : Nat) (b : Nat) (bad : Bool)
  /-- REFRESH_EPOCH: a refresh epoch begins on M die `k` (R24) -/
  | refreshEpoch (k : Nat)
  /-- START: the start sequence runs; `fail`: the reason of the step that fails, 0 for none (R385) -/
  | start (fail : BitVec 8)
  /-- START_FAIL_RESTART: the restart 1 s after a failed start (R385) -/
  | startFailRestart
  /-- DCMD_RST: the host writes `DCMD.RST` (R386) -/
  | dcmdRst
  /-- DCMD_RPLC: the host writes `DCMD.RPLC` (R384) -/
  | dcmdRplc
  /-- DCMD_FWLD: the host writes `DCMD.FWLD`, with an image of `n` bytes at `FWSRC` (R386) -/
  | dcmdFwld (n : Nat)
  /-- ATTESTATION: the host writes `ATCT.GO` (R387) -/
  | attestation
  /-- ULCT_EN: the host writes `ULCT.EN` (R392) -/
  | ulctEn (en : Bool)
  /-- ULCT_CLS: the host writes `ULCT.CLS` (R392) -/
  | ulctCls
  /-- ULCT_ROLL: the host writes `ULCT.ROLL` (R392) -/
  | ulctRoll
  /-- WSCT_GO: the host writes `WSCT.GO` (R388) -/
  | wsctGo
  /-- WEIGHT_STORE_LOAD: the weight-store load runs; `bad`: bytes copied before an uncorrectable source line (R388) -/
  | weightStoreLoad (bad : Option Nat)
  /-- SPARE_REMAP: wear or error counter `u` has reached its threshold (R389) -/
  | spareRemap (u : Nat)
  /-- SPARE_FORCE_SAVE: 10 ms after its remap began, pair `p` force-saves what is left (R389) -/
  | spareForceSave (p : Nat)
  /-- CORRECTED_ERROR: a corrected error or wear event of unit `u`, or behind die `d`'s controllers (R370) -/
  | correctedError (u : Option Nat) (d : Option Nat)
  /-- UNCORR: an uncorrectable error of launch `l` not pinned to a lane (R390) -/
  | uncorr (l : Nat)
  /-- LINK_RETRAIN: link `k` retrains (R393) -/
  | linkRetrain (k : Nat)
  /-- POWER_CHECK: the power manager compares its estimate `w` with `PLIM` (R394) -/
  | powerCheck (w : BitVec 16)
  /-- COOLANT_FAULT: coolant leaves its limits (R394) -/
  | coolantFault
  /-- COOLANT_TIMEOUT: coolant has been outside its limits for 1 s (R394) -/
  | coolantTimeout
  /-- HOST_REGISTER_WRITE: the host writes `v` at offset `off` of its window (R366) -/
  | hostRegisterWrite (off : Nat) (v : BitVec 64)
  /-- DRIVER_PREEMPT_REQUEST: the driver requests pre-emption of region `r` (R323) -/
  | driverPreemptRequest (r : Nat)
  /-- STORE_PERFORMED: translated store `i` is performed (R234) -/
  | storePerformed (i : Nat)
  /-- RENDER_RESULT_ARRIVAL: render result `id` of the crew returns (R260) -/
  | renderResultArrival (p : Nat) (sl : Nat) (id : Nat) (bad : BitVec 32)
  /-- INSTRUCTION_FETCH: the word `k` ahead of a fragment's PC is fetched (R36) -/
  | instructionFetch (p : Nat) (sl : Nat) (fid : Nat) (k : Nat)
  /-- IINV_ACKNOWLEDGED: every core has acknowledged a `cctl.iinv` (R244) -/
  | iinvAcknowledged (p : Nat) (sl : Nat) (fid : Nat)
  /-- REFRESH_EPOCH_END: the refresh epoch of M die `k` ends (R367) -/
  | refreshEpochEnd (k : Nat)
  /-- LINK_RETRAIN_COMPLETE: link `k` returns to service (R393) -/
  | linkRetrainComplete (k : Nat)
  /-- COOLANT_RESTORED: coolant is back within its limits (R394) -/
  | coolantRestored
  /-- HOST_PEER_ACCESS: the host (`none`) or peer `who` reads `n` bytes at `va`, or writes `data` there (R340) -/
  | hostPeerAccess (who : Option Nat) (va : Nat) (n : Nat) (data : Option (List (BitVec 8)))
  /-- MEMORY_SCRUBBING: scrubbing finds an error behind die `d`'s controllers (R390) -/
  | memoryScrubbing (d : Nat) (fixed : Bool)
  /-- REGISTER_LANE_ERROR: an uncorrectable error in one lane of `v` (R390) -/
  | registerLaneError (p : Nat) (sl : Nat) (v : Nat) (lane : Nat)
  deriving DecidableEq, Repr, Inhabited

/-- What happens next: an issue cycle of a quarter, a cycle of a unit's own clock, a free action of a cache, an action
of the outside world on memory, or one event of the opcode table. -/
inductive Turn where
  /-- an issue cycle of quarter `q` of pair `p`'s core (R27) -/
  | issue (p : Nat) (q : Nat)
  /-- a cycle of the core of pair `p` (R199, R363) -/
  | coreCycle (p : Nat)
  /-- a cycle of die `k`: 0 is H, 1 to 4 are V0 to V3, 5 to 8 are M0 to M3 (R15) -/
  | dieCycle (k : Nat)
  /-- a cycle of the fault unit's 1 GHz clock (R350) -/
  | faultCycle
  /-- pair `p`'s L1 drops its line number `k` (R206, R343) -/
  | evict (p : Nat) (k : Nat)
  /-- pair `p`'s instruction cache drops its line number `k` (R36) -/
  | evictCode (p : Nat) (k : Nat)
  /-- entry `k` of pair `p`'s TLB-1 gives way to another of its set (R336, R342) -/
  | dropTlb (p : Nat) (k : Nat)
  /-- entry `k` of cluster `c`'s TLB-2 gives way to another of its set (R336, R342) -/
  | dropTlb2 (c : Nat) (k : Nat)
  /-- element `k` of load `fut` of crew `cid` is read before the load returns (R207, R208) -/
  | loadElement (cid : Nat) (fut : Nat) (k : Nat)
  /-- element `k` of copy `id` is read and written before the copy completes (R219, R301) -/
  | copyElement (id : Nat) (k : Nat)
  /-- line `n` of local memory becomes uncorrectable, or is mended (R311, R390) -/
  | lineError (n : Nat) (bad : Bool)
  /-- a rollback of the undo log writes its next before-image back (R392) -/
  | rollStep
  /-- atomic request `i` reaches the queue of its site (R239) -/
  | atomArrive (i : Nat)
  /-- the host (`none`) or peer `who` stores a byte in its own memory (R204) -/
  | outside (who : Option Nat) (addr : Nat) (b : BitVec 8)
  /-- the driver stores a byte of local memory by its physical address (R336) -/
  | driverStore (addr : Nat) (b : BitVec 8)
  /-- an event of the opcode table -/
  | event (e : Instr)
  deriving DecidableEq, Repr, Inhabited

end Sys2Proof
end

