-- ==== Sys2Proof/Config.lean ====
section
/-! DEFINITION. What the spec leaves open: free values with no body. No proof can see what they are. -/

namespace Sys2Proof.Config

/-- Which turn comes next when the agenda is empty: the order of the units' work is not fixed (R15, log 1 DESIGN CHOICE safe).
-/
opaque nextTurn : Nat → Turn

/-- A free number for the `k`th open choice, such as which lane's store of several to one element wins (R208, log 6 DESIGN
CHOICE safe). -/
opaque choice : Nat → Nat

/-- The special functions of `f32x2` where R131 gives only a bound: operation (`SUB[4:2]`) and operand to a
candidate result. A candidate outside the bound is not used (log 7 DESIGN CHOICE safe). -/
opaque sfu32 : Nat → BitVec 32 → BitVec 32

/-- The home slice, 0 to 191, of a line of global memory; the interleave is not given (R13, log 8 DESIGN CHOICE safe). -/
opaque homeSlice : Nat → Nat

/-- A byte read at a physical address outside local memory, where R419 says that no table, map or log lies (log 43 DESIGN CHOICE
safe). -/
opaque absentByte : Nat → BitVec 8

/-- Does a request from V die `a` to the V die opposite it go by the next die up (R13, log 44 DESIGN CHOICE safe)? -/
opaque detour : Nat → Bool

/-- Bytes of a copy's destination that its failure leaves unspecified (R305, log 9 DESIGN CHOICE safe). -/
opaque junkByte : Nat → BitVec 8

/-- Whether a signature over an image verifies under the keys in fuses (R385, log 10 DESIGN CHOICE safe). -/
opaque imageSigned : List (BitVec 8) → Bool

/-- The least version that the fuses of the H die admit (R385, log 10 DESIGN CHOICE safe). -/
opaque minVersion : BitVec 32

/-- The version that an image's header gives; its layout is not given (R385, log 10 DESIGN CHOICE safe). -/
opaque imageVersion : List (BitVec 8) → BitVec 32

/-- The attestation signature over a digest and a nonce (R387, log 10 DESIGN CHOICE safe). -/
opaque sign : List (BitVec 8) → List (BitVec 8)

end Sys2Proof.Config
end

