-- ==== Sys2Proof/Machine/Numbers.lean ====
section
/-! DEFINITION. Number formats held in registers: exact values, rounding, binary8, integer elements (03). -/

namespace Sys2Proof.Machine

open Sys2Proof

/-- The rounding modes of R79. -/
inductive Rnd where
  | ne | rz | ru | rd | na
  deriving DecidableEq, Repr, Inhabited

/-- The exact value of a floating encoding: NaN, an infinity, or (−1)^neg × m × 2^e (R76). -/
inductive FVal where
  | nan
  | inf (neg : Bool)
  | fin (neg : Bool) (m : Nat) (e : Int)
  deriving DecidableEq, Repr, Inhabited

/-- A format with a sign, `eb` exponent bits and `tb` trailing bits (R76). -/
structure Fmt where
  eb : Nat
  tb : Nat
  deriving DecidableEq, Repr, Inhabited

def fp64 : Fmt := ⟨11, 52⟩
def fp32 : Fmt := ⟨8, 23⟩
def fp16 : Fmt := ⟨5, 10⟩
def bf16 : Fmt := ⟨8, 7⟩
/-- The accumulator format (R86). -/
def acc36 : Fmt := ⟨8, 27⟩

/-- All bits of a format. -/
def Fmt.width (f : Fmt) : Nat := 1 + f.eb + f.tb
/-- The exponent of the smallest normal, 1 − bias. -/
def Fmt.emin (f : Fmt) : Int := 2 - (2 ^ (f.eb - 1) : Nat)
/-- The magnitude code of ∞. -/
def Fmt.infCode (f : Fmt) : Nat := (2 ^ f.eb - 1) * 2 ^ f.tb
/-- The canonical NaN (R76, R77). -/
def Fmt.nanCode (f : Fmt) : Nat := f.infCode + 2 ^ (f.tb - 1)
/-- The weight of the sign bit. -/
def Fmt.signBit (f : Fmt) : Nat := 2 ^ (f.eb + f.tb)

/-- The value of an encoding (R76). -/
def Fmt.decode (f : Fmt) (x : Nat) : FVal :=
  let neg := x / f.signBit % 2 == 1
  let mag := x % f.signBit
  let ex := mag / 2 ^ f.tb
  let t := mag % 2 ^ f.tb
  if ex = 2 ^ f.eb - 1 then (if t = 0 then .inf neg else .nan)
  else if ex = 0 then .fin neg t (f.emin - f.tb)
  else .fin neg (2 ^ f.tb + t) (f.emin - f.tb + (ex - 1 : Nat))

/-- `n / d` rounded to an integer; a tie goes to the side that makes `off` plus the result even (R79, log 13 DEDUCED unsafe). -/
def roundQuot (r : Rnd) (neg : Bool) (off n d : Nat) : Nat :=
  let q := n / d
  let t := n % d
  if t = 0 then q
  else
    let up := match r with
      | .ne => decide (2 * t > d) || (2 * t == d && (off + q) % 2 == 1)
      | .na => decide (2 * t ≥ d)
      | .rz => false
      | .ru => !neg
      | .rd => neg
    if up then q + 1 else q

/-- The exponent of the leading bit of `n / d`, both positive. -/
def ratLog (n d : Nat) : Int :=
  let est : Int := (n.log2 : Int) - (d.log2 : Int)
  let ge : Bool := if 0 ≤ est then decide (d * 2 ^ est.toNat ≤ n) else decide (d ≤ n * 2 ^ (-est).toNat)
  if ge then est else est - 1

/-- The magnitude code, in a format of smallest normal exponent `emin` and `tb` trailing bits with no largest
exponent, of the rounded value of `n / d × 2^e`, n and d positive (R79, R80). -/
def magCode (emin : Int) (tb : Nat) (r : Rnd) (neg : Bool) (n d : Nat) (e : Int) : Nat :=
  let lead := max (ratLog n d + e) emin
  let q := lead - tb
  let base := (lead - emin).toNat * 2 ^ tb
  let n' := if q ≤ e then n * 2 ^ (e - q).toNat else n
  let d' := if q ≤ e then d else d * 2 ^ (q - e).toNat
  base + roundQuot r neg base n' d'

/-- Does the mode round this sign's overflow away from zero (R80)? -/
def Rnd.away (r : Rnd) (neg : Bool) : Bool :=
  match r with
  | .ne | .na => true
  | .rz => false
  | .ru => !neg
  | .rd => neg

/-- The encoding of `(−1)^neg × n / d × 2^e` rounded once (R79, R80); n = 0 gives a zero of that sign. -/
def Fmt.ofRat (f : Fmt) (r : Rnd) (neg : Bool) (n d : Nat) (e : Int) : Nat :=
  let s := if neg then f.signBit else 0
  if n = 0 then s
  else
    let c := magCode f.emin f.tb r neg n d e
    if c < f.infCode then s + c
    else if r.away neg then s + f.infCode
    else s + (f.infCode - 1)

/-- The encoding of a value rounded once into the format (R77, R79, R80). -/
def Fmt.encode (f : Fmt) (r : Rnd) : FVal → Nat
  | .nan => f.nanCode
  | .inf neg => (if neg then f.signBit else 0) + f.infCode
  | .fin neg m e => f.ofRat r neg m 1 e

/-- The signed integer m of a finite value written as m × 2^lo, lo not above its exponent. -/
def FVal.scaled (lo : Int) : FVal → Int
  | .fin neg m e => let k : Int := (m * 2 ^ (e - lo).toNat : Nat); if neg then -k else k
  | _ => 0

/-- The least exponent among non-zero finite values, or `d`. -/
def minExp (d : Int) : List FVal → Int
  | [] => d
  | .fin _ 0 _ :: xs => minExp d xs
  | .fin _ (_ + 1) e :: xs => min e (minExp (max d e) xs)
  | _ :: xs => minExp d xs

def FVal.isNan : FVal → Bool
  | .nan => true
  | _ => false
def FVal.isInf (s : Bool) : FVal → Bool
  | .inf n => n == s
  | _ => false
/-- A zero of sign `s`. -/
def FVal.isZero (s : Bool) : FVal → Bool
  | .fin n 0 _ => n == s
  | _ => false
/-- A zero of either sign. -/
def FVal.zero? (v : FVal) : Bool := v.isZero true || v.isZero false

/-- The exact sum of values; `zneg` is the sign of an exact zero (R91). -/
def exactSum (zneg : Bool) (xs : List FVal) : FVal :=
  if xs.any FVal.isNan then .nan
  else if xs.any (FVal.isInf true) then (if xs.any (FVal.isInf false) then .nan else .inf true)
  else if xs.any (FVal.isInf false) then .inf false
  else
    let lo := minExp 0 xs
    let s := (xs.map (FVal.scaled lo)).sum
    if s = 0 then .fin zneg 0 0 else .fin (decide (s < 0)) s.natAbs lo

/-- The sign of an exact zero sum under R91: + except under −∞, and − when every term is −0. -/
def sumZeroSign (r : Rnd) (xs : List FVal) : Bool := xs.all (FVal.isZero true) || r == .rd

/-- The sum of R91 rounded once into `f`. -/
def Fmt.sum (f : Fmt) (r : Rnd) (xs : List FVal) : Nat := f.encode r (exactSum (sumZeroSign r xs) xs)

/-- The sign of an exact zero of IEEE 754 addition: equal-signed zeros keep their sign (R76). -/
def addZeroSign (r : Rnd) (x y : FVal) : Bool :=
  if x.isZero true && y.isZero true then true
  else if x.isZero false && y.isZero false then false
  else r == .rd

/-- x + y of R125, rounded once. -/
def Fmt.addV (f : Fmt) (r : Rnd) (x y : FVal) : Nat := f.encode r (exactSum (addZeroSign r x y) [x, y])

def FVal.negate : FVal → FVal
  | .nan => .nan
  | .inf n => .inf (!n)
  | .fin n m e => .fin (!n) m e

/-- The exact product (R77, R90). -/
def FVal.mul : FVal → FVal → FVal
  | .nan, _ => .nan
  | _, .nan => .nan
  | .inf a, .inf b => .inf (a != b)
  | .inf a, .fin b m _ => if m = 0 then .nan else .inf (a != b)
  | .fin a m _, .inf b => if m = 0 then .nan else .inf (a != b)
  | .fin a m e, .fin b n g => .fin (a != b) (m * n) (e + g)

/-- The exact value times 2^k. -/
def FVal.scale (k : Int) : FVal → FVal
  | .fin a m e => .fin a m (e + k)
  | v => v

/-- The correctly rounded quotient (R139, R140). -/
def Fmt.divV (f : Fmt) (r : Rnd) : FVal → FVal → Nat
  | .nan, _ => f.nanCode
  | _, .nan => f.nanCode
  | .inf _, .inf _ => f.nanCode
  | .inf a, .fin b _ _ => f.encode r (.inf (a != b))
  | .fin a _ _, .inf b => f.encode r (.fin (a != b) 0 0)
  | .fin a m e, .fin b n g =>
    if n = 0 then (if m = 0 then f.nanCode else f.encode r (.inf (a != b)))
    else f.ofRat r (a != b) m n (e - g)

/-- An integer as a value. -/
def FVal.ofInt (z : Int) : FVal := .fin (decide (z < 0)) z.natAbs 0

/-- The integer nearest a finite value under a mode (R79). -/
def FVal.toInt (r : Rnd) : FVal → Int
  | .fin neg m e =>
    let k := if 0 ≤ e then m * 2 ^ e.toNat else roundQuot r neg 0 m (2 ^ (-e).toNat)
    if neg then -(k : Int) else k
  | _ => 0

/-- Order of two non-NaN values. -/
def FVal.lt : FVal → FVal → Bool
  | .inf a, .inf b => a && !b
  | .inf a, .fin _ _ _ => a
  | .fin _ _ _, .inf b => !b
  | .fin a m e, .fin b n g =>
    let lo := min e g
    decide ((FVal.fin a m e).scaled lo < (FVal.fin b n g).scaled lo)
  | _, _ => false

/-- Equality of two non-NaN values; −0 equals +0 (R128). -/
def FVal.eqv (x y : FVal) : Bool := !x.isNan && !y.isNan && !x.lt y && !y.lt x

/-- minimumNumber and maximumNumber on encodings, −0 below +0 (R125). -/
def Fmt.minMax (f : Fmt) (mx : Bool) (a b : Nat) : Nat :=
  let x := f.decode a
  let y := f.decode b
  if x.isNan then (if y.isNan then f.nanCode else b)
  else if y.isNan then a
  else
    let aLess := x.lt y || (!(y.lt x) && x.isZero true && y.isZero false)
    let bLess := y.lt x || (!(x.lt y) && y.isZero true && x.isZero false)
    if mx then (if aLess then b else a) else (if bLess then b else a)

/-! ## binary8 (R81 to R85) -/

/-- Precision p of a format code (R81). -/
def Fmt8.prec (c : Fmt8) : Nat := c.toNat / 4 + 1
/-- `U` of a format code. -/
def Fmt8.unsigned (c : Fmt8) : Bool := c.toNat / 2 % 2 == 1
/-- `INF` of a format code. -/
def Fmt8.hasInf (c : Fmt8) : Bool := c.toNat % 2 == 1
/-- The bias (R82, R83). -/
def Fmt8.bias (c : Fmt8) : Nat := 2 ^ ((if Fmt8.unsigned c then 8 else 7) - Fmt8.prec c)
/-- Exponent of the smallest normal. -/
def Fmt8.emin (c : Fmt8) : Int := 1 - (Fmt8.bias c : Int)
/-- The NaN byte. -/
def Fmt8.nanByte (c : Fmt8) : Nat := if Fmt8.unsigned c then 0xFF else 0x80
/-- The greatest finite magnitude code. -/
def Fmt8.maxCode (c : Fmt8) : Nat :=
  (if Fmt8.unsigned c then 0xFE else 0x7F) - (if Fmt8.hasInf c then 1 else 0)

/-- The value of a binary8 byte (R82, R83). -/
def Fmt8.decode (c : Fmt8) (b : Nat) : FVal :=
  let neg := !Fmt8.unsigned c && decide (128 ≤ b)
  let mag := if Fmt8.unsigned c then b else b % 128
  let t := Fmt8.prec c - 1
  let ex := mag / 2 ^ t
  let lo := Fmt8.emin c - t
  if b = 0 then .fin false 0 0
  else if b = Fmt8.nanByte c then .nan
  else if Fmt8.hasInf c && mag == Fmt8.maxCode c + 1 then .inf neg
  else if ex = 0 then .fin neg mag lo
  else .fin neg (2 ^ t + mag % 2 ^ t) (lo + (ex - 1 : Nat))

/-- What a conversion into binary8 leaves: the byte, and the flags `B8OVF` and `B8SAT` (R85). -/
structure B8 where
  byte : Nat
  ovf : Bool
  sat : Bool
  deriving DecidableEq, Repr, Inhabited

/-- An overflow of sign `neg` (R85 step 6). -/
def Fmt8.overflow (c : Fmt8) (satf : Bool) (neg : Bool) : B8 :=
  let s := if neg then 128 else 0
  if satf then ⟨s + Fmt8.maxCode c, false, true⟩
  else if Fmt8.hasInf c then ⟨s + Fmt8.maxCode c + 1, true, false⟩
  else ⟨Fmt8.nanByte c, true, false⟩

/-- Conversion into binary8 (R85). -/
def Fmt8.convert (c : Fmt8) (r : Rnd) (satf : Bool) : FVal → B8
  | .nan => ⟨Fmt8.nanByte c, false, false⟩
  | .inf neg =>
    if Fmt8.unsigned c && neg then
      (if satf then ⟨0, false, true⟩ else ⟨Fmt8.nanByte c, true, false⟩)
    else if Fmt8.hasInf c then ⟨(if neg then 128 else 0) + Fmt8.maxCode c + 1, false, false⟩
    else if r.away neg then Fmt8.overflow c satf neg
    else ⟨(if neg then 128 else 0) + Fmt8.maxCode c, false, false⟩
  | .fin neg m e =>
    if m = 0 then ⟨0, false, false⟩
    else
      let k := magCode (Fmt8.emin c) (Fmt8.prec c - 1) r neg m 1 e
      if Fmt8.unsigned c && neg then
        if k = 0 then ⟨0, false, false⟩
        else if satf then ⟨0, false, true⟩ else ⟨Fmt8.nanByte c, true, false⟩
      else if k = 0 then ⟨0, false, false⟩
      else if k ≤ Fmt8.maxCode c then ⟨(if neg then 128 else 0) + k, false, false⟩
      else if r.away neg then Fmt8.overflow c satf neg
      else ⟨(if neg then 128 else 0) + Fmt8.maxCode c, false, false⟩

/-- The value of an E8M0 scale: its exponent, none for NaN (R88). -/
def e8m0 (b : Nat) : Option Int := if b = 0xFF then none else some ((b : Int) - 127)

/-- An element times the scale of its stripe (R89). -/
def FVal.byScale (v : FVal) (b : Nat) : FVal :=
  match e8m0 b with
  | none => .nan
  | some k => v.scale k

/-! ## Integer elements (R78) -/

/-- An unsigned `w`-bit number read as two's complement. -/
def toS (w n : Nat) : Int := if n < 2 ^ (w - 1) then (n : Int) else (n : Int) - (2 ^ w : Nat)
/-- The low `w` bits of an integer. -/
def wrap (w : Nat) (z : Int) : Nat := (z % (2 ^ w : Nat)).toNat
/-- The signed clamp and whether it changed the value. -/
def clampS (w : Nat) (z : Int) : Int × Bool :=
  let hi : Int := (2 ^ (w - 1) : Nat) - 1
  let lo : Int := -(2 ^ (w - 1) : Nat)
  if hi < z then (hi, true) else if z < lo then (lo, true) else (z, false)
/-- The low `w` bits, or the signed clamp under `SAT` 01. -/
def fit (w : Nat) (sat : Bool) (z : Int) : Nat × Bool :=
  if sat then let c := clampS w z; (wrap w c.1, c.2) else (wrap w z, false)

/-- The number of set bits among the low `w`. -/
def popCount : Nat → Nat → Nat
  | 0, _ => 0
  | w + 1, n => n % 2 + popCount w (n / 2)
/-- Leading zeros of a `w`-bit number. -/
def clzN (w n : Nat) : Nat := if n = 0 then w else w - 1 - n.log2

/-- Element width (R40). -/
def IntTy.width : IntTy → Nat
  | .i64 => 64 | .i32x2 => 32 | .i16x4 => 16 | .i8x8 => 8
def FltTy.fmt : FltTy → Fmt
  | .f64 => fp64 | .f32x2 => fp32 | .f16x4 => fp16 | .bf16x4 => bf16
def FltTy.width (t : FltTy) : Nat := (FltTy.fmt t).width
def ElTy.width : ElTy → Nat
  | .int t => IntTy.width t
  | .flt t => FltTy.width t
def SfuTy.fmt : SfuTy → Fmt
  | .f32x2 => fp32 | .f16x4 => fp16 | .bf16x4 => bf16

/-- Sub-element `s` of width `w` (R9, R40). -/
def sub (w : Nat) (x : Word) (s : Nat) : Nat := x.toNat / 2 ^ (w * s) % 2 ^ w

/-- A lane's 64 bits from elements of width `w`, element 0 lowest. -/
def packN (w : Nat) : List Nat → Nat
  | [] => 0
  | x :: xs => x % 2 ^ w + 2 ^ w * packN w xs
def pack (w : Nat) (xs : List Nat) : Word := BitVec.ofNat 64 (packN w xs)

/-- The sub-elements of a lane. -/
def subs (w : Nat) (x : Word) : List Nat := (List.range (64 / w)).map (sub w x)

/-- Element-wise work with a flag each: the lane and whether any flag is set. -/
def mapEl (w : Nat) (f : Nat → Nat × Bool) : Word × Bool :=
  let rs := (List.range (64 / w)).map f
  (pack w (rs.map Prod.fst), rs.any Prod.snd)

end Sys2Proof.Machine
end

