-- ==== Sys2Proof/Machine/Sfu.lean ====
section
/-! DEFINITION. The special functions of R131 and R132. For the 16-bit types a result is the exact function value
rounded to nearest even, computed here by fixed-point arithmetic with more than 100 bits to spare. For `f32x2`,
`fsqrt` is correctly rounded and the rest are Config.sfu32 within the bound of R131. -/

namespace Sys2Proof.Machine

open Sys2Proof

/-- π/2 × 2^320, floor. -/
def halfPi320 : Nat :=
  0x1921fb54442d18469898cc51701b839a252049c1114cf98e804177d4c76273644a29410f31c6809bb
/-- ln 2 × 2^200, floor. -/
def ln2At200 : Nat := 0xb17217f7d1cf79abc9e3b39803f2f6af40f343267298b62d8a

/-- The integer square root, by `k` further bits from the top. -/
def isqrtGo : Nat → Nat → Nat → Nat
  | 0, _, r => r
  | k + 1, n, r => let c := r + 2 ^ k; isqrtGo k n (if c * c ≤ n then c else r)
def isqrt (n : Nat) : Nat := isqrtGo (n.log2 / 2 + 1) n 0

/-- An approximation from below with its last bit set when it is not exact. -/
def sticky (neg : Bool) (n : Nat) (exact : Bool) (e : Int) : FVal :=
  .fin neg (2 * n + (if exact then 0 else 1)) (e - 1)

/-- √(m × 2^e), exact or with a sticky bit. -/
def sqrtVal (m : Nat) (e : Int) : FVal :=
  let odd := e % 2 != 0
  let n := (if odd then 2 * m else m) * 2 ^ 160
  let h := (if odd then e - 1 else e) / 2 - 80
  let r := isqrt n
  sticky false r (r * r == n) h

/-- 1 / √(m × 2^e). -/
def rsqrtVal (m : Nat) (e : Int) : FVal :=
  let odd := e % 2 != 0
  let d := if odd then 2 * m else m
  let h := (if odd then e - 1 else e) / 2
  let n := 2 ^ 320 / d
  let r := isqrt n
  sticky false r (r * r * d == 2 ^ 320) (-h - 160)

/-- 1 / (m × 2^e). -/
def rcpVal (neg : Bool) (m : Nat) (e : Int) : FVal :=
  let q := 2 ^ 200 / m
  sticky neg q (q * m == 2 ^ 200) (-e - 200)

/-- Terms of exp(x), x in fixed point of 200 bits. -/
def expGo : Nat → Nat → Nat → Nat → Nat
  | 0, _, _, s => s
  | k + 1, x, t, s =>
    let t' := t * x / 2 ^ 200 / (61 - (k + 1))
    expGo k x t' (s + t')

/-- 2^x for a finite x. -/
def exp2Val (neg : Bool) (m : Nat) (e : Int) : FVal :=
  if m = 0 then .fin false 1 0
  else if 10 ≤ e + (m.log2 : Int) then (if neg then .fin false 1 (-2000) else .fin false 1 2000)
  else
    let mag : Nat := if -200 ≤ e then m * 2 ^ (e + 200).toNat else max 1 (m / 2 ^ (-(e + 200)).toNat)
    let x : Int := if neg then -(mag : Int) else mag
    let i := x / (2 ^ 200 : Nat)
    let f := (x % (2 ^ 200 : Nat)).toNat
    if f = 0 then .fin false 1 i
    else sticky false (expGo 60 (f * ln2At200 / 2 ^ 200) (2 ^ 200) (2 ^ 200)) false (i - 200)

/-- Bits of log₂ of y, 1 ≤ y < 2 in fixed point of 300 bits. -/
def logGo : Nat → Nat → Nat → Nat
  | 0, _, s => s
  | k + 1, y, s =>
    let z := y * y / 2 ^ 300
    if 2 ^ 301 ≤ z then logGo k (z / 2) (2 * s + 1) else logGo k z (2 * s)

/-- log₂ of m × 2^e, m positive. -/
def log2Val (m : Nat) (e : Int) : FVal :=
  let l := m.log2
  let y := m * 2 ^ 300 / 2 ^ l
  let ip := e + (l : Int)
  if y = 2 ^ 300 then FVal.ofInt ip
  else
    let z : Int := ip * (2 ^ 120 : Nat) + (logGo 120 y 0 : Nat)
    if 0 ≤ z then sticky false z.toNat false (-120) else sticky true ((-z).toNat - 1) false (-120)

/-- Terms of the sine or cosine series by pairs: Σ (−1)^k x^(2k+c) / (2k+c)!, x in fixed point of 200 bits. -/
def sinGo : Nat → Nat → Nat → Int → Int → Int
  | 0, _, _, _, s => s
  | k + 1, x2, j, t, s =>
    let t' := -(t * (x2 : Int) / (2 ^ 200 : Nat) / ((j * (j + 1) : Nat) : Int))
    sinGo k x2 (j + 2) t' (s + t')

/-- sin (c = false) or cos (c = true) of x, in fixed point of 320 bits, as a fixed point number of 200 bits. -/
def trigFix (c : Bool) (x : Nat) : Int :=
  let k : Nat := x / halfPi320
  let r : Nat := x % halfPi320 / 2 ^ 120
  let x2 : Nat := r * r / 2 ^ 200
  let one : Int := (2 ^ 200 : Nat)
  let s := sinGo 40 x2 2 (r : Int) (r : Int)
  let o := sinGo 40 x2 1 one one
  match (k + (if c then 1 else 0)) % 4 with
  | 0 => s
  | 1 => o
  | 2 => -s
  | _ => -o

/-- sin (c = false) or cos (c = true) of (−1)^neg × m × 2^e. -/
def sinCosVal (c neg : Bool) (m : Nat) (e : Int) : FVal :=
  if m = 0 then (if c then .fin false 1 0 else .fin neg 0 0)
  else if (e + (m.log2 : Int)) < -40 then
    (if c then sticky false (2 ^ 80 - 1) false (-80) else sticky neg (m * 2 ^ 60 - 1) false (e - 60))
  else
    let v := trigFix c (if -320 ≤ e then m * 2 ^ (e + 320).toNat else m / 2 ^ (-(e + 320)).toNat)
    let v := if neg && !c then -v else v
    if 0 ≤ v then sticky false v.toNat false (-200) else sticky true ((-v).toNat - 1) false (-200)

/-- The function value of finite operands outside the special cases of R132, exact or with a sticky bit. -/
def sfuVal (op : Nat) (neg : Bool) (m : Nat) (e : Int) : FVal :=
  match op with
  | 0 => rcpVal neg m e
  | 1 => rsqrtVal m e
  | 2 => sqrtVal m e
  | 3 => exp2Val neg m e
  | 4 => log2Val m e
  | 5 => sinCosVal false neg m e
  | _ => sinCosVal true neg m e

/-- The special values of R132. -/
def sfuSpecial (op : Nat) (x : FVal) : Option FVal :=
  match op, x with
  | _, .nan => some .nan
  | 0, .inf n => some (.fin n 0 0)
  | 0, .fin n 0 _ => some (.inf n)
  | 1, .inf n => some (if n then .nan else .fin false 0 0)
  | 1, .fin n 0 _ => some (.inf n)
  | 1, .fin true (_ + 1) _ => some .nan
  | 2, .inf n => some (if n then .nan else .inf false)
  | 2, .fin n 0 _ => some (.fin n 0 0)
  | 2, .fin true (_ + 1) _ => some .nan
  | 3, .inf n => some (if n then .fin false 0 0 else .inf false)
  | 4, .inf n => some (if n then .nan else .inf false)
  | 4, .fin _ 0 _ => some (.inf true)
  | 4, .fin true (_ + 1) _ => some .nan
  | 5, .inf _ => some .nan
  | 6, .inf _ => some .nan
  | 5, .fin n 0 _ => some (.fin n 0 0)
  | 6, .fin _ 0 _ => some (.fin false 1 0)
  | _, _ => none

/-- |a − b| ≤ 2^k for finite values. -/
def FVal.within (k : Int) (a b : FVal) : Bool :=
  let lo := min k (minExp 0 [a, b])
  decide ((a.scaled lo - b.scaled lo).natAbs ≤ 2 ^ (k - lo).toNat)

/-- A finite, non-zero value's unit in the last place in FP32. -/
def ulp32 : FVal → Int
  | .fin _ m e => max (e + (m.log2 : Int)) fp32.emin - 23
  | _ => 0

/-- Does candidate `c` meet the bound of R131 for the value `v` of operation `op`? -/
def sfuOk (op : Nat) (x v : FVal) (c : Nat) : Bool :=
  let w := fp32.decode c
  match w with
  | .fin _ _ _ =>
    match op with
    | 0 | 1 => w.within (ulp32 v) v
    | 3 => w.within (ulp32 v + 1) v
    | 4 =>
      if !(x.lt (.fin false 1 (-1))) && !((FVal.fin false 1 1).lt x) then w.within (-22) v
      else w.within (ulp32 v + 1) v
    | _ => w.within (-22) v
  | _ => false

/-- Is a value below the normal numbers of FP32, where it underflows (R80)? -/
def tiny32 : FVal → Bool
  | .fin _ m e => m == 0 || decide (e + (m.log2 : Int) < fp32.emin)
  | _ => false

/-- One element of a special function; overflow and underflow are those of R80, nearest even (R131, R132). -/
def sfuEl (op : Nat) (t : SfuTy) (x : Nat) : Nat :=
  let f := SfuTy.fmt t
  let v := f.decode x
  match sfuSpecial op v with
  | some s => f.encode .ne s
  | none =>
    match v with
    | .fin neg m e =>
      let y := sfuVal op neg m e
      let near := f.encode .ne y
      match t with
      | .f32x2 =>
        let exact : Bool := op == 2 || (op == 3 && (FVal.ofInt (v.toInt .rz)).eqv v)
          || (op == 4 && v.eqv (.fin false 1 0)) || tiny32 y || !(match f.decode near with | .fin .. => true | _ => false)
        let cand := (Config.sfu32 op (BitVec.ofNat 32 x)).toNat
        if exact then near else if sfuOk op v y cand then cand else near
      | _ => near
    | _ => f.nanCode

end Sys2Proof.Machine
end

