-- ==== Sys2Proof/WellFormed.lean ====
section
/-! DEFINITION. What a typed instruction still has to meet: groups, sizes, destinations, formats.

Each clause cites its rule. An instruction that breaks one has no legal word (R38, R45, R60). -/

namespace Sys2Proof

/-- The precision field of a binary8 code is not the reserved 7 (R81, R46). -/
def Fmt8.ok (f : Fmt8) : Bool := f.toNat / 4 != 7

/-- A varying pair: even, and it does not reach v127 (R38, R228, R260). -/
def pairOk (d : VReg) : Bool := d.val % 2 == 0 && d.val ≤ 124

/-- A varying data register of an access of size `z` (R228). -/
def dataOk (d : VReg) (z : Size) : Bool := z != .b128 || pairOk d

/-- Sign extension only below 64 bits (R47). -/
def extendOk (z : Size) (x : Bool) : Bool := !x || z == .b8 || z == .b16 || z == .b32

/-- `DR` of `atom`: an even pair up to 124, or an odd register up to 125 (R228). -/
def atomOk (d : VReg) (m : MOp) : Bool := d.val ≤ 125 && m.scaled

/-- A ray group: a multiple of 4 up to 120 (R260). -/
def rayOk (g : VReg) : Bool := g.val % 4 == 0 && g.val ≤ 120

/-- A Welford group (R138): `t` is 0 for `f64`, 1 for `f32x2`. -/
def welfOk (g : VReg) (t : Bit1) : Bool := g.val ≤ 124 && (t.val == 0 || g.val % 2 == 0)

/-- A reduction's element type: `.minu` is integer only (R46). -/
def redOk (o : RedOp) (e : ElTy) : Bool :=
  match o, e with
  | .minu, .flt _ => false
  | _, _ => true

/-- A mask destination is not `lm` (R46). -/
def MaskSel.dstOk (d : MaskSel) : Bool := d != .lm

/-- A modifiers payload: values that R53 assigns, and no mask or addend without its enable. -/
def modOk (p : BitVec 24) : Bool :=
  let n := p.toNat
  let f (lo w : Nat) : Nat := n / 2 ^ lo % 2 ^ w
  f 0 1 == 0 && decide (f 17 3 < 4) && decide (f 14 3 < 6) && decide (f 11 3 < 6) && decide (f 9 2 < 3)
    && (f 23 1 == 1 || f 20 3 == 0) && (f 8 1 == 1 || f 1 7 == 0)

/-- `swrite` reaches this register by its own row: it is writable (R190, R364) and is neither `mcfg` nor `ftmap`. -/
def SReg.writable : SReg → Bool
  | .xm | .cst | .tcause | .tpc | .taddr | .tlanes | .tinfo | .txm | .tk0 | .tk1 | .nbv | .nsf
  | .pme _ | .pmc _ => true
  | .lm | .fl | .dmk | .hbud | .mcfg | .mst | .gang | .sfra | .ftmap | .ftst
  | .bpc | .ccyc | .rfph | .wdc => false

/-- Well-formed instructions; events carry no limits of their own. -/
def Instr.wf : Instr → Bool
  | .swrite _ r => r.writable
  | .cpy a => a.val ≤ 59
  | .cpyw a _ => a.val ≤ 59
  | .tcpy a => a.val ≤ 57
  | .cvt _ _ s t => s != t
  | .dot8Binary8 _ _ _ f => f.ok
  | .cvn _ _ _ f => f.ok
  | .cvw _ _ _ f => f.ok
  | .cvs _ _ _ f => f.ok
  | .welf d _ t => welfOk d t
  | .wmrg d a t => welfOk d t && welfOk a t
  | .rdc _ _ o e => redOk o e
  | .scan _ _ o e => redOk o e
  | .mmov d _ => d.dstOk
  | .mand d _ _ => d.dstOk
  | .mor d _ _ => d.dstOk
  | .mxor d _ _ => d.dstOk
  | .mnot d _ => d.dstOk
  | .mfirst d _ => d.dstOk
  | .ld d _ z x => dataOk d z && extendOk z x
  | .st v _ z => dataOk v z
  | .lds d _ z x => dataOk d z && extendOk z x
  | .sts v _ z => dataOk v z
  | .ldc d m z x => extendOk z x && (z != .b128 || (d.val % 2 == 0 && d.val ≤ 61)) &&
      (match m.idx with | .a _ => true | .v _ => false)
  | .atomAdd d m _ => atomOk d m
  | .atomAnd d m _ => atomOk d m
  | .atomOr d m _ => atomOk d m
  | .atomXor d m _ => atomOk d m
  | .atomMin d m _ => atomOk d m
  | .atomMax d m _ => atomOk d m
  | .atomMinu d m _ => atomOk d m
  | .atomMaxu d m _ => atomOk d m
  | .atomExch d m _ => atomOk d m
  | .atomFadd d m _ => atomOk d m
  | .atomFmin d m _ => atomOk d m
  | .atomFmax d m _ => atomOk d m
  | .cas d m _ => pairOk d && m.scaled
  | .pacq _ _ z x => z != .b128 && extendOk z x
  | .locq _ a k => k.val == 0 || a.val == 0
  | .mmauE8 _ a _ _ => a.val ≤ 59
  | .mmauE16 _ a _ _ => a.val ≤ 59
  | .grdv d _ k => k.val > 4 || pairOk d
  | .grdw v _ k => k.val ≤ 2 && (k.val == 2 || pairOk v)
  | .rsub d _ _ => pairOk d
  | .rbox _ g _ => rayOk g
  | .rtri d g _ => pairOk d && rayOk g
  | .rtriAlpha d g _ => pairOk d && rayOk g
  | .rhit d a g => pairOk d && pairOk a && rayOk g
  | .hintMod p => modOk p
  | .hintJoin p => p != 0xFFFFFF
  | _ => true

end Sys2Proof
end

