-- ==== Sys2Proof/Decode.lean ====
section
/-! DEFINITION. The decoder and the encoder, both written from the formats of R37 and the maps of R44 to R50.

A word is held as a number below 2^32. `decode` is total: it answers an instruction or a named reason. It
reads the operands from their places, then accepts the word only when the encoder gives the same word
back, so that every reserved bit counts (R6, R60), and only when the instruction is well formed. -/

namespace Sys2Proof

/-- Why a word is no instruction (R45, R46, R60). -/
inductive DecodeError where
  /-- a major, sub-op, `KIND`, type, size or selector that no table assigns -/
  | unassigned
  /-- a non-zero reserved field, or a register number beyond its file -/
  | reservedField
  /-- an operand outside its limit: a group, a size, a shape, a read-only register -/
  | operandLimit
  /-- not one whole 32-bit word -/
  | notAWord
  deriving DecidableEq, Repr, Inhabited

/-- The formats of R37 with their fields as numbers, from the high bit down. -/
inductive Fields where
  | fmtV (maj d a : Nat) (b : Src) (et : Nat)
  | fmtVS (maj d a b sub : Nat)
  | fmtC (maj d a b sub : Nat)
  | fmtCI (maj d a imm : Nat)
  | fmtA (maj d a c b sub : Nat)
  | fmtM (maj d : Nat) (m : MOp) (msz : Nat)
  | fmtB (maj t cond off : Nat)
  | fmtBV (maj k off : Nat)
  | fmtX (maj t a b shape kind : Nat)
  | fmtS (maj c sel : Nat)
  | fmtH (hk p : Nat)
  deriving DecidableEq, Repr

/-- `MSZ` of a load, a store or `pref` (R47). -/
def msz (z : Size) (x s : Bool) : Nat := 4 * z.code + 2 * x.toNat + s.toNat
/-- `MSZ` of `atom` and `cas` (R47). -/
def asz (w : Bool) (op : Nat) : Nat := 16 * w.toNat + op


/-- The fields of an instruction's word (R37, R44, R46). An event has no word. -/
def Instr.fields : Instr → Option Fields
  | .br o => some (.fmtB 0x01 0 0 o.toNat)
  | .brcZ t o => some (.fmtB 0x01 t 1 o.toNat)
  | .brcNz t o => some (.fmtB 0x01 t 2 o.toNat)
  | .brcNeg t o => some (.fmtB 0x01 t 3 o.toNat)
  | .brv m o => some (.fmtBV 0x02 m o.toNat)
  | .call l o => some (.fmtB 0x03 l 0 o.toNat)
  | .nop => some (.fmtC 0x04 0 0 0 0x00)
  | .jmpi a => some (.fmtC 0x04 0 a 0 0x01)
  | .ret a => some (.fmtC 0x04 0 a 0 0x02)
  | .elect m => some (.fmtC 0x04 m 0 0 0x03)
  | .yield => some (.fmtC 0x04 0 0 0 0x04)
  | .endd => some (.fmtC 0x04 0 0 0 0x05)
  | .trap a => some (.fmtC 0x04 0 a 0 0x06)
  | .rft => some (.fmtC 0x04 0 0 0 0x07)
  | .pdone => some (.fmtC 0x04 0 0 0 0x08)
  | .wcnt a => some (.fmtC 0x04 0 a 0 0x09)
  | .sigchk => some (.fmtC 0x04 0 0 0 0x0A)
  | .sread d r => some (.fmtS 0x05 d r.selector)
  | .swrite c r => some (.fmtS 0x06 c r.selector)
  | .mcfgWrite c => some (.fmtS 0x06 c 0x0C0)
  | .ftmapWrite c => some (.fmtS 0x06 c 0x150)
  | .cadd d a b => some (.fmtC 0x07 d a b 0x00)
  | .caddImm d a i => some (.fmtCI 0x08 d a i.toNat)
  | .csub d a b => some (.fmtC 0x07 d a b 0x01)
  | .cmul d a b => some (.fmtC 0x07 d a b 0x02)
  | .cmulh d a b => some (.fmtC 0x07 d a b 0x03)
  | .cmad d a b => some (.fmtC 0x07 d a b 0x04)
  | .cand d a b => some (.fmtC 0x07 d a b 0x05)
  | .cor d a b => some (.fmtC 0x07 d a b 0x06)
  | .cxor d a b => some (.fmtC 0x07 d a b 0x07)
  | .cnot d a => some (.fmtC 0x07 d a 0 0x08)
  | .cshl d a b => some (.fmtC 0x07 d a b 0x09)
  | .cshr d a b => some (.fmtC 0x07 d a b 0x0A)
  | .csar d a b => some (.fmtC 0x07 d a b 0x0B)
  | .cmin d a b => some (.fmtC 0x07 d a b 0x0C)
  | .cminu d a b => some (.fmtC 0x07 d a b 0x0D)
  | .cmax d a b => some (.fmtC 0x07 d a b 0x0E)
  | .cmaxu d a b => some (.fmtC 0x07 d a b 0x0F)
  | .ccmpEq d a b => some (.fmtC 0x07 d a b 0x10)
  | .ccmpNe d a b => some (.fmtC 0x07 d a b 0x11)
  | .ccmpLt d a b => some (.fmtC 0x07 d a b 0x12)
  | .ccmpLe d a b => some (.fmtC 0x07 d a b 0x13)
  | .ccmpLtu d a b => some (.fmtC 0x07 d a b 0x14)
  | .ccmpLeu d a b => some (.fmtC 0x07 d a b 0x15)
  | .csel d a b => some (.fmtC 0x07 d a b 0x16)
  | .cmov d a => some (.fmtC 0x07 d a 0 0x17)
  | .cbfe d a b => some (.fmtC 0x07 d a b 0x18)
  | .cpopc d a => some (.fmtC 0x07 d a 0 0x19)
  | .cclz d a => some (.fmtC 0x07 d a 0 0x1A)
  | .amov d a => some (.fmtA 0x0A d a 0 0 0x00)
  | .aidx d c => some (.fmtA 0x0A d 0 c 0 0x01)
  | .aaddA d a b => some (.fmtA 0x0A d a 0 b 0x02)
  | .aaddC d a c => some (.fmtA 0x0A d a c 0 0x03)
  | .asubA d a b => some (.fmtA 0x0A d a 0 b 0x04)
  | .asubC d a c => some (.fmtA 0x0A d a c 0 0x05)
  | .amul d a c => some (.fmtA 0x0A d a c 0 0x06)
  | .ashl d a c => some (.fmtA 0x0A d a c 0 0x07)
  | .lca d a => some (.fmtVS 0x0B d a 0 0x00)
  | .lcv d a => some (.fmtVS 0x0B d a 0 0x01)
  | .lav d a => some (.fmtVS 0x0B d a 0 0x02)
  | .lvc d a => some (.fmtVS 0x0B d a 0 0x03)
  | .lvcx d a => some (.fmtVS 0x0B d a 0 0x04)
  | .growV d a => some (.fmtC 0x0C d a 0 0x00)
  | .growT d a => some (.fmtC 0x0C d a 0 0x01)
  | .shrinkV d a => some (.fmtC 0x0C d a 0 0x02)
  | .shrinkT d a => some (.fmtC 0x0C d a 0 0x03)
  | .qbind k a => some (.fmtC 0x0D k a 0 0x00)
  | .qstat d k => some (.fmtC 0x0D d 0 k 0x01)
  | .cpy a => some (.fmtC 0x0E 0 a 0 0x00)
  | .cpyw a b => some (.fmtC 0x0E 0 a b 0x01)
  | .tcpy a => some (.fmtC 0x0E 0 a 0 0x02)
  | .lnch d a => some (.fmtC 0x0F d a 0 0x00)
  | .bar a => some (.fmtC 0x0F 0 a 0 0x01)
  | .bara d a => some (.fmtC 0x0F d a 0 0x02)
  | .bare a b => some (.fmtC 0x0F 0 a b 0x03)
  | .barw a b => some (.fmtC 0x0F 0 a b 0x04)
  | .wait a b => some (.fmtC 0x0F 0 a b 0x05)
  | .waitExt a b => some (.fmtC 0x0F 0 a b 0x06)
  | .vadd d a b t => some (.fmtV 0x10 d a b t.code)
  | .fadd d a b t => some (.fmtV 0x10 d a b t.code)
  | .vsub d a b t => some (.fmtV 0x11 d a b t.code)
  | .fsub d a b t => some (.fmtV 0x11 d a b t.code)
  | .vmul d a b t => some (.fmtV 0x12 d a b t.code)
  | .fmul d a b t => some (.fmtV 0x12 d a b t.code)
  | .vmulh d a b t => some (.fmtV 0x13 d a b t.code)
  | .vmad d a b t => some (.fmtV 0x14 d a b t.code)
  | .ffma d a b t => some (.fmtV 0x14 d a b t.code)
  | .vand d a b t => some (.fmtV 0x15 d a b t.code)
  | .vor d a b t => some (.fmtV 0x16 d a b t.code)
  | .vxor d a b t => some (.fmtV 0x17 d a b t.code)
  | .vshl d a b t => some (.fmtV 0x18 d a b t.code)
  | .vshr d a b t => some (.fmtV 0x19 d a b t.code)
  | .vsar d a b t => some (.fmtV 0x1A d a b t.code)
  | .vmin d a b t => some (.fmtV 0x1B d a b t.code)
  | .fmin d a b t => some (.fmtV 0x1B d a b t.code)
  | .vminu d a b t => some (.fmtV 0x1C d a b t.code)
  | .vmax d a b t => some (.fmtV 0x1D d a b t.code)
  | .fmax d a b t => some (.fmtV 0x1D d a b t.code)
  | .vmaxu d a b t => some (.fmtV 0x1E d a b t.code)
  | .vbfe d a b t => some (.fmtV 0x1F d a b t)
  | .vbfi d a b t => some (.fmtV 0x20 d a b t)
  | .vnot d a t => some (.fmtVS 0x21 d a 0 (8 * 0 + t.code))
  | .vabs d a t => some (.fmtVS 0x21 d a 0 (8 * 1 + t.code))
  | .vneg d a t => some (.fmtVS 0x21 d a 0 (8 * 2 + t.code))
  | .vpopc d a t => some (.fmtVS 0x21 d a 0 (8 * 3 + t.code))
  | .fabs d a t => some (.fmtVS 0x21 d a 0 (8 * 0 + t.code))
  | .fneg d a t => some (.fmtVS 0x21 d a 0 (8 * 1 + t.code))
  | .frnd d a t => some (.fmtVS 0x21 d a 0 (8 * 2 + t.code))
  | .fclass d a t => some (.fmtVS 0x21 d a 0 (8 * 3 + t.code))
  | .vcmp m a b r t => some (.fmtVS 0x22 m a b (8 * r.code + t.code))
  | .fcmp m a b r t => some (.fmtVS 0x22 m a b (8 * r.code + t.code))
  | .vcmpLtu m a b t => some (.fmtVS 0x23 m a b t.code)
  | .fcmpUo m a b t => some (.fmtVS 0x23 m a b t.code)
  | .vcmpLeu m a b t => some (.fmtVS 0x23 m a b (8 + t.code))
  | .vclz d a t => some (.fmtVS 0x24 d a 0 t.code)
  | .vperm d a b => some (.fmtVS 0x24 d a b 8)
  | .vsel d a b k => some (.fmtVS 0x25 d a b k)
  | .frcp d a t => some (.fmtVS 0x26 d a 0 (4 * 0 + t.code))
  | .frsq d a t => some (.fmtVS 0x26 d a 0 (4 * 1 + t.code))
  | .fsqrt d a t => some (.fmtVS 0x26 d a 0 (4 * 2 + t.code))
  | .fexp2 d a t => some (.fmtVS 0x26 d a 0 (4 * 3 + t.code))
  | .flog2 d a t => some (.fmtVS 0x26 d a 0 (4 * 4 + t.code))
  | .fsin d a t => some (.fmtVS 0x26 d a 0 (4 * 5 + t.code))
  | .fcos d a t => some (.fmtVS 0x26 d a 0 (4 * 6 + t.code))
  | .cvt d a s t => some (.fmtVS 0x27 d a s.code t.code)
  | .dot2F32x2 d a b => some (.fmtVS 0x28 d a b 0)
  | .dot4F16x4 d a b => some (.fmtVS 0x28 d a b 1)
  | .dot4Bf16x4 d a b => some (.fmtVS 0x28 d a b 2)
  | .dot4I16x4 d a b => some (.fmtVS 0x28 d a b 3)
  | .dot8I8x8 d a b => some (.fmtVS 0x28 d a b 4)
  | .dot8Binary8 d a b f => some (.fmtVS 0x29 d a b f.toNat)
  | .cvn d a s f => some (.fmtVS 0x2A d a s.code f.toNat)
  | .cvw d a t f => some (.fmtVS 0x2B d a t.code f.toNat)
  | .cvs d a b f => some (.fmtVS 0x2C d a b f.toNat)
  | .welf d a t => some (.fmtVS 0x2D d a 0 (4 + t.val))
  | .wmrg d a t => some (.fmtVS 0x2D d a 0 (12 + t.val))
  | .shfl d a b => some (.fmtVS 0x2E d a b 0)
  | .shflx d a b => some (.fmtVS 0x2E d a b 1)
  | .bcst d a j => some (.fmtVS 0x2E d a j 2)
  | .voteAny d a => some (.fmtVS 0x2E d a 0 3)
  | .voteAll d a => some (.fmtVS 0x2E d a 0 4)
  | .voteBal d a => some (.fmtVS 0x2E d a 0 5)
  | .rdc d a o e => some (.fmtVS 0x2F d a 0 (8 * o.code + e.code))
  | .scan d a o e => some (.fmtVS 0x30 d a 0 (8 * o.code + e.code))
  | .mmov d a => some (.fmtVS 0x31 d.code a.code 0 0)
  | .mand d a b => some (.fmtVS 0x31 d.code a.code b.code 1)
  | .mor d a b => some (.fmtVS 0x31 d.code a.code b.code 2)
  | .mxor d a b => some (.fmtVS 0x31 d.code a.code b.code 3)
  | .mnot d a => some (.fmtVS 0x31 d.code a.code 0 4)
  | .mpop d a => some (.fmtVS 0x31 d a.code 0 5)
  | .mfirst d a => some (.fmtVS 0x31 d.code a.code 0 6)
  | .ld d m z x => some (.fmtM 0x32 d m (msz z x m.scaled))
  | .st v m z => some (.fmtM 0x33 v m (msz z false m.scaled))
  | .lds d m z x => some (.fmtM 0x34 d m (msz z x m.scaled))
  | .sts v m z => some (.fmtM 0x35 v m (msz z false m.scaled))
  | .ldc d m z x => some (.fmtM 0x36 d m (msz z x m.scaled))
  | .atomAdd d m w => some (.fmtM 0x37 d m (asz w 0))
  | .atomAnd d m w => some (.fmtM 0x37 d m (asz w 1))
  | .atomOr d m w => some (.fmtM 0x37 d m (asz w 2))
  | .atomXor d m w => some (.fmtM 0x37 d m (asz w 3))
  | .atomMin d m w => some (.fmtM 0x37 d m (asz w 4))
  | .atomMax d m w => some (.fmtM 0x37 d m (asz w 5))
  | .atomMinu d m w => some (.fmtM 0x37 d m (asz w 6))
  | .atomMaxu d m w => some (.fmtM 0x37 d m (asz w 7))
  | .atomExch d m w => some (.fmtM 0x37 d m (asz w 8))
  | .atomFadd d m w => some (.fmtM 0x37 d m (asz w 9))
  | .atomFmin d m w => some (.fmtM 0x37 d m (asz w 10))
  | .atomFmax d m w => some (.fmtM 0x37 d m (asz w 11))
  | .cas d m w => some (.fmtM 0x38 d m (asz w 0))
  | .pref m z => some (.fmtM 0x39 0 m (msz z false m.scaled))
  | .pacq d m z x => some (.fmtM 0x3A d m (msz z x m.scaled))
  | .fence => some (.fmtC 0x3B 0 0 0 0)
  | .drain => some (.fmtC 0x3B 0 0 0 1)
  | .cctlWb a b => some (.fmtC 0x3B 0 a b 2)
  | .cctlInv a b => some (.fmtC 0x3B 1 a b 2)
  | .cctlIinv a b => some (.fmtC 0x3B 2 a b 2)
  | .locq d a k => some (.fmtC 0x3B d a k 3)
  | .mmaE8 t a b s => some (.fmtX 0x3C t a b s 0)
  | .mmasE8 t a b s => some (.fmtX 0x3C t a b s 1)
  | .mmauE8 t a b s => some (.fmtX 0x3C t a b s 2)
  | .mmaE16 t a b s => some (.fmtX 0x3C t a b s 3)
  | .mmasE16 t a b s => some (.fmtX 0x3C t a b s 4)
  | .mmauE16 t a b s => some (.fmtX 0x3C t a b s 5)
  | .gang a => some (.fmtX 0x3D 0 a 0 0 0)
  | .mzero t a => some (.fmtX 0x3D t a 0 0 1)
  | .mldw a b => some (.fmtX 0x3D 0 a b 0 2)
  | .mdrnTs t a b s => some (.fmtX 0x3D t a b (3 * s.val) 3)
  | .mdrnQ t q b s => some (.fmtX 0x3D t q b (3 * s.val) 4)
  | .mdrnPeer t a b s => some (.fmtX 0x3D t a b (3 * s.val) 5)
  | .mrow t q s => some (.fmtX 0x3D t q 0 (3 * s.val) 6)
  | .grdv d a k => some (.fmtVS 0x3E d a k 0x00)
  | .grdw v a k => some (.fmtVS 0x3E v a k 0x01)
  | .rsub d a c => some (.fmtVS 0x3E d a c 0x02)
  | .samp d a c => some (.fmtVS 0x3E d a c 0x03)
  | .rbox d g n => some (.fmtVS 0x3E d g n 0x04)
  | .rtri d g n => some (.fmtVS 0x3E d g n 0x05)
  | .rtriAlpha d g n => some (.fmtVS 0x3E d g n 0x06)
  | .rpsh a c => some (.fmtVS 0x3E 0 a c 0x07)
  | .rpop d c => some (.fmtVS 0x3E d 0 c 0x08)
  | .rhit d a g => some (.fmtVS 0x3E d a g 0x09)
  | .nrq d a n => some (.fmtVS 0x3E d a n 0x10)
  | .hintLo p => some (.fmtH 0 p.toNat)
  | .hintHi p => some (.fmtH 1 p.toNat)
  | .hintMod p => some (.fmtH 2 p.toNat)
  | .hintJoin p => some (.fmtH 3 p.toNat)
  | .growGrant _ _ => none
  | .shrinkComplete _ _ _ => none
  | .joinFusion _ _ _ => none
  | .fragmentReload _ _ => none
  | .endRetire _ _ _ => none
  | .yieldHoldExpiry _ _ _ => none
  | .promotion _ _ _ => none
  | .trapDelivery _ _ => none
  | .hbudExpiry _ _ => none
  | .swapOut _ => none
  | .swapIn => none
  | .placeBlock => none
  | .latchRelease _ _ => none
  | .engineCommandComplete _ => none
  | .rsPowerUp _ => none
  | .feedPush _ => none
  | .nrqDispatch _ => none
  | .nrqComplete _ _ => none
  | .loadComplete _ _ _ _ => none
  | .storeTranslate _ _ => none
  | .atomicRetire _ _ _ => none
  | .atomErr _ => none
  | .promotionHint _ => none
  | .pacqSnapshot _ => none
  | .promoteRequest _ => none
  | .pacqComplete _ _ => none
  | .copyComplete _ _ _ => none
  | .copyChainMemberStart _ => none
  | .tcpyComplete _ _ => none
  | .barrierOperation _ => none
  | .barrierWithdrawal _ => none
  | .barrierCombinerSend _ _ => none
  | .waitPoll _ _ => none
  | .ringConsume _ _ => none
  | .ringEnable _ _ => none
  | .ringDisable _ _ => none
  | .ringResume _ => none
  | .beaconPulse => none
  | .launchTransfer _ => none
  | .launchStart _ => none
  | .launchComplete _ _ => none
  | .groupCommit _ => none
  | .shadowCopyBack _ _ => none
  | .faultRecord _ => none
  | .batchAgeExpiry => none
  | .batchDeliver => none
  | .fresResolve _ => none
  | .shootdownGo => none
  | .shootdownDone => none
  | .mmrlRelease => none
  | .ptrtWrite _ => none
  | .placRefill _ => none
  | .ckctGo => none
  | .checkpointSwitch => none
  | .checkpointStreamAck _ => none
  | .commitGo => none
  | .commitApply _ => none
  | .rgrsRes _ => none
  | .rgrsRel _ => none
  | .budgetDebit _ _ => none
  | .budgetExhausted _ => none
  | .wdog _ => none
  | .renderLaunchStart _ _ => none
  | .patchBin _ _ _ => none
  | .insertQueueMerge _ _ => none
  | .bucketStart _ _ => none
  | .bucketSteal _ _ => none
  | .dicePatch _ _ => none
  | .gridShadeStart _ _ => none
  | .gridHandoff _ _ => none
  | .gridRasterise _ _ => none
  | .bucketResolve _ _ _ => none
  | .refreshEpoch _ => none
  | .start _ => none
  | .startFailRestart => none
  | .dcmdRst => none
  | .dcmdRplc => none
  | .dcmdFwld _ => none
  | .attestation => none
  | .ulctEn _ => none
  | .ulctCls => none
  | .ulctRoll => none
  | .wsctGo => none
  | .weightStoreLoad _ => none
  | .spareRemap _ => none
  | .spareForceSave _ => none
  | .correctedError _ _ => none
  | .uncorr _ => none
  | .linkRetrain _ => none
  | .powerCheck _ => none
  | .coolantFault => none
  | .coolantTimeout => none
  | .hostRegisterWrite _ _ => none
  | .driverPreemptRequest _ => none
  | .storePerformed _ => none
  | .renderResultArrival _ _ _ _ => none
  | .instructionFetch _ _ _ _ => none
  | .iinvAcknowledged _ _ _ => none
  | .refreshEpochEnd _ => none
  | .linkRetrainComplete _ => none
  | .coolantRestored => none
  | .hostPeerAccess _ _ _ _ => none
  | .memoryScrubbing _ _ => none
  | .registerLaneError _ _ _ _ => none

/-- `BF` and `B` of a second source (R39). -/
def Src.bits : Src → Nat
  | .v r => r.val * 2 ^ 3
  | .c r => 2 ^ 10 + r.val * 2 ^ 3
  | .a r => 2 * 2 ^ 10 + r.val * 2 ^ 3
  | .imm b => 3 * 2 ^ 10 + b.toNat * 2 ^ 3

/-- `IDX` and `IF` of a memory operand (R47). -/
def Idx.bits : Idx → Nat
  | .a r => r.val * 2 ^ 6
  | .v r => r.val * 2 ^ 6 + 2 ^ 5

/-- The word of a set of fields (R37). -/
def Fields.word : Fields → Nat
  | .fmtV maj d a b et => maj * 2 ^ 26 + d * 2 ^ 19 + a * 2 ^ 12 + b.bits + et
  | .fmtVS maj d a b sub => maj * 2 ^ 26 + d * 2 ^ 19 + a * 2 ^ 12 + b * 2 ^ 5 + sub
  | .fmtC maj d a b sub => maj * 2 ^ 26 + d * 2 ^ 20 + a * 2 ^ 14 + b * 2 ^ 8 + sub
  | .fmtCI maj d a imm => maj * 2 ^ 26 + d * 2 ^ 20 + a * 2 ^ 14 + imm
  | .fmtA maj d a c b sub => maj * 2 ^ 26 + d * 2 ^ 21 + a * 2 ^ 16 + c * 2 ^ 10 + b * 2 ^ 5 + sub
  | .fmtM maj d m z => maj * 2 ^ 26 + d * 2 ^ 19 + m.base.val * 2 ^ 13 + m.idx.bits + z
  | .fmtB maj t cond off => maj * 2 ^ 26 + t * 2 ^ 20 + cond * 2 ^ 18 + off
  | .fmtBV maj k off => maj * 2 ^ 26 + k * 2 ^ 23 + off
  | .fmtX maj t a b shape kind => maj * 2 ^ 26 + t * 2 ^ 21 + a * 2 ^ 15 + b * 2 ^ 9 + shape * 2 ^ 4 + kind
  | .fmtS maj c sel => maj * 2 ^ 26 + c * 2 ^ 20 + sel * 2 ^ 10
  | .fmtH hk p => 0x3F * 2 ^ 26 + hk * 2 ^ 24 + p

/-- The word of an instruction; an event has none. -/
def encode (i : Instr) : Option Nat := i.fields.map Fields.word

/-- A uniform register field whose low bit is bit `lo`. -/
def creg (w lo : Nat) : CReg := Fin.ofNat 64 (w / 2 ^ lo)
/-- A varying register field. -/
def vreg (w lo : Nat) : VReg := Fin.ofNat 128 (w / 2 ^ lo)
/-- An affine register, tile or 5-bit number field. -/
def areg (w lo : Nat) : Fin 32 := Fin.ofNat 32 (w / 2 ^ lo)
/-- A 3-bit number field. -/
def mreg (w lo : Nat) : MReg := Fin.ofNat 8 (w / 2 ^ lo)
/-- A one-bit number field. -/
def bit1 (w lo : Nat) : Bit1 := Fin.ofNat 2 (w / 2 ^ lo)
/-- One bit of the word. -/
def bitAt (w lo : Nat) : Bool := w / 2 ^ lo % 2 == 1

/-- The integer type of a two-bit code (R40). -/
def IntTy.ofLow : Nat → IntTy
  | 0 => .i64 | 1 => .i32x2 | 2 => .i16x4 | _ => .i8x8
/-- The float type of a two-bit code (R40). -/
def FltTy.ofLow : Nat → FltTy
  | 0 => .f64 | 1 => .f32x2 | 2 => .f16x4 | _ => .bf16x4
/-- The element type of a code (R40). -/
def ElTy.ofCode (n : Nat) : ElTy := if n < 4 then .int (.ofLow n) else .flt (.ofLow (n - 4))
/-- The condition of a code; the codes of R46. -/
def Rel.ofCode : Nat → Rel
  | 0 => .eq | 1 => .ne | 2 => .lt | _ => .le
/-- The reduction of a code (R46). -/
def RedOp.ofCode : Nat → RedOp
  | 0 => .add | 1 => .min | 2 => .max | _ => .minu
/-- The special-function type of a code; 3 is not assigned and reads as a type whose code differs (R131). -/
def SfuTy.ofCode : Nat → SfuTy
  | 0 => .f32x2 | 1 => .f16x4 | _ => .bf16x4
/-- The size of a code; 5 to 7 are not assigned and read as a size whose code differs (R47). -/
def Size.ofCode : Nat → Size
  | 0 => .b8 | 1 => .b16 | 2 => .b32 | 3 => .b64 | _ => .b128
/-- The mask selector of a code; 10 to 15 are not assigned and read as one whose code differs (R46). -/
def MaskSel.ofCode (n : Nat) : MaskSel :=
  if n < 8 then .m (Fin.ofNat 8 n) else if n = 8 then .xm else .lm
/-- The special register of a selector, none where no table assigns one (R49, R66). -/
def SReg.ofSelector (n : Nat) : Option SReg :=
  match n with
  | 0x000 => some .xm | 0x001 => some .lm | 0x002 => some .fl | 0x003 => some .cst | 0x004 => some .dmk
  | 0x008 => some .tcause | 0x009 => some .tpc | 0x00A => some .taddr | 0x00B => some .tlanes
  | 0x00C => some .tinfo | 0x00D => some .txm | 0x00E => some .tk0 | 0x00F => some .tk1
  | 0x010 => some .hbud | 0x080 => some .nbv | 0x081 => some .nsf
  | 0x0C0 => some .mcfg | 0x0C1 => some .mst | 0x0C2 => some .gang
  | 0x140 => some .sfra | 0x150 => some .ftmap | 0x151 => some .ftst
  | 0x180 => some .bpc | 0x181 => some .ccyc | 0x182 => some .rfph | 0x183 => some .wdc
  | _ =>
    if n / 16 = 0x19 then some (.pme (Fin.ofNat 16 n))
    else if n / 16 = 0x1A then some (.pmc (Fin.ofNat 16 n))
    else none
/-- The second source of a V-format word (R39). -/
def srcOf (w : Nat) : Src :=
  match w / 2 ^ 10 % 4 with
  | 0 => .v (vreg w 3)
  | 1 => .c (creg w 3)
  | 2 => .a (areg w 3)
  | _ => .imm (BitVec.ofNat 7 (w / 2 ^ 3))
/-- The memory operand of an M-format word (R47). -/
def mopOf (w : Nat) (scaled : Bool) : MOp :=
  { base := creg w 13, idx := if bitAt w 5 then .v (vreg w 6) else .a (areg w 6), scaled := scaled }


/-- Major 0x01: br, brc (R46). -/
def dec01 (w : Nat) : Option Instr :=
  match w / 2 ^ 18 % 4 with
  | 0 => some (.br (BitVec.ofNat 18 (w / 2 ^ 0)))
  | 1 => some (.brcZ (creg w 20) (BitVec.ofNat 18 (w / 2 ^ 0)))
  | 2 => some (.brcNz (creg w 20) (BitVec.ofNat 18 (w / 2 ^ 0)))
  | 3 => some (.brcNeg (creg w 20) (BitVec.ofNat 18 (w / 2 ^ 0)))
  | _ => none

/-- Major 0x04: the control group (R46). -/
def dec04 (w : Nat) : Option Instr :=
  match w % 256 with
  | 0 => some .nop
  | 1 => some (.jmpi (creg w 14))
  | 2 => some (.ret (creg w 14))
  | 3 => some (.elect (mreg w 20))
  | 4 => some .yield
  | 5 => some .endd
  | 6 => some (.trap (creg w 14))
  | 7 => some .rft
  | 8 => some .pdone
  | 9 => some (.wcnt (creg w 14))
  | 10 => some .sigchk
  | _ => none

/-- Major 0x05: sread (R49). -/
def dec05 (w : Nat) : Option Instr :=
  (SReg.ofSelector (w / 2 ^ 10 % 1024)).map fun r => .sread (creg w 20) r

/-- Major 0x06: swrite; two selectors have rows of their own (R49, R151, R348). -/
def dec06 (w : Nat) : Option Instr :=
  match w / 2 ^ 10 % 1024 with
  | 0x0C0 => some (.mcfgWrite (creg w 20))
  | 0x150 => some (.ftmapWrite (creg w 20))
  | n => (SReg.ofSelector n).map fun r => .swrite (creg w 20) r

/-- Major 0x07: uniform arithmetic (R46). -/
def dec07 (w : Nat) : Option Instr :=
  match w % 256 with
  | 0 => some (.cadd (creg w 20) (creg w 14) (creg w 8))
  | 1 => some (.csub (creg w 20) (creg w 14) (creg w 8))
  | 2 => some (.cmul (creg w 20) (creg w 14) (creg w 8))
  | 3 => some (.cmulh (creg w 20) (creg w 14) (creg w 8))
  | 4 => some (.cmad (creg w 20) (creg w 14) (creg w 8))
  | 5 => some (.cand (creg w 20) (creg w 14) (creg w 8))
  | 6 => some (.cor (creg w 20) (creg w 14) (creg w 8))
  | 7 => some (.cxor (creg w 20) (creg w 14) (creg w 8))
  | 8 => some (.cnot (creg w 20) (creg w 14))
  | 9 => some (.cshl (creg w 20) (creg w 14) (creg w 8))
  | 10 => some (.cshr (creg w 20) (creg w 14) (creg w 8))
  | 11 => some (.csar (creg w 20) (creg w 14) (creg w 8))
  | 12 => some (.cmin (creg w 20) (creg w 14) (creg w 8))
  | 13 => some (.cminu (creg w 20) (creg w 14) (creg w 8))
  | 14 => some (.cmax (creg w 20) (creg w 14) (creg w 8))
  | 15 => some (.cmaxu (creg w 20) (creg w 14) (creg w 8))
  | 16 => some (.ccmpEq (creg w 20) (creg w 14) (creg w 8))
  | 17 => some (.ccmpNe (creg w 20) (creg w 14) (creg w 8))
  | 18 => some (.ccmpLt (creg w 20) (creg w 14) (creg w 8))
  | 19 => some (.ccmpLe (creg w 20) (creg w 14) (creg w 8))
  | 20 => some (.ccmpLtu (creg w 20) (creg w 14) (creg w 8))
  | 21 => some (.ccmpLeu (creg w 20) (creg w 14) (creg w 8))
  | 22 => some (.csel (creg w 20) (creg w 14) (creg w 8))
  | 23 => some (.cmov (creg w 20) (creg w 14))
  | 24 => some (.cbfe (creg w 20) (creg w 14) (creg w 8))
  | 25 => some (.cpopc (creg w 20) (creg w 14))
  | 26 => some (.cclz (creg w 20) (creg w 14))
  | _ => none

/-- Major 0x0A: the affine group (R46). -/
def dec0A (w : Nat) : Option Instr :=
  match w % 32 with
  | 0 => some (.amov (areg w 21) (areg w 16))
  | 1 => some (.aidx (areg w 21) (creg w 10))
  | 2 => some (.aaddA (areg w 21) (areg w 16) (areg w 5))
  | 3 => some (.aaddC (areg w 21) (areg w 16) (creg w 10))
  | 4 => some (.asubA (areg w 21) (areg w 16) (areg w 5))
  | 5 => some (.asubC (areg w 21) (areg w 16) (creg w 10))
  | 6 => some (.amul (areg w 21) (areg w 16) (creg w 10))
  | 7 => some (.ashl (areg w 21) (areg w 16) (creg w 10))
  | _ => none

/-- Major 0x0B: lifts and lowering (R46). -/
def dec0B (w : Nat) : Option Instr :=
  match w % 32 with
  | 0 => some (.lca (areg w 19) (creg w 12))
  | 1 => some (.lcv (vreg w 19) (creg w 12))
  | 2 => some (.lav (vreg w 19) (areg w 12))
  | 3 => some (.lvc (creg w 19) (vreg w 12))
  | 4 => some (.lvcx (creg w 19) (vreg w 12))
  | _ => none

/-- Major 0x0C: allotment (R46). -/
def dec0C (w : Nat) : Option Instr :=
  match w % 256 with
  | 0 => some (.growV (creg w 20) (creg w 14))
  | 1 => some (.growT (creg w 20) (creg w 14))
  | 2 => some (.shrinkV (creg w 20) (creg w 14))
  | 3 => some (.shrinkT (creg w 20) (creg w 14))
  | _ => none

/-- Major 0x0D: qbind, qstat (R46). -/
def dec0D (w : Nat) : Option Instr :=
  match w % 256 with
  | 0 => some (.qbind (mreg w 20) (creg w 14))
  | 1 => some (.qstat (creg w 20) (mreg w 8))
  | _ => none

/-- Major 0x0E: copies (R46). -/
def dec0E (w : Nat) : Option Instr :=
  match w % 256 with
  | 0 => some (.cpy (creg w 14))
  | 1 => some (.cpyw (creg w 14) (creg w 8))
  | 2 => some (.tcpy (creg w 14))
  | _ => none

/-- Major 0x0F: lnch, barriers and waits (R46). -/
def dec0F (w : Nat) : Option Instr :=
  match w % 256 with
  | 0 => some (.lnch (creg w 20) (creg w 14))
  | 1 => some (.bar (creg w 14))
  | 2 => some (.bara (creg w 20) (creg w 14))
  | 3 => some (.bare (creg w 14) (creg w 8))
  | 4 => some (.barw (creg w 14) (creg w 8))
  | 5 => some (.wait (creg w 14) (creg w 8))
  | 6 => some (.waitExt (creg w 14) (creg w 8))
  | _ => none

/-- Major 0x21: the unary group (R46). -/
def dec21 (w : Nat) : Option Instr :=
  match w / 4 % 8 with
  | 0 => some (.vnot (vreg w 19) (vreg w 12) (IntTy.ofLow (w / 2 ^ 0 % 4)))
  | 2 => some (.vabs (vreg w 19) (vreg w 12) (IntTy.ofLow (w / 2 ^ 0 % 4)))
  | 4 => some (.vneg (vreg w 19) (vreg w 12) (IntTy.ofLow (w / 2 ^ 0 % 4)))
  | 6 => some (.vpopc (vreg w 19) (vreg w 12) (IntTy.ofLow (w / 2 ^ 0 % 4)))
  | 1 => some (.fabs (vreg w 19) (vreg w 12) (FltTy.ofLow (w / 2 ^ 0 % 4)))
  | 3 => some (.fneg (vreg w 19) (vreg w 12) (FltTy.ofLow (w / 2 ^ 0 % 4)))
  | 5 => some (.frnd (vreg w 19) (vreg w 12) (FltTy.ofLow (w / 2 ^ 0 % 4)))
  | 7 => some (.fclass (vreg w 19) (vreg w 12) (FltTy.ofLow (w / 2 ^ 0 % 4)))
  | _ => none

/-- Major 0x23: compare group B (R46). -/
def dec23 (w : Nat) : Option Instr :=
  match w / 4 % 8 with
  | 0 => some (.vcmpLtu (mreg w 19) (vreg w 12) (vreg w 5) (IntTy.ofLow (w / 2 ^ 0 % 4)))
  | 1 => some (.fcmpUo (mreg w 19) (vreg w 12) (vreg w 5) (FltTy.ofLow (w / 2 ^ 0 % 4)))
  | 2 => some (.vcmpLeu (mreg w 19) (vreg w 12) (vreg w 5) (IntTy.ofLow (w / 2 ^ 0 % 4)))
  | _ => none

/-- Major 0x26: special functions (R46). -/
def dec26 (w : Nat) : Option Instr :=
  match w / 4 % 8 with
  | 0 => some (.frcp (vreg w 19) (vreg w 12) (SfuTy.ofCode (w / 2 ^ 0 % 4)))
  | 1 => some (.frsq (vreg w 19) (vreg w 12) (SfuTy.ofCode (w / 2 ^ 0 % 4)))
  | 2 => some (.fsqrt (vreg w 19) (vreg w 12) (SfuTy.ofCode (w / 2 ^ 0 % 4)))
  | 3 => some (.fexp2 (vreg w 19) (vreg w 12) (SfuTy.ofCode (w / 2 ^ 0 % 4)))
  | 4 => some (.flog2 (vreg w 19) (vreg w 12) (SfuTy.ofCode (w / 2 ^ 0 % 4)))
  | 5 => some (.fsin (vreg w 19) (vreg w 12) (SfuTy.ofCode (w / 2 ^ 0 % 4)))
  | 6 => some (.fcos (vreg w 19) (vreg w 12) (SfuTy.ofCode (w / 2 ^ 0 % 4)))
  | _ => none

/-- Major 0x28: dot products (R46). -/
def dec28 (w : Nat) : Option Instr :=
  match w % 32 with
  | 0 => some (.dot2F32x2 (vreg w 19) (vreg w 12) (vreg w 5))
  | 1 => some (.dot4F16x4 (vreg w 19) (vreg w 12) (vreg w 5))
  | 2 => some (.dot4Bf16x4 (vreg w 19) (vreg w 12) (vreg w 5))
  | 3 => some (.dot4I16x4 (vreg w 19) (vreg w 12) (vreg w 5))
  | 4 => some (.dot8I8x8 (vreg w 19) (vreg w 12) (vreg w 5))
  | _ => none

/-- Major 0x2D: Welford (R46). -/
def dec2D (w : Nat) : Option Instr :=
  match w / 2 % 16 with
  | 2 => some (.welf (vreg w 19) (vreg w 12) (bit1 w 0))
  | 6 => some (.wmrg (vreg w 19) (vreg w 12) (bit1 w 0))
  | _ => none

/-- Major 0x2E: cross-lane (R46). -/
def dec2E (w : Nat) : Option Instr :=
  match w % 32 with
  | 0 => some (.shfl (vreg w 19) (vreg w 12) (vreg w 5))
  | 1 => some (.shflx (vreg w 19) (vreg w 12) (vreg w 5))
  | 2 => some (.bcst (vreg w 19) (vreg w 12) (areg w 5))
  | 3 => some (.voteAny (vreg w 19) (vreg w 12))
  | 4 => some (.voteAll (vreg w 19) (vreg w 12))
  | 5 => some (.voteBal (vreg w 19) (vreg w 12))
  | _ => none

/-- Major 0x31: the mask group (R46). -/
def dec31 (w : Nat) : Option Instr :=
  match w % 32 with
  | 0 => some (.mmov (MaskSel.ofCode (w / 2 ^ 19 % 16)) (MaskSel.ofCode (w / 2 ^ 12 % 16)))
  | 1 => some (.mand (MaskSel.ofCode (w / 2 ^ 19 % 16)) (MaskSel.ofCode (w / 2 ^ 12 % 16)) (MaskSel.ofCode (w / 2 ^ 5 % 16)))
  | 2 => some (.mor (MaskSel.ofCode (w / 2 ^ 19 % 16)) (MaskSel.ofCode (w / 2 ^ 12 % 16)) (MaskSel.ofCode (w / 2 ^ 5 % 16)))
  | 3 => some (.mxor (MaskSel.ofCode (w / 2 ^ 19 % 16)) (MaskSel.ofCode (w / 2 ^ 12 % 16)) (MaskSel.ofCode (w / 2 ^ 5 % 16)))
  | 4 => some (.mnot (MaskSel.ofCode (w / 2 ^ 19 % 16)) (MaskSel.ofCode (w / 2 ^ 12 % 16)))
  | 5 => some (.mpop (creg w 19) (MaskSel.ofCode (w / 2 ^ 12 % 16)))
  | 6 => some (.mfirst (MaskSel.ofCode (w / 2 ^ 19 % 16)) (MaskSel.ofCode (w / 2 ^ 12 % 16)))
  | _ => none

/-- Major 0x37: atom (R46). -/
def dec37 (w : Nat) : Option Instr :=
  match w % 16 with
  | 0 => some (.atomAdd (vreg w 19) (mopOf w true) (bitAt w 4))
  | 1 => some (.atomAnd (vreg w 19) (mopOf w true) (bitAt w 4))
  | 2 => some (.atomOr (vreg w 19) (mopOf w true) (bitAt w 4))
  | 3 => some (.atomXor (vreg w 19) (mopOf w true) (bitAt w 4))
  | 4 => some (.atomMin (vreg w 19) (mopOf w true) (bitAt w 4))
  | 5 => some (.atomMax (vreg w 19) (mopOf w true) (bitAt w 4))
  | 6 => some (.atomMinu (vreg w 19) (mopOf w true) (bitAt w 4))
  | 7 => some (.atomMaxu (vreg w 19) (mopOf w true) (bitAt w 4))
  | 8 => some (.atomExch (vreg w 19) (mopOf w true) (bitAt w 4))
  | 9 => some (.atomFadd (vreg w 19) (mopOf w true) (bitAt w 4))
  | 10 => some (.atomFmin (vreg w 19) (mopOf w true) (bitAt w 4))
  | 11 => some (.atomFmax (vreg w 19) (mopOf w true) (bitAt w 4))
  | _ => none

/-- Major 0x3B: fence, drain, cctl, locq; `CD` of `cctl` holds its operation (R46, R244). -/
def dec3B (w : Nat) : Option Instr :=
  match w % 256 with
  | 0 => some .fence
  | 1 => some .drain
  | 2 =>
    match w / 2 ^ 20 % 64 with
    | 0 => some (.cctlWb (creg w 14) (creg w 8))
    | 1 => some (.cctlInv (creg w 14) (creg w 8))
    | 2 => some (.cctlIinv (creg w 14) (creg w 8))
    | _ => none
  | 3 => some (.locq (creg w 20) (creg w 14) (bit1 w 8))
  | _ => none

/-- Major 0x3C: matrix arithmetic (R46). -/
def dec3C (w : Nat) : Option Instr :=
  match w % 16 with
  | 0 => some (.mmaE8 (areg w 21) (creg w 15) (creg w 9) (Fin.ofNat 27 (w / 2 ^ 4 % 32)))
  | 1 => some (.mmasE8 (areg w 21) (creg w 15) (creg w 9) (Fin.ofNat 27 (w / 2 ^ 4 % 32)))
  | 2 => some (.mmauE8 (areg w 21) (creg w 15) (creg w 9) (Fin.ofNat 27 (w / 2 ^ 4 % 32)))
  | 3 => some (.mmaE16 (areg w 21) (creg w 15) (creg w 9) (Fin.ofNat 27 (w / 2 ^ 4 % 32)))
  | 4 => some (.mmasE16 (areg w 21) (creg w 15) (creg w 9) (Fin.ofNat 27 (w / 2 ^ 4 % 32)))
  | 5 => some (.mmauE16 (areg w 21) (creg w 15) (creg w 9) (Fin.ofNat 27 (w / 2 ^ 4 % 32)))
  | _ => none

/-- Major 0x3D: matrix control (R46). -/
def dec3D (w : Nat) : Option Instr :=
  match w % 16 with
  | 0 => some (.gang (creg w 15))
  | 1 => some (.mzero (areg w 21) (creg w 15))
  | 2 => some (.mldw (creg w 15) (creg w 9))
  | 3 => some (.mdrnTs (areg w 21) (creg w 15) (creg w 9) (Fin.ofNat 9 (w / 2 ^ 4 % 32 / 3)))
  | 4 => some (.mdrnQ (areg w 21) (mreg w 15) (creg w 9) (Fin.ofNat 9 (w / 2 ^ 4 % 32 / 3)))
  | 5 => some (.mdrnPeer (areg w 21) (creg w 15) (creg w 9) (Fin.ofNat 9 (w / 2 ^ 4 % 32 / 3)))
  | 6 => some (.mrow (areg w 21) (mreg w 15) (Fin.ofNat 9 (w / 2 ^ 4 % 32 / 3)))
  | _ => none

/-- Major 0x3E: render and nrq (R46). -/
def dec3E (w : Nat) : Option Instr :=
  match w % 32 with
  | 0 => some (.grdv (vreg w 19) (areg w 12) (mreg w 5))
  | 1 => some (.grdw (vreg w 19) (areg w 12) (mreg w 5))
  | 2 => some (.rsub (vreg w 19) (areg w 12) (creg w 5))
  | 3 => some (.samp (vreg w 19) (vreg w 12) (creg w 5))
  | 4 => some (.rbox (vreg w 19) (vreg w 12) (vreg w 5))
  | 5 => some (.rtri (vreg w 19) (vreg w 12) (vreg w 5))
  | 6 => some (.rtriAlpha (vreg w 19) (vreg w 12) (vreg w 5))
  | 7 => some (.rpsh (vreg w 12) (creg w 5))
  | 8 => some (.rpop (vreg w 19) (creg w 5))
  | 9 => some (.rhit (vreg w 19) (vreg w 12) (vreg w 5))
  | 16 => some (.nrq (vreg w 19) (vreg w 12) (creg w 5))
  | _ => none

/-- Major 0x3F: hints (R46). -/
def dec3F (w : Nat) : Option Instr :=
  match w / 2 ^ 24 % 4 with
  | 0 => some (.hintLo (BitVec.ofNat 24 (w / 2 ^ 0)))
  | 1 => some (.hintHi (BitVec.ofNat 24 (w / 2 ^ 0)))
  | 2 => some (.hintMod (BitVec.ofNat 24 (w / 2 ^ 0)))
  | 3 => some (.hintJoin (BitVec.ofNat 24 (w / 2 ^ 0)))
  | _ => none

/-- The instruction that a word's opcode bits name, its operands read from their fields (R44). -/
def decodeOp (w : Nat) : Option Instr :=
  match w / 2 ^ 26 % 64 with
  | 0x01 => dec01 w
  | 0x02 => some (.brv (mreg w 23) (BitVec.ofNat 23 (w / 2 ^ 0)))
  | 0x03 => some (.call (creg w 20) (BitVec.ofNat 18 (w / 2 ^ 0)))
  | 0x04 => dec04 w
  | 0x05 => dec05 w
  | 0x06 => dec06 w
  | 0x07 => dec07 w
  | 0x08 => some (.caddImm (creg w 20) (creg w 14) (BitVec.ofNat 14 (w / 2 ^ 0)))
  | 0x0A => dec0A w
  | 0x0B => dec0B w
  | 0x0C => dec0C w
  | 0x0D => dec0D w
  | 0x0E => dec0E w
  | 0x0F => dec0F w
  | 0x10 => if bitAt w 2 then some (.fadd (vreg w 19) (vreg w 12) (srcOf w) (FltTy.ofLow (w / 2 ^ 0 % 4))) else some (.vadd (vreg w 19) (vreg w 12) (srcOf w) (IntTy.ofLow (w / 2 ^ 0 % 4)))
  | 0x11 => if bitAt w 2 then some (.fsub (vreg w 19) (vreg w 12) (srcOf w) (FltTy.ofLow (w / 2 ^ 0 % 4))) else some (.vsub (vreg w 19) (vreg w 12) (srcOf w) (IntTy.ofLow (w / 2 ^ 0 % 4)))
  | 0x12 => if bitAt w 2 then some (.fmul (vreg w 19) (vreg w 12) (srcOf w) (FltTy.ofLow (w / 2 ^ 0 % 4))) else some (.vmul (vreg w 19) (vreg w 12) (srcOf w) (IntTy.ofLow (w / 2 ^ 0 % 4)))
  | 0x13 => if bitAt w 2 then none else some (.vmulh (vreg w 19) (vreg w 12) (srcOf w) (IntTy.ofLow (w / 2 ^ 0 % 4)))
  | 0x14 => if bitAt w 2 then some (.ffma (vreg w 19) (vreg w 12) (srcOf w) (FltTy.ofLow (w / 2 ^ 0 % 4))) else some (.vmad (vreg w 19) (vreg w 12) (srcOf w) (IntTy.ofLow (w / 2 ^ 0 % 4)))
  | 0x15 => if bitAt w 2 then none else some (.vand (vreg w 19) (vreg w 12) (srcOf w) (IntTy.ofLow (w / 2 ^ 0 % 4)))
  | 0x16 => if bitAt w 2 then none else some (.vor (vreg w 19) (vreg w 12) (srcOf w) (IntTy.ofLow (w / 2 ^ 0 % 4)))
  | 0x17 => if bitAt w 2 then none else some (.vxor (vreg w 19) (vreg w 12) (srcOf w) (IntTy.ofLow (w / 2 ^ 0 % 4)))
  | 0x18 => if bitAt w 2 then none else some (.vshl (vreg w 19) (vreg w 12) (srcOf w) (IntTy.ofLow (w / 2 ^ 0 % 4)))
  | 0x19 => if bitAt w 2 then none else some (.vshr (vreg w 19) (vreg w 12) (srcOf w) (IntTy.ofLow (w / 2 ^ 0 % 4)))
  | 0x1A => if bitAt w 2 then none else some (.vsar (vreg w 19) (vreg w 12) (srcOf w) (IntTy.ofLow (w / 2 ^ 0 % 4)))
  | 0x1B => if bitAt w 2 then some (.fmin (vreg w 19) (vreg w 12) (srcOf w) (FltTy.ofLow (w / 2 ^ 0 % 4))) else some (.vmin (vreg w 19) (vreg w 12) (srcOf w) (IntTy.ofLow (w / 2 ^ 0 % 4)))
  | 0x1C => if bitAt w 2 then none else some (.vminu (vreg w 19) (vreg w 12) (srcOf w) (IntTy.ofLow (w / 2 ^ 0 % 4)))
  | 0x1D => if bitAt w 2 then some (.fmax (vreg w 19) (vreg w 12) (srcOf w) (FltTy.ofLow (w / 2 ^ 0 % 4))) else some (.vmax (vreg w 19) (vreg w 12) (srcOf w) (IntTy.ofLow (w / 2 ^ 0 % 4)))
  | 0x1E => if bitAt w 2 then none else some (.vmaxu (vreg w 19) (vreg w 12) (srcOf w) (IntTy.ofLow (w / 2 ^ 0 % 4)))
  | 0x1F => if w / 2 % 4 = 0 then some (.vbfe (vreg w 19) (vreg w 12) (srcOf w) (bit1 w 0)) else none
  | 0x20 => if w / 2 % 4 = 0 then some (.vbfi (vreg w 19) (vreg w 12) (srcOf w) (bit1 w 0)) else none
  | 0x21 => dec21 w
  | 0x22 => if bitAt w 2 then some (.fcmp (mreg w 19) (vreg w 12) (vreg w 5) (Rel.ofCode (w / 2 ^ 3 % 4)) (FltTy.ofLow (w / 2 ^ 0 % 4))) else some (.vcmp (mreg w 19) (vreg w 12) (vreg w 5) (Rel.ofCode (w / 2 ^ 3 % 4)) (IntTy.ofLow (w / 2 ^ 0 % 4)))
  | 0x23 => dec23 w
  | 0x24 => if w / 4 % 8 = 0 then some (.vclz (vreg w 19) (vreg w 12) (IntTy.ofLow (w / 2 ^ 0 % 4))) else if w % 32 = 8 then some (.vperm (vreg w 19) (vreg w 12) (vreg w 5)) else none
  | 0x25 => some (.vsel (vreg w 19) (vreg w 12) (vreg w 5) (mreg w 0))
  | 0x26 => dec26 w
  | 0x27 => some (.cvt (vreg w 19) (vreg w 12) (ElTy.ofCode (w / 2 ^ 5 % 8)) (ElTy.ofCode (w / 2 ^ 0 % 8)))
  | 0x28 => dec28 w
  | 0x29 => some (.dot8Binary8 (vreg w 19) (vreg w 12) (vreg w 5) (BitVec.ofNat 5 (w / 2 ^ 0)))
  | 0x2A => some (.cvn (vreg w 19) (vreg w 12) (FltTy.ofLow (w / 2 ^ 5 % 4)) (BitVec.ofNat 5 (w / 2 ^ 0)))
  | 0x2B => some (.cvw (vreg w 19) (vreg w 12) (FltTy.ofLow (w / 2 ^ 5 % 4)) (BitVec.ofNat 5 (w / 2 ^ 0)))
  | 0x2C => some (.cvs (vreg w 19) (vreg w 12) (vreg w 5) (BitVec.ofNat 5 (w / 2 ^ 0)))
  | 0x2D => dec2D w
  | 0x2E => dec2E w
  | 0x2F => some (.rdc (vreg w 19) (vreg w 12) (RedOp.ofCode (w / 2 ^ 3 % 4)) (ElTy.ofCode (w / 2 ^ 0 % 8)))
  | 0x30 => some (.scan (vreg w 19) (vreg w 12) (RedOp.ofCode (w / 2 ^ 3 % 4)) (ElTy.ofCode (w / 2 ^ 0 % 8)))
  | 0x31 => dec31 w
  | 0x32 => some (.ld (vreg w 19) (mopOf w (bitAt w 0)) (Size.ofCode (w / 2 ^ 2 % 8)) (bitAt w 1))
  | 0x33 => some (.st (vreg w 19) (mopOf w (bitAt w 0)) (Size.ofCode (w / 2 ^ 2 % 8)))
  | 0x34 => some (.lds (vreg w 19) (mopOf w (bitAt w 0)) (Size.ofCode (w / 2 ^ 2 % 8)) (bitAt w 1))
  | 0x35 => some (.sts (vreg w 19) (mopOf w (bitAt w 0)) (Size.ofCode (w / 2 ^ 2 % 8)))
  | 0x36 => some (.ldc (creg w 19) (mopOf w (bitAt w 0)) (Size.ofCode (w / 2 ^ 2 % 8)) (bitAt w 1))
  | 0x37 => dec37 w
  | 0x38 => some (.cas (vreg w 19) (mopOf w true) (bitAt w 4))
  | 0x39 => some (.pref (mopOf w (bitAt w 0)) (Size.ofCode (w / 2 ^ 2 % 8)))
  | 0x3A => some (.pacq (vreg w 19) (mopOf w (bitAt w 0)) (Size.ofCode (w / 2 ^ 2 % 8)) (bitAt w 1))
  | 0x3B => dec3B w
  | 0x3C => dec3C w
  | 0x3D => dec3D w
  | 0x3E => dec3E w
  | 0x3F => dec3F w
  | _ => none

/-- The decoder, total on words below 2^32. -/
def decode (w : Nat) : Except DecodeError Instr :=
  match decodeOp w with
  | none => .error .unassigned
  | some i =>
    if encode i ≠ some w then .error .reservedField
    else if i.wf then .ok i
    else .error .operandLimit

/-- The word of four bytes, little-endian (R36). -/
def wordOfBytes : List Byte → Option Nat
  | [b0, b1, b2, b3] => some (b0.toNat + 2 ^ 8 * b1.toNat + 2 ^ 16 * b2.toNat + 2 ^ 24 * b3.toNat)
  | _ => none

/-- The bytes of a word, little-endian (R36). -/
def bytesOfWord (w : Nat) : List Byte :=
  [BitVec.ofNat 8 w, BitVec.ofNat 8 (w / 2 ^ 8), BitVec.ofNat 8 (w / 2 ^ 16), BitVec.ofNat 8 (w / 2 ^ 24)]

/-- Decoding of any list of bytes. -/
def decodeBytes (bs : List Byte) : Except DecodeError Instr :=
  match wordOfBytes bs with
  | none => .error .notAWord
  | some w => decode w

/-- The decoder's answer for a word as the opcode table numbers its bits: every instruction is one 32-bit
word (R36), so other lengths have none. -/
def decodeTableWord (nbits w : Nat) : Option Instr :=
  if nbits ≤ 32 then
    match decodeBytes (bytesOfWord (w % 2 ^ nbits)) with
    | .ok i => some i
    | .error _ => none
  else none

end Sys2Proof
end

