-- ==== Sys2Proof/Machine/State.lean ====
section
/-! DEFINITION. The machine's state: everything the spec gives the device, as plain data, and its value at reset. -/

namespace Sys2Proof.Machine

open Sys2Proof

/-- A memory: bytes at addresses in rising order, none 0; an unlisted byte reads 0 (log 3 DESIGN CHOICE unsafe). -/
abbrev Mem := List Host.Cell

/-- The spaces a physical address lies in (R205, R206, R338). -/
inductive Space where
  /-- local device memory (R419) -/
  | loc
  /-- system memory: the host's or CXL memory -/
  | sys
  /-- memory of peer `n` -/
  | peer (n : Nat)
  /-- the scratchpad allocation of block `b` -/
  | spad (b : Nat)
  /-- the tile store of pair `p`'s engine -/
  | tile (p : Nat)
  /-- the weight store of M die `k` -/
  | weight (k : Nat)
  deriving DecidableEq, Repr, Inhabited

/-- A byte of one space. -/
structure PA where
  sp : Space
  a : Nat
  deriving DecidableEq, Repr, Inhabited

/-- Page permissions (R338). -/
structure Perm where
  r : Bool
  w : Bool
  x : Bool
  deriving DecidableEq, Repr, Inhabited

/-- The scopes (R210). -/
inductive Scope where
  | crew | block | cluster | device | system
  deriving DecidableEq, Repr, Inhabited

/-- The atomic operations (R237). -/
inductive AtomOp where
  | add | and | or | xor | min | max | minu | maxu | exch | fadd | fmin | fmax | cas
  deriving DecidableEq, Repr, Inhabited

/-- The causes (R192). -/
inductive Cause where
  | illegal | badpc | allot | upartial | affovf | nonunif | trapi | divovf | double
  | pgnp | pgperm | stperm | ifperm | spbound | misalign
  | qovr | qreg | atomerr | copyf | gangf | matf | lnchf | nrqf
  | poison | sigmiss | wdog | preempt | uncorr | savef
  deriving DecidableEq, Repr, Inhabited

/-- `cst.LVL` (R191). -/
inductive Level where
  | none | user | supervisor | preempt
  deriving DecidableEq, Repr, Inhabited

/-- A hint word of a pending run (R51). -/
inductive Hint where
  | lo (p : BitVec 24)
  | hi (p : BitVec 24)
  | mod (p : BitVec 24)
  | join (p : BitVec 24)
  deriving DecidableEq, Repr, Inhabited

/-- The value of an affine register (R100). -/
structure Affine where
  base : Word
  stride : BitVec 32
  deriving DecidableEq, Repr, Inhabited

/-- Why a fragment is not ready although resident (R26, R31, R32). The forms that keep `PC` at their instruction issue
it again when their condition holds. -/
inductive Park where
  | none
  /-- on a grow wait list (R114) -/
  | grow (tile : Bool) (n : Nat)
  /-- `shrink` waits for pending accesses (R115) -/
  | shrink (tile : Bool) (n : Nat)
  /-- on the rendezvous latch (R166) -/
  | latch
  /-- `wcnt` (R185) -/
  | wcnt (sel : Nat) (q : Nat)
  /-- `bar` whose arrival, operation `op`, has not yet returned its token (R375) -/
  | barArr (op : Nat)
  /-- `bar` with its token, waiting for the phase (R375) -/
  | barTok (at_ : PA) (token : Nat)
  /-- `barw` waiting for the phase (R375) -/
  | barw (at_ : PA) (token : Nat)
  /-- `wait` or `wait.ext` on a counter, since a cycle (R380) -/
  | wait (at_ : PA) (va : Nat) (target : Word) (ext : Bool) (since : Nat)
  /-- `lnch` against a full pending-launch queue: its record is launch `lid`; register `cd` still takes the status, 63 for
  none (R289, R292) -/
  | lnch (cd : Nat) (since : Nat) (lid : Nat)
  /-- a `cpyw` continuation (R303) -/
  | cpyw (copy : Nat) (since : Nat)
  /-- a continuation reached, whose first issue delivers a recorded COPYF (R303, R305) -/
  | cont
  /-- arrived at its join (R179) -/
  | join
  /-- `end` has issued (R186) -/
  | ending
  /-- `drain` (R236) -/
  | drain
  /-- `fence` (R242) -/
  | fence (acq : Bool) (rel : Bool) (sc : Scope)
  /-- `cctl.iinv` of a range awaits the cores' acknowledgements (R244) -/
  | iinv (at_ : Nat) (n : Nat)
  /-- `qbind` waits for commands naming its register (R294) -/
  | qbind (k : Nat)
  /-- waits for pages on the batched path (R350), as wait `id`; kind 0 read, 1 write, 2 fetch, 3 atomic or copy (R351); with
  the `tinfo` of a failure and the faulting lanes (32: of no lane) and addresses -/
  | batch (id : Nat) (kind : Nat) (info : Nat) (lanes : List (Nat × Nat))
  /-- waits for a migrating page (R345) -/
  | migrate
  /-- sleeps on an empty result queue `k` that its next instruction pops (R26, R295) -/
  | queue (k : Nat)
  /-- a recorded store batch waits for the pages of its faulting store, or, with none left, translates again (R352) -/
  | storeBatch (id : Nat) (lanes : List (Nat × Nat))
  /-- a fault found by a batch, to be delivered to the user handler at the next issue (R352) -/
  | failed (c : Cause) (va : Nat) (lanes : Mask) (info : Nat)
  deriving DecidableEq, Repr, Inhabited

/-- A fragment (R173, R21). `fid`, `preds` and `order` are the model's: its name, the earlier fragments of its crew
whose accesses precede it in program order (R209), and the order of spilling (R180). -/
structure Frag where
  fid : Nat
  pc : VAddr
  fl : Mask
  xm : Mask
  dmk : BitVec 32
  join : Option Nat
  entry : Option Nat
  order : Nat
  stamp : Nat
  passed : Nat
  hold : Option Nat
  park : Park
  /-- the word that parked, to be folded when it completes (R188) -/
  word : Nat
  run : List Hint
  handler : Bool
  preds : List Nat
  deriving DecidableEq, Repr, Inhabited

/-- A join record (R178); `jid` names it. -/
structure JoinRec where
  jid : Nat
  j : VAddr
  p : Mask
  outer : Option Nat
  deriving DecidableEq, Repr, Inhabited

/-- A lane of an access whose translation is done. -/
structure LaneAcc where
  lane : Nat
  va : Nat
  pa : PA
  perm : Perm
  data : Nat
  deriving DecidableEq, Repr, Inhabited

/-- A store in a crew's store buffer that has not translated (R234). `po` names the fragments whose earlier accesses
precede it; `skid` counts the crew's instructions since (R235). -/
structure StoreReq where
  id : Nat
  fid : Nat
  pc : Nat
  po : List Nat
  size : Nat
  act : Mask
  lanes : List (Nat × Nat × Nat)
  scope : Scope
  rel : Bool
  ord : Nat
  scp : Nat
  skid : Nat
  /-- issued by a handler fragment (R197) -/
  hnd : Bool
  deriving DecidableEq, Repr, Inhabited

/-- A store to be performed (R234): translated, or an `sts`. -/
structure StoreT where
  id : Nat
  cid : Nat
  fid : Nat
  launch : Nat
  pair : Nat
  block : Nat
  deps : List Nat
  size : Nat
  lanes : List LaneAcc
  scope : Scope
  rel : Bool
  /-- its release has been made and logged, with this stamp; its element is still to be written (R214, R223) -/
  logged : Option Nat
  deriving DecidableEq, Repr, Inhabited

/-- Where a future puts its result. -/
inductive Dest where
  | v (r : Nat) (n : Nat)
  | c (r : Nat) (n : Nat)
  | none
  deriving DecidableEq, Repr, Inhabited

/-- The work behind a render future (R260): its operands, what it read at issue, and the places it reads when it returns. -/
inductive RJob where
  | grdv (index : Affine) (k : Nat)
  | rsub (index : Affine) (ck : Word)
  /-- the descriptor, the coordinates, four texels for each lane, and the places read at issue -/
  | samp (desc : Nat) (coords : Lanes) (texels : List LaneAcc) (heads : List LaneAcc)
  | rbox (ray : List Lanes) (nodes : List LaneAcc)
  | rtri (ray : List Lanes) (tris : List LaneAcc)
  /-- the triangles and descriptors read at issue, by lane, four texels for each lane that samples, and the places read at issue -/
  | alpha (ray : List Lanes) (tris : List (Nat × Nat)) (descs : List (Nat × Nat)) (texels : List LaneAcc) (heads : List LaneAcc)
  /-- a value popped at issue -/
  | rpop (value : Lanes)
  deriving DecidableEq, Repr, Inhabited

/-- What a pending future waits for. -/
inductive FutKind where
  | load (size : Nat) (sext : Bool) (lanes : List LaneAcc) (scope : Scope) (acq : Bool)
  | pacq (size : Nat) (sext : Bool) (left : List LaneAcc)
  | atom (wide : Bool) (lanes : List LaneAcc) (left : Nat) (acq : Bool) (rel : Bool)
  | render (act : Mask) (job : RJob)
  | nrq (act : Mask)
  | bara
  deriving DecidableEq, Repr, Inhabited

/-- A future of a crew: registers that wait for an access to return (R26, R231). -/
structure Fut where
  id : Nat
  fid : Nat
  po : List Nat
  deps : List Nat
  dest : Dest
  kind : FutKind
  /-- a load's elements that have been read, by number (R207, R208) -/
  got : List (Nat × Nat)
  deriving DecidableEq, Repr, Inhabited

/-- One lane's atomic operation in flight or queued at its site (R237 to R239). -/
structure AtomReq where
  fut : Nat
  cid : Nat
  launch : Nat
  pair : Nat
  deps : List Nat
  lane : Nat
  at_ : LaneAcc
  wide : Bool
  op : AtomOp
  cmp : Nat
  src : Nat
  scope : Scope
  acq : Bool
  rel : Bool
  ver : Nat
  reply : Option Nat
  /-- it stands in the queue of its site (R239) -/
  queued : Bool
  /-- its instruction's release has been made and logged, with this stamp (R214, R223) -/
  logged : Option Nat
  deriving DecidableEq, Repr, Inhabited

/-- A recorded imprecise fault (R195): what its delivery writes, and the number of store records. -/
structure Imprec where
  cause : Cause
  addr : Nat
  lanes : Mask
  info : Nat
  /-- an absent page's fault that goes to the supervisor handler, when there is one (R347) -/
  sup : Bool
  /-- its batch failed, so it goes to the user handler (R352) -/
  bad : Bool
  /-- registers whose first reader is a delivery point (R309) -/
  regs : List Nat
  /-- of a store that a handler issued (R197) -/
  hnd : Bool
  deriving DecidableEq, Repr, Inhabited

/-- The binding of a queue register (R293) and its header (R298). -/
structure QReg where
  word : Word
  head : Nat
  count : Nat
  deriving DecidableEq, Repr, Inhabited

/-- A tile: 64 × 64 elements of 36 bits in row order, those that are not 0, by index (R150). -/
abbrev Tile := List (Nat × Nat)

/-- What a crew runs (R19, R259, R270). -/
inductive CrewKind where
  | compute
  | vertex (bucket : Nat) (grid : Nat)
  | resolve (bucket : Nat)
  deriving DecidableEq, Repr, Inhabited

/-- The fields of `cst` (R191); `PIMP` is computed from the recorded faults. -/
structure Cst where
  dsrc : Bool
  dln : Bool
  lvl : Level
  ppre : Bool
  deriving DecidableEq, Repr, Inhabited

/-- A cause due at a fragment: what R192 writes, how a PGNP is routed (R347), and, for a recorded fault, its place among the
recorded ones. -/
structure Trap where
  cause : Cause
  addr : Nat := 0
  lanes : Mask := 0
  info : Nat := 0
  sup : Bool := false
  bad : Bool := false
  kind : Nat := 0
  faulted : List (Nat × Nat) := []
  imp : Option Nat := none
  store : Bool := false
  deriving DecidableEq, Repr, Inhabited

/-- A trap whose delivery has begun and waits for what R193, R376 and R413 have it wait for: its cause, its fragment F, and the
address and daymark that F resumes with, when they are not its own. -/
structure Begun where
  trap : Trap
  fid : Nat
  resume : Option (VAddr × BitVec 32)
  deriving DecidableEq, Repr, Inhabited

/-- A resident crew. `alive` is false only for the absent crew of the issue stage. -/
structure Crew where
  alive : Bool
  cid : Nat
  launch : Nat
  block : Nat
  idx : Nat
  region : Nat
  pair : Nat
  slot : Nat
  kind : CrewKind
  c : Vector Word 64
  a : Vector Affine 32
  v : Vector Lanes 128
  poison : Vector Mask 128
  m : Vector Mask 8
  vn : Nat
  tn : Nat
  tiles : Vector Tile 32
  ft : BitVec 32
  nbv : Word
  nsf : Word
  gang : Word
  joint : Nat
  /-- where a joint command stands whose arrival has been withdrawn, until it issues again (R166) -/
  owes : Option VAddr
  lm : Mask
  cst : Cst
  tcause : Word
  tpc : Word
  taddr : Word
  tlanes : Word
  tinfo : Word
  txm : Word
  tk0 : Word
  tk1 : Word
  hbud : Nat
  sfra : Word
  ftmap : Word
  ftst : Word
  fr : Frag
  frags : List Frag
  joins : List JoinRec
  ibuf : List (Nat × BitVec 32)
  stores : List StoreReq
  futs : List Fut
  imprec : List Imprec
  /-- the fragment a trap suspended, by name (R193, R198) -/
  trapped : Nat
  /-- cycles since a pending PREEMPT fell due, and whether one is due (R199) -/
  preDue : Option Nat
  /-- a trap whose delivery has begun; no fragment of the crew issues meanwhile (R193, R376) -/
  entering : Option Begun
  /-- a save that waits for what R201 waits for: 1 `pdone`, 2 forced, 3 swap-out, 0 none -/
  saving : Nat
  /-- the cycle in which a crew that is being swapped out had its condition met (R332) -/
  metAt : Option Nat
  qregs : Vector QReg 8
  /-- the open copy chain's running CRC (R302) -/
  chain : Option (BitVec 32)
  chainCrc : Bool
  chainSeq : List Nat
  deriving DecidableEq, Repr, Inhabited

/-- A store-fault record (R311). -/
structure SfRec where
  cid : Nat
  store : StoreReq
  cause : Cause
  faulting : Bool
  lanes : Mask
  deriving DecidableEq, Repr, Inhabited

/-- What the device keeps of a saved crew besides its record in memory (R201, R316, R331). -/
structure SavedCrew where
  cid : Nat
  launch : Nat
  block : Nat
  idx : Nat
  region : Nat
  kind : CrewKind
  slot : Nat
  group : Nat
  reason : Nat
  vn : Nat
  tn : Nat
  joint : Nat
  owes : Option VAddr
  ftmap : Word
  ftst : Word
  /-- poison that the record cannot hold (log 15 DESIGN CHOICE safe) -/
  poison : Vector Mask 128
  imprec : List Imprec
  /-- store-fault records not yet delivered (R311) -/
  recs : List SfRec
  trapped : Nat
  /-- the fragment with a kept park, by index in the record, and that park (R31, R303) -/
  kept : List (Nat × Park)
  /-- values to write to uniform registers at swap-in (R292) -/
  regs : List (Nat × Word)
  /-- a condition it waits on has been met (R31, R323) -/
  met : Bool
  /-- the cycle its condition was met, once it is on the swap-in list (R323, R331) -/
  ready : Option Nat
  deriving DecidableEq, Repr, Inhabited

/-- An arrival on a rendezvous latch: crew index, joint number, and the command's words read at issue (R166). -/
structure Arrival where
  idx : Nat
  /-- the fragment that made it -/
  fid : Nat
  num : Nat
  gang : Word
  kind : Nat
  shape : Nat
  td : Nat
  ops : List Word
  ver : Nat
  deriving DecidableEq, Repr, Inhabited

/-- A block that has been placed and not yet retired (R20, R154, R166). -/
structure Block where
  bid : Nat
  launch : Nat
  index : Nat
  crews : Nat
  kind : CrewKind
  /-- its core, none while it is wholly saved -/
  pair : Option Nat
  scratch : Mem
  scratchSize : Nat
  winBase : Nat
  winSize : Nat
  /-- crews that have retired, by index -/
  retired : List Nat
  latch : List Arrival
  qtab : Option Nat
  /-- block save slot while saved whole -/
  saveSlot : Option Nat
  /-- scratchpad bytes that copies and operations have written since the block record (R201, R379) -/
  late : List (Nat × Byte)
  deriving DecidableEq, Repr, Inhabited

/-- A launch record's fields (R284). -/
structure LRec where
  tag : Nat
  lfl : Nat
  regn : Nat
  entry : Nat
  param : Nat
  blks : Nat
  nlan : Nat
  res : Nat
  cca : Nat
  qtb : Nat
  last : Nat
  deriving DecidableEq, Repr, Inhabited

/-- Where a launch stands between its record and its completion (R287, R291, R316). -/
inductive LState where
  /-- in a core's pending-launch queue -/
  | queued (p : Nat)
  /-- in the pool, waiting to start -/
  | pool
  /-- started -/
  | running
  /-- completed or aborted -/
  | done
  deriving DecidableEq, Repr, Inhabited

/-- A launch (R284 to R291, R359). -/
structure Launch where
  lid : Nat
  lr : LRec
  depth : Nat
  ring : Option Nat
  parent : Option Nat
  st : LState
  /-- placement-queue entry cycle (R329) -/
  entered : Nat
  placed : Nat
  retiredBlocks : Nat
  /-- the copy of its parameters, by distance from `PARAM` (R285) -/
  params : List (Nat × Byte)
  deadline : Option Nat
  missed : Bool
  group : Nat
  irrev : Bool
  /-- replays for errors of its own (R359) -/
  replays : Nat
  /-- it starts again from the copy of its parameters (R359) -/
  again : Bool
  failed : Bool
  /-- the L-group instance whose pool entry it holds (R291, R328) -/
  pool : Option Nat
  deriving DecidableEq, Repr, Inhabited

/-- A line of a core's L1: virtual and physical line, permissions, bytes, and which are valid, dirty, and registered
with the cluster (R206, R210, R223, R342). -/
structure Line where
  vln : Nat
  pln : Nat
  perm : Perm
  data : BitVec 1024
  valid : BitVec 128
  dirty : BitVec 128
  reg : BitVec 128
  stamp : Nat
  deriving DecidableEq, Repr, Inhabited

/-- A promotion-log entry (R353). -/
structure PLog where
  pro : Bool
  stmp : Nat
  pln : Nat
  vln : Nat
  deriving DecidableEq, Repr, Inhabited

/-- A translation-buffer entry: a page's first address, its size as a power of two, and its leaf (R342). -/
structure TlbE where
  va : Nat
  bits : Nat
  leaf : BitVec 64
  deriving DecidableEq, Repr, Inhabited

/-- A line of an instruction cache. -/
structure ILine where
  vln : Nat
  data : BitVec 1024
  deriving DecidableEq, Repr, Inhabited

/-- How a quarter or an engine stands with its issue duty: sixteenths of an issue cycle that the duty has given and it has not used,
and the cycles in a row that capping has kept from it (R30, R394). -/
structure Duty where
  credit : Nat
  capped : Nat
  deriving DecidableEq, Repr, Inhabited

/-- A quarter: promoted fragments in order, the fragment whose turn is in progress, further issue cycles it holds. -/
structure Quarter where
  promo : List (Nat × Nat)
  turn : Option (Nat × Nat)
  busy : Nat
  /-- the region of the crew whose instruction holds it (R322) -/
  region : Nat
  /-- its issue duty under power capping (R394) -/
  duty : Duty
  deriving DecidableEq, Repr, Inhabited

/-- A matrix command with the values read at issue (R159). `maj` is 0 for major 0x3C and 1 for 0x3D. -/
inductive EngCmd where
  /-- arithmetic: kind, shape, each member with its tile and the `VER` its crew read at issue, operand words -/
  | arith (kind : Nat) (shape : Nat) (mem : List (Nat × Nat × Nat)) (ops : List Word) (owner : Nat)
  | mzero (cid : Nat) (t : Nat) (w : Word)
  | mldw (cid : Nat) (a : Word) (b : Word)
  | mdrnTs (cid : Nat) (t : Nat) (a : Word) (b : Word) (shape : Nat) (ord : Nat) (sc : Scope)
  | mdrnQ (cid : Nat) (t : Nat) (q : Nat) (b : Word) (shape : Nat) (ord : Nat) (sc : Scope) (item : Nat)
  | mdrnPeer (cid : Nat) (t : Nat) (a : Word) (b : Word) (shape : Nat) (gang : Word) (ord : Nat) (sc : Scope)
  | mrow (cid : Nat) (t : Nat) (q : Nat) (shape : Nat) (item : Nat)
  | mcfg (cid : Nat) (v : Word)
  | gang (cid : Nat)
  /-- a feed push; `at_` is its offset once its binding has been replaced (R294, R296) -/
  | feed (cid : Nat) (k : Nat) (item : Lanes) (at_ : Option Nat)
  | nrq (cid : Nat) (fut : Nat)
  deriving DecidableEq, Repr, Inhabited

/-- An inference request with its inputs (R306). -/
structure NrqReq where
  cid : Nat
  fut : Nat
  act : Mask
  word : Word
  inputs : List Lanes
  vd : Nat
  ver : Nat
  ord : Nat
  scope : Scope
  /-- elements of its descriptor that have been read, by number (R207, R219) -/
  got : List (Nat × Nat)
  deriving DecidableEq, Repr, Inhabited

/-- A feed push that waits for the operand queue: crew, queue register, the load it comes from (0: none), and the register's
value (R296). -/
structure Feed where
  cid : Nat
  k : Nat
  fut : Nat
  item : Lanes
  deriving DecidableEq, Repr, Inhabited

/-- A core with its paired engine (R17, R96, R150, R278). -/
structure Core where
  vfree : Nat
  tfree : Nat
  /-- grow wait lists, oldest first: crew, fragment, request -/
  growV : List (Nat × Nat × Nat)
  growT : List (Nat × Nat × Nat)
  quarters : Vector Quarter 4
  l1 : List Line
  plog : List PLog
  stamp : Nat
  tlb : List TlbE
  icache : List ILine
  sfq : List SfRec
  /-- launches in the pending-launch queue, oldest first (R278) -/
  pendingLaunch : List Nat
  /-- feed pushes that wait for the operand queue (R296) -/
  feeds : List Feed
  opq : List EngCmd
  infq : List NrqReq
  /-- requests whose command is still in the operand queue (R310) -/
  nrqs : List NrqReq
  mcfgHeld : Word
  mcfg : Word
  rsOn : Bool
  tstore : Mem
  ccyc : Nat
  pme : Vector Word 16
  pmc : Vector Nat 16
  /-- issue cycles not yet debited, by S-group instance (R322) -/
  debit : List (Nat × Nat)
  /-- what of the pair is being taken out of service: 1 its core, 2 its engine, 3 both, 0 nothing (R389) -/
  remapping : Nat
  remapAge : Nat
  inService : Bool
  /-- the issue duty of its engine, and whether the present cycle is one of the engine's issue cycles (R394) -/
  engDuty : Duty
  engOn : Bool
  deriving DecidableEq, Repr, Inhabited

/-- A copy or tensor copy in flight (R299 to R305). -/
structure Copy where
  id : Nat
  cid : Nat
  launch : Nat
  pair : Nat
  block : Nat
  region : Nat
  sub : Nat
  words : List Word
  ord : Nat
  scope : Scope
  started : Bool
  /-- earlier members of its chain -/
  after : List Nat
  /-- running CRC this member starts from, set when it starts -/
  crc : BitVec 32
  /-- addresses in absent pages that it waits for (R301) -/
  waits : List Nat
  /-- a failure found before its bytes moved: sub-code and address (R302, R305, R352) -/
  pre : Option (Nat × Nat)
  /-- bytes that have been read, by distance from the start, and the distances of those written (R219, R301) -/
  got : List (Nat × Byte)
  put : List Nat
  deriving DecidableEq, Repr, Inhabited

/-- A `pacq` line sequence at its home slice (R225). -/
structure PacqSeq where
  id : Nat
  fut : Nat
  cid : Nat
  pln : Nat
  lanes : List LaneAcc
  deps : List Nat
  snap : Bool
  /-- an eviction's promotion has no value to return (R224) -/
  evict : Bool
  /-- cores whose acknowledgement is still to come -/
  acks : List Nat
  /-- the line as the snapshot found it, with what the requested cores have promoted since -/
  img : BitVec 1024
  deriving DecidableEq, Repr, Inhabited

/-- A releaser-table entry (R204). -/
structure RelEntry where
  pln : Nat
  cores : List Nat
  overflow : Bool
  deriving DecidableEq, Repr, Inhabited

/-- A barrier operation in flight to its site (R374). -/
structure BarOp where
  id : Nat
  cid : Nat
  fid : Nat
  fut : Option Nat
  pair : Nat
  at_ : PA
  launch : Nat
  region : Nat
  /-- 0 arrive, 1 add to `PB`, 2 withdraw the arrival of fragment `fid` (R374, R376) -/
  kind : Nat
  arg : Nat
  deps : List Nat
  deriving DecidableEq, Repr, Inhabited

/-- A report to the host, the driver or the fault unit: its kind and its numbers (R192, R281, R286, R325). -/
structure Report where
  name : String
  args : List Nat
  deriving DecidableEq, Repr, Inhabited

/-- A region's effective record (R319 to R326): the defining region of each group, and the fields. -/
structure Region where
  num : Nat
  par : Option Nat
  instS : Nat
  instF : Nat
  instH : Nat
  instM : Nat
  instL : Nat
  pri : Nat
  raff : Nat
  bref : Bool
  budg : Nat
  fdom : Nat
  ldr : Bool
  uend : Nat
  wdl : Nat
  uha : Nat
  sha : Nat
  pha : Nat
  hbg : Nat
  svb : Nat
  scs : Nat
  sbs : Nat
  sfb : Nat
  shp : Nat
  ftp : Nat
  dlim : Nat
  psh : Nat
  deriving DecidableEq, Repr, Inhabited

/-- A pool of an M-group instance: its descriptor's address, page size, capacity and count (R349). -/
structure Pool where
  desc : Nat
  psz : Nat
  cap : Nat
  top : Nat
  deriving DecidableEq, Repr, Inhabited

/-- Run state of the region tree (R316): effective records, last records kept for crews whose region has gone, and the
run state of the group instances, by defining region. -/
structure Regions where
  rgtb : Word
  bsy : Bool
  err : Bool
  code : Nat
  errRegion : Nat
  eff : List Region
  old : List Region
  heldM : List Nat
  heldF : List Nat
  /-- region and reason 1 or 2 -/
  pre : List (Nat × Nat)
  /-- launches whose deadline set reason 1, with the regions it was set for -/
  preDeadline : List (Nat × List Nat)
  /-- S-group instances with reason 3 -/
  spent : List Nat
  budget : List (Nat × Int)
  /-- pool entries in use by L-group instance -/
  share : List (Nat × Nat)
  /-- watchdog counts by F-group instance -/
  wdc : List (Nat × Nat)
  shadowPool : List (Nat × Pool)
  touchPool : List (Nat × Pool)
  /-- crew and block save slots in use by M-group instance -/
  crewSlots : List (Nat × Nat)
  blockSlots : List (Nat × Nat)
  deriving DecidableEq, Repr, Inhabited

/-- A batched fault (R350); `src` names the wait it belongs to. -/
structure FRec where
  src : Nat
  page : Nat
  kind : Nat
  region : Nat
  pair : Nat
  slot : Nat
  deriving DecidableEq, Repr, Inhabited

/-- A delivered, unresolved range (R350 to R352), with its index in the fault ring. -/
structure FRange where
  page : Nat
  count : Nat
  region : Nat
  kinds : Nat
  merged : Nat
  batch : Nat
  at_ : Nat
  deriving DecidableEq, Repr, Inhabited

/-- A shadow-map entry in use (R355). -/
structure Shadow where
  granule : Nat
  frame : Nat
  group : Nat
  committed : Bool
  /-- the M-group instance whose pool its frame came from -/
  inst : Nat
  deriving DecidableEq, Repr, Inhabited

/-- A commit group (R336, R356 to R358). -/
structure Group where
  gid : Nat
  deps : List Nat
  overflow : Bool
  irrev : Bool
  deriving DecidableEq, Repr, Inhabited

/-- The translation and recovery registers and tables (R336, R341). -/
structure Xlate where
  ptrt : Nat
  fbn : Nat
  frb : Nat
  frl : Nat
  frpi : Nat
  sdva : Nat
  sdln : Nat
  sdBsy : Bool
  /-- accesses translated before `GO`, which it waits for, by crew and name (R344) -/
  sdWaits : List (Nat × Nat)
  plal : Nat
  plBsy : Bool
  plErr : Bool
  /-- refills that wait while a pool's page migrates: the word of `PLAC` and the list's address (R345, R349) -/
  plPend : List (Nat × Nat)
  ckdm0 : Nat
  ckdm1 : Nat
  ckdst : Nat
  ckBsy : Bool
  ckErr : Bool
  sel : Bool
  ckCount : Nat
  /-- a switch is due at the next point between commits -/
  ckArmed : Bool
  recs : List FRec
  recAge : Nat
  /-- closed batches that are still to be delivered, oldest first -/
  closed : List (List FRec)
  /-- delivered ranges that are not resolved -/
  ranges : List FRange
  nextBatch : Nat
  shadows : List Shadow
  groups : List Group
  /-- frames on their way back to the pool of an M-group instance whose page migrates (R345, R355) -/
  freeFrames : List (Nat × Nat)
  /-- accesses that have found a migrating page and wait for the next write of `MMRL`, by name (R345) -/
  stalls : List Nat
  deriving DecidableEq, Repr, Inhabited

/-- A host ring (R279). -/
structure Ring where
  rbase : Nat
  log2n : Nat
  en : Bool
  gate : Bool
  wptr : Nat
  rptr : Nat
  st : Nat
  credits : Nat
  lgood : Nat
  deriving DecidableEq, Repr, Inhabited

/-- An entry of a die's barrier combiner (R378). -/
structure Combine where
  die : Nat
  line : Nat
  age : Nat
  ops : List BarOp
  deriving DecidableEq, Repr, Inhabited

/-- A 3-vector of FP32 encodings. -/
abbrev V3 := Nat × Nat × Nat

/-- A vertex of a grid record (R257, R262): diced and displaced positions, derivatives, normal, parameters, colour. -/
structure Vert where
  d0 : V3
  d1 : V3
  p0 : V3
  p1 : V3
  ds : V3
  dt : V3
  n : V3
  s : Nat
  t : Nat
  col : Word
  deriving DecidableEq, Repr, Inhabited

/-- Where a grid stands (R259). -/
inductive GridSt where
  | diced
  | shading (block : Nat)
  | passed
  deriving DecidableEq, Repr, Inhabited

/-- A grid (R257, R258). -/
structure Grid where
  num : Nat
  pid : Nat
  attr : Nat
  db : Nat
  nu : Nat
  nv : Nat
  verts : List Vert
  /-- where its bytes lie when it was spilled (R258) -/
  spilled : Option Nat
  st : GridSt
  deriving DecidableEq, Repr, Inhabited

/-- A piece of a patch still to be diced for a bucket (R256): control points at both shutter ends, the square of the
parent's parameters as depth and offsets. -/
structure Piece where
  patch : Nat
  depth : Nat
  s0 : Nat
  t0 : Nat
  pid : Nat
  attr : Nat
  db : Nat
  open_ : List V3
  close_ : List V3
  deriving DecidableEq, Repr, Inhabited

/-- A bucket in flight (R254, R258, R269). -/
structure Bucket where
  bix : Nat
  die : Nat
  /-- addresses of the references it has still to read (R246) -/
  refs : List Nat
  pieces : List Piece
  grids : List Grid
  nextGrid : Nat
  share : Nat
  /-- samples that are not at their initial value: index, colour, depth -/
  samples : List (Nat × Nat × Nat)
  resolving : Option Nat
  /-- pixels written by the box filter -/
  pixel : Nat
  waits : List Nat
  deriving DecidableEq, Repr, Inhabited

/-- A render launch in progress (R247 to R254, R313, R315). -/
structure Render where
  lid : Nat
  cam : List Byte
  /-- per unit: its next patch -/
  units : List (Nat × Nat)
  /-- the insert queues that are closed: unit and die -/
  closed : List (Nat × Nat)
  /-- insert queues: unit, die, references of patch, bucket and place in the spill area, oldest first -/
  queues : List (Nat × Nat × List (Nat × Nat × Nat))
  /-- reference lists by bucket: where each reference stands in memory, in ascending patch order (R246) -/
  lists : List (Nat × List Nat)
  spillUsed : List (Nat × Nat)
  deques : List (Nat × List Nat)
  flight : List Bucket
  left : Nat
  deriving DecidableEq, Repr, Inhabited

/-- An undo-log record: line and before-image (R392). -/
structure Undo where
  line : Nat
  image : BitVec 1024
  deriving DecidableEq, Repr, Inhabited

/-- The device's mode (R384). -/
inductive Mode where
  | starting | service | lightship | halted
  deriving DecidableEq, Repr, Inhabited

/-- Device-life registers (R384), the firmware image, the undo log (R392), and what start and service keep. -/
structure Dev where
  mode : Mode
  fsc : Nat
  lsr : Nat
  rpl : Bool
  cap : Bool
  fwv : Nat
  fwsrc : Nat
  image : List Byte
  atnc : List Byte
  atds : Nat
  atBsy : Bool
  ulb : Nat
  ulsz : Nat
  ulEn : Bool
  ulOvf : Bool
  ulErr : Bool
  /-- a rollback is in progress -/
  ulBsy : Bool
  ulNum : Nat
  undo : List Undo
  wssrc : Nat
  wsdst : Nat
  wslen : Nat
  wsBsy : Bool
  wsErr : Bool
  pwr : Nat
  plim : Nat
  /-- issue duty of quarters and engines in sixteenths (R394) -/
  duty : Nat
  coolantBad : Bool
  /-- M dies in service, V dies in service (R385, R386) -/
  diesUp : List Nat
  /-- Burier links and UCIe modules that are retraining (R393) -/
  retraining : List Nat
  /-- a failed start restarts the device after 1 s (R385) -/
  restartDue : Bool
  deriving DecidableEq, Repr, Inhabited

/-- Device counters (R363, R365, R370) and the spare remap table (R362). -/
structure Counters where
  bpc : Word
  bEn : Bool
  bEdge : Bool
  bdrop : Nat
  bglt : Nat
  /-- H-die cycles since the last accepted pulse, none before the first (R368) -/
  bAge : Option Nat
  die : Vector (Vector Nat 8) 4
  wear : List (Nat × Nat)
  rfph : Vector Nat 4
  /-- spare remap table bytes 0x0000 to 0x2413 that are not 0 -/
  spare : Mem
  thresholds : Vector Nat 5
  /-- spares in use: kind and die, count -/
  spares : List (Nat × Nat × Nat)
  deriving DecidableEq, Repr, Inhabited

/-- The whole machine. `agenda`, `tick`, `ir`, `cur`, `nextId` are the model's own (log 1, 2, 4 DESIGN CHOICE safe). -/
structure State where
  /-- turns still to take, before the free choice (log 1 DESIGN CHOICE safe) -/
  agenda : List Turn
  /-- how many open choices have been made (log 1 DESIGN CHOICE safe) -/
  tick : Nat
  /-- a fresh name for a crew, launch, access, copy or fragment (log 4 DESIGN CHOICE safe) -/
  nextId : Nat
  /-- H-die cycles since reset, the clock of placement and parks (R329, R332) -/
  now : Nat
  /-- the word that is being issued (log 4 DESIGN CHOICE safe) -/
  ir : Nat
  /-- the crew under the issue stage (log 4 DESIGN CHOICE safe) -/
  cur : Crew
  crews : List Crew
  /-- retired crews whose matrix commands are still queued (R187) -/
  ghosts : List Crew
  saved : List SavedCrew
  blocks : List Block
  launches : List Launch
  /-- cores by pair number; an unlisted one is as at reset -/
  cores : List (Nat × Core)
  /-- second-level translation buffers by cluster (R336) -/
  tlb2 : List (Nat × List TlbE)
  loc : Mem
  /-- lines of local memory that are uncorrectable (R311, R390) -/
  badLines : List Nat
  sys : Mem
  peers : List (Nat × Mem)
  /-- the bytes of system memory and of peers that the device has written since waits last looked: first byte and number (R380, log
  33 DEDUCED safe) -/
  wrote : List (PA × Nat)
  weights : List (Nat × Mem)
  storeQ : List StoreT
  atoms : List AtomReq
  pacqs : List PacqSeq
  /-- promote requests in flight: sequence and core (R225) -/
  requests : List (Nat × Nat)
  /-- promotion hints in flight: core and line (R223, R224) -/
  hints : List (Nat × Nat)
  /-- hints that have reached a full releaser table and wait for its eviction, oldest first: core and line (R224) -/
  hintQ : List (Nat × Nat)
  /-- releaser tables by home slice, most recently used first (R224) -/
  releasers : List (Nat × List RelEntry)
  /-- lines the home slices track as hot (R239) -/
  hot : List Nat
  copies : List Copy
  barOps : List BarOp
  /-- withdrawals in flight: crew and fragment parked in `bar` (R376) -/
  withdrawals : List (Nat × Nat)
  combiner : List Combine
  /-- arrivals whose phase has not yet passed: barrier, token, region (R381) -/
  arrived : List (PA × Nat × Nat)
  rings : Vector Ring 64
  renders : List Render
  rg : Regions
  xl : Xlate
  ctr : Counters
  dev : Dev
  reports : List Report
  deriving DecidableEq, Repr, Inhabited

/-! ## Reset -/

/-- Lanes of a varying register all zero. -/
def Lanes.zero : Lanes := Vector.replicate 32 0

/-- A fragment at nothing. -/
def Frag.zero : Frag :=
  { fid := 0, pc := 0, fl := 0, xm := 0, dmk := 0xFFFFFFFF, join := none, entry := none, order := 0, stamp := 0,
    passed := 0, hold := none, park := .none, word := 0, run := [], handler := false, preds := [] }

/-- The absent crew: every register 0, `nbv` at its start value 5 (R73). -/
def Crew.none : Crew :=
  { alive := false, cid := 0, launch := 0, block := 0, idx := 0, region := 0, pair := 0, slot := 0, kind := .compute,
    c := Vector.replicate 64 0, a := Vector.replicate 32 ⟨0, 0⟩, v := Vector.replicate 128 Lanes.zero,
    poison := Vector.replicate 128 0, m := Vector.replicate 8 0, vn := 8, tn := 0, tiles := Vector.replicate 32 [],
    ft := 0, nbv := 5, nsf := 0, gang := 0, joint := 0, owes := Option.none, lm := 0, cst := ⟨false, false, .none, false⟩,
    tcause := 0, tpc := 0, taddr := 0, tlanes := 0, tinfo := 0, txm := 0, tk0 := 0, tk1 := 0, hbud := 0,
    sfra := 0, ftmap := 0, ftst := 0, fr := Frag.zero, frags := [], joins := [], ibuf := [], stores := [], futs := [],
    imprec := [], trapped := 0, preDue := Option.none, entering := Option.none, saving := 0, metAt := Option.none,
    qregs := Vector.replicate 8 ⟨0, 0, 0⟩, chain := Option.none, chainCrc := false, chainSeq := [] }

def Duty.zero : Duty := ⟨0, 0⟩

def Quarter.zero : Quarter := ⟨[], none, 0, 0, Duty.zero⟩

/-- A core and its engine at reset (R96, R150, R278, R363). -/
def Core.zero : Core :=
  { vfree := 512, tfree := 32, growV := [], growT := [], quarters := Vector.replicate 4 Quarter.zero, l1 := [],
    plog := [], stamp := 0, tlb := [], icache := [], sfq := [], pendingLaunch := [], feeds := [], opq := [],
    infq := [], nrqs := [], mcfgHeld := 0, mcfg := 0, rsOn := false, tstore := [], ccyc := 0,
    pme := Vector.replicate 16 0, pmc := Vector.replicate 16 0, debit := [], remapping := 0, remapAge := 0,
    inService := true, engDuty := Duty.zero, engOn := true }

def Ring.zero : Ring := ⟨0, 0, false, false, 0, 0, 0, 0, 0⟩

def Regions.zero : Regions :=
  { rgtb := 0, bsy := false, err := false, code := 0, errRegion := 0, eff := [], old := [], heldM := [], heldF := [],
    pre := [], preDeadline := [], spent := [], budget := [], share := [], wdc := [], shadowPool := [],
    touchPool := [], crewSlots := [], blockSlots := [] }

/-- Translation registers are 0 and `FBN` is 64 at start (R336, R341). -/
def Xlate.zero : Xlate :=
  { ptrt := 0, fbn := 64, frb := 0, frl := 0, frpi := 0, sdva := 0, sdln := 0, sdBsy := false, sdWaits := [],
    plal := 0, plBsy := false, plErr := false, plPend := [], ckdm0 := 0, ckdm1 := 0, ckdst := 0, ckBsy := false, ckErr := false,
    sel := false, ckCount := 0, ckArmed := false, recs := [], recAge := 0, closed := [], ranges := [],
    nextBatch := 0, shadows := [], groups := [], freeFrames := [], stalls := [] }

/-- Device-life registers at start (R384). -/
def Dev.zero : Dev :=
  { mode := .starting, fsc := 0, lsr := 0, rpl := false, cap := false, fwv := 0, fwsrc := 0, image := [],
    atnc := List.replicate 64 0, atds := 0, atBsy := false, ulb := 0, ulsz := 0, ulEn := false, ulOvf := false,
    ulErr := false, ulBsy := false, ulNum := 0, undo := [], wssrc := 0, wsdst := 0, wslen := 0, wsBsy := false, wsErr := false,
    pwr := 0, plim := 1800, duty := 16, coolantBad := false, diesUp := [0, 1, 2, 3], retraining := [],
    restartDue := false }

/-- Counters at start (R363, R365); the thresholds are the model's (log 3 DESIGN CHOICE unsafe). -/
def Counters.zero : Counters :=
  { bpc := 0, bEn := false, bEdge := false, bdrop := 0, bglt := 0, bAge := none,
    die := Vector.replicate 4 (Vector.replicate 8 0), wear := [], rfph := Vector.replicate 4 0, spare := [],
    thresholds := Vector.replicate 5 0xFFFFFFFF, spares := [] }

/-- The machine right after reset, before the start sequence has run (R385). -/
def State.reset : State :=
  { agenda := [], tick := 0, nextId := 1, now := 0, ir := 0, cur := Crew.none, crews := [], ghosts := [], saved := [],
    blocks := [], launches := [], cores := [], tlb2 := [], loc := [], badLines := [], sys := [], peers := [], wrote := [], weights := [],
    storeQ := [], atoms := [], pacqs := [], requests := [], hints := [], hintQ := [], releasers := [], hot := [], copies := [],
    barOps := [], withdrawals := [], combiner := [], arrived := [], rings := Vector.replicate 64 Ring.zero, renders := [],
    rg := Regions.zero, xl := Xlate.zero, ctr := Counters.zero, dev := Dev.zero, reports := [] }

/-! ## Outcomes -/

/-- Why the machine stops: for nothing. The spec gives every instruction and event an effect, and its causes are taken as
exceptions (R192), so no meaning raises a fault of the model's own. -/
inductive Fault where
  deriving DecidableEq, Repr

/-- Why the model gives no next state. -/
inductive Refusal where
  /-- Raised by an arm of exec that has no meaning yet. Safe. -/
  | notModelled (mnemonic : String)
  /-- Raised by an instruction's meaning when no crew is at the issue stage, where no instruction issues; no step of
  the machine reaches it. Safe. -/
  | noIssuer
  deriving DecidableEq, Repr

/-- What a meaning answers. -/
abbrev Res := Host.Outcome State Fault Refusal

end Sys2Proof.Machine
end

