-- ==== Sys2Proof/Machine/Mem.lean ====
section
/-! DEFINITION. Plain operations on memories, keyed lists and bytes, and the CRC-32C of R188. -/

namespace Sys2Proof.Machine

open Sys2Proof

/-- The byte at an address; 0 where nothing is listed (log 3 DESIGN CHOICE unsafe). -/
def Mem.read : Mem → Nat → Byte
  | [], _ => 0
  | (k, b) :: m, a => if k = a then b else Mem.read m a

/-- The memory with one byte written, in the canonical form. -/
def Mem.write : Mem → Nat → Byte → Mem
  | [], a, b => if b = 0 then [] else [(a, b)]
  | (k, c) :: m, a, b =>
    if a < k then (if b = 0 then (k, c) :: m else (a, b) :: (k, c) :: m)
    else if a = k then (if b = 0 then m else (a, b) :: m)
    else (k, c) :: Mem.write m a b

/-- Keys rise strictly from `lo` and no byte is 0. -/
def Mem.wfFrom : Nat → Mem → Bool
  | _, [] => true
  | lo, (k, b) :: m => decide (lo ≤ k) && b != 0 && Mem.wfFrom (k + 1) m

/-- The canonical form of a memory. -/
def Mem.wf (m : Mem) : Bool := Mem.wfFrom 0 m

/-- `n` bytes from an address, lowest first. -/
def Mem.bytes (m : Mem) (a n : Nat) : List Byte := (List.range n).map fun i => m.read (a + i)

/-- Bytes written at rising addresses. -/
def Mem.writes (m : Mem) (a : Nat) : List Byte → Mem
  | [] => m
  | b :: bs => Mem.writes (m.write a b) (a + 1) bs

/-- The cells in [a, a + n). -/
def Mem.range (m : Mem) (a n : Nat) : Mem := m.filter fun c => a ≤ c.1 && c.1 < a + n

/-- [d, d + n) made equal to [a, a + n) of another memory, byte for byte. -/
def Mem.copyFrom (m : Mem) (d : Nat) (src : Mem) (a n : Nat) : Mem :=
  let cleared := m.filter fun c => !(d ≤ c.1 && c.1 < d + n)
  (src.range a n).foldl (fun m c => m.write (d + (c.1 - a)) c.2) cleared

/-- A little-endian number (R5). -/
def leNat : List Byte → Nat
  | [] => 0
  | b :: bs => b.toNat + 256 * leNat bs

/-- The `n` low bytes of a number, lowest first (R5). -/
def leBytes : Nat → Nat → List Byte
  | 0, _ => []
  | n + 1, x => BitVec.ofNat 8 x :: leBytes n (x / 256)

/-- The value under a key. -/
def kget {α : Type} : List (Nat × α) → Nat → Option α
  | [], _ => none
  | (k, v) :: l, a => if k = a then some v else kget l a

/-- A keyed list, keys rising, with one value set. -/
def kset {α : Type} : List (Nat × α) → Nat → α → List (Nat × α)
  | [], a, v => [(a, v)]
  | (k, w) :: l, a, v =>
    if a < k then (a, v) :: (k, w) :: l
    else if a = k then (a, v) :: l
    else (k, w) :: kset l a v

/-- A keyed list without a key. -/
def kdel {α : Type} (l : List (Nat × α)) (a : Nat) : List (Nat × α) := l.filter fun p => p.1 != a

/-- The value under a key, or a default. -/
def kgetD {α : Type} (l : List (Nat × α)) (a : Nat) (d : α) : α := (kget l a).getD d

/-- A counter under a key, moved by `f`; 0 when unlisted. -/
def kmod (l : List (Nat × Nat)) (a : Nat) (f : Nat → Nat) : List (Nat × Nat) := kset l a (f (kgetD l a 0))

/-- One entry of a list replaced, counted from 0. -/
def setAt {α : Type} : List α → Nat → α → List α
  | [], _, _ => []
  | _ :: l, 0, v => v :: l
  | x :: l, n + 1, v => x :: setAt l n v

/-- A list without its entry `n`. -/
def dropAt {α : Type} : List α → Nat → List α
  | [], _ => []
  | _ :: l, 0 => l
  | x :: l, n + 1 => x :: dropAt l n

/-- Repeat an action. -/
def iter {α : Type} : Nat → (α → α) → α → α
  | 0, _, x => x
  | n + 1, f, x => iter n f (f x)

/-- The members of a list, each once. -/
def distinct (l : List Nat) : List Nat := l.foldl (fun acc x => if acc.contains x then acc else acc ++ [x]) []

/-! ## CRC-32C (R188) -/

/-- One bit of the reflected Castagnoli update. -/
def crcBit (c : Nat) : Nat := if c % 2 = 1 then (c / 2) ^^^ 0x82F63B78 else c / 2

/-- The update of a running value by one byte. -/
def crcByte (c : BitVec 32) (b : Byte) : BitVec 32 := BitVec.ofNat 32 (iter 8 crcBit (c.toNat ^^^ b.toNat))

/-- The update by bytes in order. -/
def crcBytes (c : BitVec 32) (bs : List Byte) : BitVec 32 := bs.foldl crcByte c

/-- The update by the four bytes of a word, in ascending address order (R188). -/
def crcWord (c : BitVec 32) (w : Nat) : BitVec 32 := crcBytes c (leBytes 4 w)

/-! ## Lanes and masks -/

/-- Is lane `l` in the mask? -/
def inMask (m : Mask) (l : Nat) : Bool := m.getLsbD l
/-- The lanes of a mask, rising. -/
def lanesOf (m : Mask) : List Nat := (List.range 32).filter (inMask m)
/-- The mask of some lanes. -/
def maskOf (l : List Nat) : Mask := l.foldl (fun m i => m ||| BitVec.ofNat 32 (2 ^ i)) 0
/-- The lowest set bit alone. -/
def lowestBit (m : Mask) : Mask := m &&& (-m)
/-- The lanes below `n`. -/
def maskBelow (n : Nat) : Mask := BitVec.ofNat 32 (2 ^ (min n 32) - 1)

/-- A lane's value. -/
def laneAt (x : Lanes) (l : Nat) : Word := x.getD l 0
/-- Lanes in a mask replaced. -/
def mergeLanes (act : Mask) (old new : Lanes) : Lanes :=
  Vector.ofFn fun i => if inMask act i.val then laneAt new i.val else laneAt old i.val
/-- Lanes from a function of the lane number. -/
def mkLanes (f : Nat → Word) : Lanes := Vector.ofFn fun i => f i.val

/-- The value of an affine register in a lane (R100). -/
def affineAt (x : Affine) (l : Nat) : Word :=
  x.base + BitVec.ofInt 64 (x.stride.toInt * (l : Int))

/-! ## Sorting -/

/-- A member put in a sorted list, before those it ties with. -/
def insertBy {α : Type} (le : α → α → Bool) (x : α) : List α → List α
  | [] => [x]
  | y :: l => if le x y then x :: y :: l else y :: insertBy le x l
/-- A list sorted, members that tie in the order they had. -/
def sortBy {α : Type} (le : α → α → Bool) (l : List α) : List α := l.foldr (insertBy le) []

end Sys2Proof.Machine
end

