-- ==== Sys2Proof/Machine/Home.lean ====
section
/-! DEFINITION. The homes of bytes: local memory behind the shadow map, dirty maps and undo log (R354 to R361, R392),
system and peer memory, scratchpad, tile stores and weight stores; and commit groups. -/

namespace Sys2Proof.Machine

open Sys2Proof

/-- Bytes of local device memory (R419). -/
def locSize : Nat := 0x2D00000000
/-- Bytes of a die's weight store (R150). -/
def weightSize : Nat := 0x20000000
/-- Bytes of a granule (R354). -/
def granule : Nat := 65536

/-- The core of a pair. -/
def coreAt (s : State) (p : Nat) : Core := kgetD s.cores p Core.zero
/-- A core changed. -/
def modCore (s : State) (p : Nat) (f : Core → Core) : State := { s with cores := kset s.cores p (f (coreAt s p)) }

/-- The uncommitted or committed shadow entry of the granule that holds `a`. -/
def shadowOf (s : State) (a : Nat) : Option Shadow := s.xl.shadows.find? fun e => e.granule == a / granule * granule

/-- Where an access to local address `a` is performed (R354, R355). -/
def redirect (s : State) (a : Nat) : Nat :=
  match shadowOf s a with
  | some e => e.frame + a % granule
  | none => a

/-- A byte at a physical address of local memory; none lies above it (R419, log 43 DESIGN CHOICE safe). -/
def locRead (s : State) (a : Nat) : Byte := if a < locSize then s.loc.read a else Config.absentByte a

/-- A byte of local memory as every agent reads it. -/
def homeRead (s : State) (a : Nat) : Byte := locRead s (redirect s a)

/-- A report for the host, the driver or the fault unit. -/
def report (s : State) (name : String) (args : List Nat) : State := { s with reports := s.reports ++ [⟨name, args⟩] }

/-- The undo log takes the before-image of a line at its first write in the interval (R392). -/
def undoLog (s : State) (a : Nat) : State :=
  let line := a / 128 * 128
  let base := s.dev.ulb
  let inLog : Bool := decide (base ≤ a) && decide (a < base + s.dev.ulsz * 65536)
  if !s.dev.ulEn || inLog || s.dev.undo.any (fun u => u.line == line) then s
  else
    let img := s.loc.bytes line 128
    let u : Undo := ⟨line, BitVec.ofNat 1024 (leNat img)⟩
    let full : Bool := decide (s.dev.ulsz * 65536 < 144 * (s.dev.undo.length + 1))
    let dev := if full then { s.dev with undo := [u], ulOvf := true, ulNum := (s.dev.ulNum + 1) % 2 ^ 32 }
      else { s.dev with undo := s.dev.undo ++ [u] }
    let at_ := base + 144 * (dev.undo.length - 1)
    { s with dev := dev, loc := if at_ + 144 ≤ locSize then s.loc.writes at_ (leBytes 8 line ++ leBytes 8 0 ++ img) else s.loc }

/-- A byte written at a physical address of local memory, its line's before-image logged (R392); none lies above it (R419). -/
def locWrite (s : State) (a : Nat) (b : Byte) : State :=
  if a < locSize then
    let s := undoLog s a
    { s with loc := s.loc.write a b }
  else s

/-- A granule copied inside local memory, its destination's lines logged (R355, R392). -/
def locCopy (s : State) (dst src : Nat) : State :=
  let s := if s.dev.ulEn then (List.range 512).foldl (fun s i => undoLog s (dst + 128 * i)) s else s
  { s with loc := s.loc.copyFrom dst s.loc src granule }

/-- The frame of dirty map `i` (R341). -/
def dirtyMap (s : State) (i : Bool) : Nat := if i then s.xl.ckdm1 else s.xl.ckdm0

/-- A bit of a dirty map; a map whose register is 0 has none (log 11 DEDUCED unsafe). -/
def dirtyBit (s : State) (i : Bool) (g : Nat) : Bool :=
  dirtyMap s i != 0 && (locRead s (dirtyMap s i + g / 8)).getLsbD (g % 8)

/-- A bit of a dirty map written in place. -/
def setDirtyBit (s : State) (i : Bool) (g : Nat) (v : Bool) : State :=
  if dirtyMap s i = 0 then s
  else
    let a := dirtyMap s i + g / 8
    let m : Byte := BitVec.ofNat 8 (2 ^ (g % 8))
    let b := locRead s a
    locWrite s a (if v then b ||| m else b &&& ~~~m)

/-- Where a granule's committed bytes lie: its shadow frame once the entry is committed, else its own frame, which holds the
before-image of an uncommitted group's writes (R354, R355). -/
def committedAt (s : State) (a : Nat) : Nat :=
  match shadowOf s a with
  | some e => if e.committed then redirect s a else a
  | none => a

/-- The checkpoint engine sends granule `g` out, as it stands committed (R360, R391). -/
def sendGranule (s : State) (g : Nat) : State :=
  { s with
    sys := s.sys.copyFrom (s.xl.ckdst + granule * g) s.loc (committedAt s (granule * g)) granule
    wrote := s.wrote ++ [(⟨.sys, s.xl.ckdst + granule * g⟩, granule)]
    xl := { s.xl with ckCount := (s.xl.ckCount + 1) % 2 ^ 32 } }

/-- The granule where bit `g` of a dirty map stands. -/
def bitGranule (s : State) (i : Bool) (g : Nat) : Nat := (dirtyMap s i + g / 8) / granule

/-- Does the map that does not collect still hold bits to stream (R360)? A stream that an error stopped keeps its own (R361). -/
def streaming (s : State) : Bool := (s.xl.ckBsy || s.xl.ckErr) && !s.xl.ckArmed

/-- What a checkpoint does at a commit of, or a write in place to, granule `g`: it sends the granule out first and clears its bit while
that still stands in the streaming map, and marks it in the collecting map. A bit of a map is written in place, so the granule where it
stands comes first; `seen` lists the granules that are being seen to (R354, R360). -/
def touchGranule : Nat → List Nat → State → Nat → State
  | 0, _, s, _ => s
  | n + 1, seen, s, g =>
    if seen.contains g then s
    else
      let s := if streaming s && dirtyBit s (!s.xl.sel) g then
          setDirtyBit (touchGranule n (g :: seen) (sendGranule s g) (bitGranule s (!s.xl.sel) g)) (!s.xl.sel) g false
        else s
      if dirtyMap s s.xl.sel = 0 || dirtyBit s s.xl.sel g then s
      else setDirtyBit (touchGranule n (g :: seen) s (bitGranule s s.xl.sel g)) s.xl.sel g true

/-- What a commit of, or a write in place to, the granule of `a` needs first. -/
def markDirty (s : State) (a : Nat) : State := touchGranule 8 [] s (a / granule)

/-- Granule `g` of the streaming map is sent out and its bit cleared (R360). -/
def copyOut (s : State) (g : Nat) : State :=
  setDirtyBit (touchGranule 8 [g] (sendGranule s g) (bitGranule s (!s.xl.sel) g)) (!s.xl.sel) g false

/-- Is the granule of `a` under an uncommitted shadow? -/
def shadowed (s : State) (a : Nat) : Bool :=
  match shadowOf s a with
  | some e => !e.committed
  | none => false

/-- A byte of local memory written by any agent, after whatever a launch's first write needs. -/
def homeWrite (s : State) (a : Nat) (b : Byte) : State :=
  let s := if shadowed s a then s else markDirty s a
  locWrite s (redirect s a) b

/-- A peer's memory. -/
def peerMem (s : State) (n : Nat) : Mem := kgetD s.peers n []
/-- A block by number. -/
def blockAt? (s : State) (b : Nat) : Option Block := s.blocks.find? fun x => x.bid == b
/-- A block changed. -/
def modBlock (s : State) (b : Nat) (f : Block → Block) : State :=
  { s with blocks := s.blocks.map fun x => if x.bid == b then f x else x }

/-- A byte at its home. -/
def paRead (s : State) (p : PA) : Byte :=
  match p.sp with
  | .loc => homeRead s p.a
  | .sys => s.sys.read p.a
  | .peer n => (peerMem s n).read p.a
  | .spad b => match blockAt? s b with
    | some x => x.scratch.read p.a
    | none => 0
  | .tile q => (coreAt s q).tstore.read p.a
  | .weight k => (kgetD s.weights k []).read p.a

/-- A byte written at its home. -/
def paWrite (s : State) (p : PA) (b : Byte) : State :=
  match p.sp with
  | .loc => homeWrite s p.a b
  | .sys => { s with sys := s.sys.write p.a b, wrote := s.wrote ++ [(p, 1)] }
  | .peer n => { s with peers := kset s.peers n ((peerMem s n).write p.a b), wrote := s.wrote ++ [(p, 1)] }
  | .spad k => modBlock s k fun x => { x with
      scratch := x.scratch.write p.a b, late := if x.pair.isNone then kset x.late p.a b else x.late }
  | .tile q => modCore s q fun c => { c with tstore := c.tstore.write p.a b }
  | .weight k => { s with weights := kset s.weights k ((kgetD s.weights k []).write p.a b) }

/-- Bytes that the device writes into system memory at a physical address. -/
def sysWrites (s : State) (a : Nat) (bs : List Byte) : State :=
  { s with sys := s.sys.writes a bs, wrote := s.wrote ++ [(⟨.sys, a⟩, bs.length)] }

/-- Is a byte's line uncorrectable (R390)? -/
def badAt (s : State) (p : PA) : Bool := p.sp == .loc && s.badLines.contains (p.a / 128)

/-- The byte `i` further on. -/
def PA.off (p : PA) (i : Nat) : PA := { p with a := p.a + i }

/-- Bytes at their home, lowest first. -/
def paBytes (s : State) (p : PA) (n : Nat) : List Byte := (List.range n).map fun i => paRead s (p.off i)
/-- A little-endian number at its home. -/
def paNat (s : State) (p : PA) (n : Nat) : Nat := leNat (paBytes s p n)
/-- Bytes written at their home at rising addresses. -/
def paWrites (s : State) (p : PA) : List Byte → State
  | [] => s
  | b :: bs => paWrites (paWrite s p b) (p.off 1) bs


/-- One more on counter `i` of die `d` (R370). -/
def addDie (s : State) (d i : Nat) : State :=
  let row := s.ctr.die.getD d (Vector.replicate 8 0)
  { s with ctr := { s.ctr with die := s.ctr.die.setIfInBounds d (row.setIfInBounds i ((row.getD i 0 + 1) % 2 ^ 48)) } }

/-- The home slice of a line of local memory (R12, R13). -/
def sliceOf (line : Nat) : Nat := Config.homeSlice line % 192
/-- The die whose controllers hold a line of local memory (R13). -/
def lineDie (line : Nat) : Nat := sliceOf line / 48

/-! ## Links (R13, R393) -/

/-- The modules between two V dies: none, the one that joins neighbours, or the two by way of the die between (R13). Module
12 + k joins Vk to the next die of the ring (log 44 PRESUMED unsafe). -/
def ringLinks (a b : Nat) : List Nat :=
  if a == b then []
  else if (a + 1) % 4 == b then [12 + a]
  else if (b + 1) % 4 == a then [12 + b]
  else if Config.detour a then [12 + a, 12 + (a + 1) % 4] else [12 + b, 12 + (b + 1) % 4]

/-- Where a request comes from: the H die, V die `k`, or M die `k`. -/
inductive Port where
  | h
  | v (k : Nat)
  | m (k : Nat)
  deriving DecidableEq, Repr, Inhabited

/-- The V die by which a request travels, if it does by one. -/
def Port.die : Port → Option Nat
  | .h => none
  | .v k => some k
  | .m k => some k

/-- The modules from a port to V die `k`; 8 + k joins H to Vk and 16 + k Mk to Vk (log 44 PRESUMED unsafe). -/
def linksToV (p : Port) (k : Nat) : List Nat :=
  match p with
  | .h => [8 + k]
  | .v j => ringLinks j k
  | .m j => (16 + j) :: ringLinks j k

/-- The modules from a port to the H die. -/
def linksToH : Port → List Nat
  | .h => []
  | .v k => [8 + k]
  | .m k => [16 + k, 8 + k]

/-- The links that a request from a port to a place crosses: modules 8 to 19, Burier's links 0 to 7, and 20 to the host
(R13, R206, log 44 PRESUMED unsafe). -/
def linksTo (from_ : Port) (p : PA) : List Nat :=
  match p.sp with
  | .loc => linksToV from_ (lineDie (p.a / 128))
  | .sys => linksToH from_ ++ [20]
  | .peer n => linksToH from_ ++ [n]
  | .spad _ => (match from_ with
    | .m k => [16 + k]
    | _ => [])
  | .tile q => if from_ == .m (q / 48) then [] else linksToV from_ (q / 48) ++ [16 + q / 48]
  | .weight k => if from_ == .m k then [] else linksToV from_ k ++ [16 + k]

/-- Does a retraining link hold a request from a port to a place (R393)? -/
def linkHeld (s : State) (from_ : Port) (p : PA) : Bool := (linksTo from_ p).any s.dev.retraining.contains

/-- Does a retraining link hold the checkpoint engine's copy of granule `g`: its read by the H die, or its stores (R360, R393)? -/
def granuleHeld (s : State) (g : Nat) : Bool :=
  linkHeld s .h ⟨.sys, s.xl.ckdst⟩ ||
    (List.range (granule / 128)).any fun i => linkHeld s .h ⟨.loc, committedAt s (granule * g) + 128 * i⟩

/-- Does a commit of, or a write in place to, granule `g` have the engine send a granule out first, which a retraining link holds (R360,
R393)? -/
def sendHeld (s : State) (g : Nat) : Bool :=
  !s.dev.retraining.isEmpty && (touchGranule 8 [] s g).xl.ckCount != s.xl.ckCount && granuleHeld s g

/-- Must a write in place to local address `a` wait for such a copy? -/
def outHeld (s : State) (a : Nat) : Bool := !shadowed s a && sendHeld s (a / granule)

/-- The port of a pair's core. -/
def corePort (p : Nat) : Port := .v (p / 48)
/-- The port of a pair's engine. -/
def enginePort (p : Nat) : Port := .m (p / 48)

/-- Uncorrectable lines of local memory are counted by the dies that hold them (R370). -/
def countUncorr (s : State) (ps : List PA) : State :=
  (distinct ((ps.filter fun p => p.sp == .loc).map fun p => p.a / 128)).foldl (fun s l => addDie s (lineDie l) 7) s

/-! ## Accesses that wait for a migration (R345) -/

/-- Access `id` has found a migrating page. -/
def stall (s : State) (id : Nat) : State := { s with xl := { s.xl with stalls := id :: s.xl.stalls } }
/-- Does access `id` still wait for `MMRL`? -/
def stalled (s : State) (id : Nat) : Bool := s.xl.stalls.contains id

/-! ## Launches and commit groups (R354 to R358) -/

/-- A launch by number. -/
def launchAt? (s : State) (l : Nat) : Option Launch := s.launches.find? fun x => x.lid == l
/-- A launch changed. -/
def modLaunch (s : State) (l : Nat) (f : Launch → Launch) : State :=
  { s with launches := s.launches.map fun x => if x.lid == l then f x else x }
/-- A region's effective record, or the last one its crews had (R319). -/
def regionAt? (s : State) (r : Nat) : Option Region :=
  match s.rg.eff.find? (fun x => x.num == r) with
  | some x => some x
  | none => s.rg.old.find? fun x => x.num == r

/-- A commit group by number. -/
def groupAt? (s : State) (g : Nat) : Option Group := s.xl.groups.find? fun x => x.gid == g
/-- A commit group changed. -/
def modGroup (s : State) (g : Nat) (f : Group → Group) : State :=
  { s with xl := { s.xl with groups := s.xl.groups.map fun x => if x.gid == g then f x else x } }

/-- Every shadow entry of a group becomes committed and its granule dirty (R357, R358). -/
def commitShadows (s : State) (g : Nat) : State :=
  let mine := s.xl.shadows.filter fun e => e.group == g && !e.committed
  let s := mine.foldl (fun s e => markDirty s e.granule) s
  { s with xl := { s.xl with shadows := s.xl.shadows.map fun e => if e.group == g then { e with committed := true } else e } }

/-- A group and its members become irrevocable (R358). -/
def makeIrrev (s : State) (g : Nat) : State :=
  let s := modGroup s g fun x => { x with irrev := true }
  let s := { s with launches := s.launches.map fun l => if l.group == g then { l with irrev := true } else l }
  commitShadows s g

/-- Two groups become one, `g`; more than 8 dependencies overflow (R356); irrevocability of either is the whole's (R358). -/
def fusePair (s : State) (g h : Nat) : State :=
  if g == h then s
  else
    match groupAt? s g, groupAt? s h with
    | some a, some b =>
      let deps := (distinct (a.deps ++ b.deps)).filter fun d => d != g && d != h
      let many : Bool := a.overflow || b.overflow || decide (8 < deps.length)
      let all := (s.xl.groups.map fun x => x.gid).filter fun k => k != g && k != h
      let fused : Group := ⟨g, if many then distinct (deps ++ all) else deps, many, a.irrev || b.irrev⟩
      let ren := fun d => if d == h then g else d
      let groups := (s.xl.groups.filter fun x => x.gid != h).map fun x =>
        if x.gid == g then fused else { x with deps := (distinct (x.deps.map ren)).filter fun d => d != x.gid }
      let s := { s with
        xl := { s.xl with groups := groups,
                          shadows := s.xl.shadows.map fun e => if e.group == h then { e with group := g } else e },
        launches := s.launches.map fun l => if l.group == h then { l with group := g } else l }
      if fused.irrev then makeIrrev s g else s
    | _, _ => s

/-- The groups that `g` depends on, directly or not. -/
def reachGo (s : State) : Nat → List Nat → List Nat
  | 0, acc => acc
  | n + 1, acc =>
    let next := distinct (acc ++ acc.flatMap fun g => match groupAt? s g with | some x => x.deps | none => [])
    reachGo s n next
def reaches (s : State) (g h : Nat) : Bool := (reachGo s s.xl.groups.length [g]).contains h

/-- The groups on a cycle of dependencies through `g`. -/
def cycleOf (s : State) (g : Nat) : List Nat :=
  let direct := match groupAt? s g with | some a => a.deps | none => []
  (s.xl.groups.map fun x => x.gid).filter fun k => k != g && (direct.any fun d => reaches s d k) && reaches s k g

/-- They fuse with it; a fusion that overflows can close a further cycle, which fuses too (R356). -/
def closeGo (g : Nat) : Nat → State → State
  | 0, s => s
  | n + 1, s =>
    match cycleOf s g with
    | [] => s
    | k :: _ => closeGo g n (fusePair s g k)

/-- No cycle of dependencies through `g` is left (R356). -/
def closeCycles (s : State) (g : Nat) : State := closeGo g s.xl.groups.length s

/-- Two groups fuse, and with them every group that would close a cycle through them (R356). -/
def fuseGroups (s : State) (g h : Nat) : State := closeCycles (fusePair s g h) g

/-- Group `g` comes to depend on `h`; a ninth dependency overflows, on every group uncommitted at that moment, and a cycle fuses
(R356). -/
def addDep (s : State) (g h : Nat) : State :=
  match groupAt? s g, groupAt? s h with
  | some a, some _ =>
    if g == h || a.deps.contains h then s
    else
      let all := (s.xl.groups.map fun x => x.gid).filter fun k => k != g
      let s := if a.overflow || decide (a.deps.length < 8) then modGroup s g fun x => { x with deps := x.deps ++ [h] }
        else modGroup s g fun x => { x with overflow := true, deps := distinct (x.deps ++ all) }
      closeCycles s g
  | _, _ => s

/-- A read by a launch of a byte of local memory (R356). -/
def noteRead (s : State) (l : Nat) (a : Nat) : State :=
  match shadowOf s a, launchAt? s l with
  | some e, some x => if e.committed || e.group == x.group then s else addDep s x.group e.group
  | _, _ => s

end Sys2Proof.Machine
end

