-- ==== Sys2Proof/Machine/Translate.lean ====
section
/-! DEFINITION. Address translation: the five-level walk, the translation buffers, and what an access meets (R337 to
R347). -/

namespace Sys2Proof.Machine

open Sys2Proof

/-- Fields of a page-table entry (R338). -/
def pteV (e : BitVec 64) : Bool := e.getLsbD 0
def pteLF (e : BitVec 64) : Bool := e.getLsbD 1
def pteR (e : BitVec 64) : Bool := e.getLsbD 2
def pteW (e : BitVec 64) : Bool := e.getLsbD 3
def pteX (e : BitVec 64) : Bool := e.getLsbD 4
def pteCT (e : BitVec 64) : Bool := e.getLsbD 5
def pteFT (e : BitVec 64) : Bool := e.getLsbD 6
def pteSW (e : BitVec 64) : Bool := e.getLsbD 7
def pteMG (e : BitVec 64) : Bool := e.getLsbD 8
def pteTGT (e : BitVec 64) : Nat := e.toNat / 2 ^ 9 % 4
def pteFrame (e : BitVec 64) : Nat := e.toNat / 2 ^ 12 % 2 ^ 40 * 2 ^ 12
def ptePeer (e : BitVec 64) : Nat := e.toNat / 2 ^ 52 % 16

/-- The permissions an entry keeps. -/
def ptePerm (e : BitVec 64) : Perm := ⟨pteR e, pteW e, pteX e⟩

/-- What a walk ends in: a leaf entry with the log of its page size and the entry's address, or a malformed walk. -/
inductive WalkRes where
  | leaf (e : BitVec 64) (bits : Nat) (at_ : Nat)
  | malformed
  deriving DecidableEq, Repr, Inhabited

/-- An entry read with a relaxed device-scope load (R337). -/
def pteAt (s : State) (a : Nat) : BitVec 64 := BitVec.ofNat 64 (leNat ((List.range 8).map fun i => homeRead s (a + i)))

/-- The sixteen entries of an aligned `CT` group (R339). -/
def ctGroup (s : State) (at_ : Nat) : List (BitVec 64) :=
  (List.range 16).map fun i => pteAt s (at_ / 128 * 128 + 8 * i)

/-- Is the aligned group of a `CT` entry well formed: alike but for consecutive frames of one 64 KiB block (R339)? -/
def ctOk (es : List (BitVec 64)) : Bool :=
  match es with
  | [] => false
  | e0 :: _ =>
    pteFrame e0 % 65536 == 0 &&
      (List.range 16).all fun i =>
        let e := es.getD i 0
        pteCT e && pteFrame e == pteFrame e0 + 4096 * i &&
          e.toNat - pteFrame e == e0.toNat - pteFrame e0

/-- Reserved bits and the fields an entry with `V` = 0 may hold (R338, R339). -/
def pteBad (e : BitVec 64) : Bool :=
  e.toNat / 2 ^ 56 != 0 || e.getLsbD 11 ||
    (!pteV e && decide (2 ≤ (pteFT e).toNat + (pteSW e).toNat + (pteMG e).toNat))

/-- Is a leaf of level `l` malformed, present or absent (R339, log 12 DEDUCED unsafe)? -/
def leafBad (s : State) (e : BitVec 64) (l at_ : Nat) : Bool :=
  let bits := if l = 0 then (if pteCT e then 16 else 12) else 12 + 9 * l
  let frameOk := pteFrame e % 2 ^ (if l = 0 then 12 else bits) == 0
  let inLoc := pteTGT e != 0 || decide (pteFrame e + 2 ^ (if l = 0 then 12 else bits) ≤ locSize)
  let peerOk := pteTGT e == 2 || ptePeer e == 0
  pteBad e || !frameOk || pteTGT e == 3 || !inLoc || (pteTGT e == 2 && decide (7 < ptePeer e)) || !peerOk || (l != 0 && pteCT e) || (l == 0 && pteCT e && !ctOk (ctGroup s at_))

/-- Is an entry with `LF` 0 malformed, present or absent (R338, R339, log 12 DEDUCED unsafe)? -/
def nodeBad (e : BitVec 64) : Bool :=
  e.toNat / 4 % 1024 != 0 || e.toNat / 2 ^ 52 != 0 || decide (locSize < pteFrame e + 4096)

/-- The walk from level `l` with table frame `tbl` (R337, R339). -/
def walkGo (s : State) (va : Nat) : Nat → Nat → WalkRes
  | 0, tbl =>
    let at_ := tbl + 8 * (va / 2 ^ 12 % 512)
    let e := pteAt s at_
    if !pteLF e || leafBad s e 0 at_ then .malformed
    else .leaf e (if pteCT e then 16 else 12) at_
  | l + 1, tbl =>
    let at_ := tbl + 8 * (va / 2 ^ (12 + 9 * (l + 1)) % 512)
    let e := pteAt s at_
    if pteLF e then
      (if 2 < l + 1 || leafBad s e (l + 1) at_ then .malformed else .leaf e (12 + 9 * (l + 1)) at_)
    else if nodeBad e then .malformed
    else if pteV e then walkGo s va l (pteFrame e)
    else .leaf e (12 + 9 * (l + 1)) at_

/-- The five-level walk of a 57-bit address (R337). -/
def walk (s : State) (va : Nat) : WalkRes := walkGo s va 4 s.xl.ptrt

/-- The entries that a walk from level `l` reads, by address. -/
def walkReads (s : State) (va : Nat) : Nat → Nat → List Nat
  | 0, tbl => [tbl + 8 * (va / 2 ^ 12 % 512)]
  | l + 1, tbl =>
    let at_ := tbl + 8 * (va / 2 ^ (12 + 9 * (l + 1)) % 512)
    let e := pteAt s at_
    at_ :: if pteLF e || nodeBad e || !pteV e then [] else walkReads s va l (pteFrame e)

/-- Does a retraining link hold a walk from a port (R337, R393)? -/
def walkHeld (s : State) (from_ : Port) (va : Nat) : Bool :=
  !s.dev.retraining.isEmpty && (walkReads s va 4 s.xl.ptrt).any fun a => linkHeld s from_ ⟨.loc, a⟩

/-- The physical place of an address under a leaf (R340). -/
def leafPA (e : BitVec 64) (bits va : Nat) : PA :=
  let a := if bits = 16 then pteFrame e / 65536 * 65536 + va % 65536 else pteFrame e / 2 ^ bits * 2 ^ bits + va % 2 ^ bits
  match pteTGT e with
  | 0 => ⟨.loc, a⟩
  | 1 => ⟨.sys, a⟩
  | _ => ⟨.peer (ptePeer e), a⟩

/-- The kinds of access of R340. -/
inductive Acc where
  | read | write | fetch
  deriving DecidableEq, Repr, Inhabited

/-- What a translation answers (R339, R340, R345, R347). -/
inductive Xl where
  | ok (pa : PA) (perm : Perm)
  /-- absent; `first`: a first-touch page; `evicted`: an evicted page that is fetched from (R347) -/
  | absent (first evicted : Bool)
  | denied
  /-- the page migrates, or the walk waits for a link that retrains: a wait without fault (R345, R393) -/
  | migrating
  deriving DecidableEq, Repr, Inhabited

/-- Does a permission admit an access? -/
def Perm.admits (p : Perm) : Acc → Bool
  | .read => p.r
  | .write => p.w
  | .fetch => p.x

/-- A leaf judged for an access. -/
def judge (acc : Acc) (va : Nat) (e : BitVec 64) (bits : Nat) : Xl :=
  if pteV e then
    (if (ptePerm e).admits acc then .ok (leafPA e bits va) (ptePerm e) else .denied)
  else if pteMG e then .migrating
  else .absent (pteFT e) (acc == .fetch && pteSW e)

/-- Is an address of 64 bits canonical (R227)? -/
def canonical (va : Nat) : Bool := decide (va < 2 ^ 57)

/-- A buffer's entry for an address. -/
def tlbFind (t : List TlbE) (va : Nat) : Option TlbE := t.find? fun e => e.va == va / 2 ^ e.bits * 2 ^ e.bits

/-- A translation without the buffers, as the H die, copies and the host make it (R340). -/
def xlateFresh (s : State) (acc : Acc) (va : Nat) : Xl :=
  if canonical va then
    match walk s va with
    | .leaf e bits _ => judge acc va e bits
    | .malformed => .denied
  else .denied

/-- Does any page of `n` bytes at `va` migrate (R345)? -/
def moving (s : State) (va n : Nat) : Bool :=
  (List.range ((va % 4096 + n + 4095) / 4096)).any fun i => xlateFresh s .read (va / 4096 * 4096 + 4096 * i) == .migrating

/-- Does any line of `n` bytes at `va`, or a walk to one, lie behind a retraining link from a port (R393)? -/
def behindLink (s : State) (from_ : Port) (va n : Nat) : Bool :=
  !s.dev.retraining.isEmpty && (List.range ((va % 128 + n + 127) / 128)).any fun i =>
    walkHeld s from_ (va / 128 * 128 + 128 * i) ||
      match xlateFresh s .read (va / 128 * 128 + 128 * i) with
      | .ok pa _ => linkHeld s from_ pa
      | _ => false

/-- Must an access to `n` bytes at `va` wait, for a migration or a link (R345, R393)? -/
def mustWait (s : State) (from_ : Port) (va n : Nat) : Bool := moving s va n || behindLink s from_ va n

/-- Must a write in place of `n` bytes at `va` wait, for a migration, a link, or what a checkpoint sends out first (R345, R360, R393)? -/
def mustHold (s : State) (from_ : Port) (va n : Nat) : Bool :=
  mustWait s from_ va n || (!s.dev.retraining.isEmpty && (List.range ((va % 128 + n + 127) / 128)).any fun i =>
    match xlateFresh s .write (va / 128 * 128 + 128 * i) with
    | .ok pa _ => pa.sp == .loc && outHeld s pa.a
    | _ => false)

/-! ## Shootdowns (R344) -/

/-- The pages of a shootdown. -/
def sdFirst (s : State) : Nat := s.xl.sdva
def sdEnd (s : State) : Nat := s.xl.sdva + 4096 * s.xl.sdln

/-- Does an address lie in the shootdown's range? -/
def sdHas (s : State) (va : Nat) : Bool := decide (sdFirst s ≤ va) && decide (va < sdEnd s)

/-! ## A core's translation (R342) -/

/-- The cluster of a pair (R12). -/
def clusterOf (p : Nat) : Nat := p / 8

/-- The line of a core's L1 under a virtual tag. -/
def l1Tag? (c : Core) (vln : Nat) : Option Line := c.l1.find? fun l => l.vln == vln
/-- The line of a core's L1 that holds a physical line. -/
def l1Line? (c : Core) (pln : Nat) : Option Line := c.l1.find? fun l => l.pln == pln

/-- One line added to a core's counters by the event codes of R369. -/
def countEvt (c : Core) (evt n : Nat) : Core :=
  { c with pmc := Vector.ofFn fun i =>
      let e := (c.pme.getD i.val 0).toNat
      let v := c.pmc.getD i.val 0
      if e / 256 % 2 == 1 && e % 256 == evt then (v + n) % 2 ^ 48 else v }

/-- A translation by core `p`: a hit in L1 is checked against the line's permissions, then TLB-1, TLB-2, and the walk, whose valid
entries fill both buffers; one that begins between a shootdown's `GO` and its end uses no line of the range (R342, R344). `again`: of a
line that its access has already looked up, whose miss counts once (R369). -/
def xlate (s : State) (p : Nat) (acc : Acc) (va : Nat) (again : Bool := false) : Xl × State :=
  if !canonical va then (.denied, s)
  else
    let c := coreAt s p
    match if acc == .fetch || (s.xl.sdBsy && sdHas s va) then none else l1Tag? c (va / 128) with
    | some l =>
      ((if l.perm.admits acc then .ok ⟨.loc, l.pln * 128 + va % 128⟩ l.perm else .denied), s)
    | none =>
      let s := if acc == .fetch || again then s else modCore s p fun c => countEvt c 0x03 1
      match tlbFind c.tlb va with
      | some e => (judge acc va e.leaf e.bits, s)
      | none =>
        let s := modCore s p fun c => countEvt c 0x04 1
        let t2 := kgetD s.tlb2 (clusterOf p) []
        match tlbFind t2 va with
        | some e => (judge acc va e.leaf e.bits, modCore s p fun c => { c with tlb := (e :: c.tlb).take 512 })
        | none =>
          if walkHeld s (.v (p / 48)) va then (.migrating, s) else
          let s := modCore s p fun c => countEvt c 0x05 1
          match walk s va with
          | .malformed => (.denied, s)
          | .leaf e bits _ =>
            let r := judge acc va e bits
            if pteV e then
              let t : TlbE := ⟨va / 2 ^ bits * 2 ^ bits, bits, e⟩
              let s := modCore s p fun c => { c with tlb := (t :: c.tlb).take 512 }
              (r, { s with tlb2 := kset s.tlb2 (clusterOf p) ((t :: t2).take 8192) })
            else (r, s)

end Sys2Proof.Machine
end

