-- ==== Sys2Proof/Machine/Shadow.lean ====
section
/-! DEFINITION. Frame pools (R349) and the shadows of a launch's writes (R354 to R358). -/

namespace Sys2Proof.Machine

open Sys2Proof

/-! ## Pools (R349) -/

/-- Where a byte at a virtual address lies, for the device's own reads and writes. -/
def vaPA? (s : State) (va : Nat) : Option PA :=
  match xlateFresh s .read va with
  | .ok pa _ => some pa
  | _ => none

/-- Bytes at a virtual address as the device reads them, when every page maps. -/
def vaBytes? (s : State) (va n : Nat) : Option (List Byte) :=
  (List.range n).mapM fun i => (vaPA? s (va + i)).map (paRead s)

/-- Bytes the device writes at a virtual address; none where no page maps. -/
def vaWrites (s : State) (va : Nat) : List Byte → State
  | [] => s
  | b :: bs => vaWrites (match vaPA? s va with | some pa => paWrite s pa b | none => s) (va + 1) bs

/-- The pool with a new count, in the H die and in its descriptor. -/
def Pool.count (s : State) (p : Pool) (n : Nat) : Pool × State := ({ p with top := n }, vaWrites s (p.desc + 8) (leBytes 4 n))

/-- A frame pushed on a pool. None when it is full, or its stack's page does not map. -/
def Pool.push (s : State) (p : Pool) (frame : Nat) : Option (Pool × State) :=
  let at_ := p.desc + 0x10 + 8 * p.top
  if p.cap ≤ p.top || (vaBytes? s at_ 8).isNone then none
  else some (Pool.count (vaWrites s at_ (leBytes 8 frame)) p (p.top + 1))

/-- The frame on top of a pool. -/
def Pool.pop (s : State) (p : Pool) : Option (Nat × Pool × State) :=
  if p.top = 0 then none
  else match vaBytes? s (p.desc + 0x10 + 8 * (p.top - 1)) 8 with
    | none => none
    | some bs => some (leNat bs / 4096 % 2 ^ 40 * 4096, Pool.count s p (p.top - 1))

/-- The shadow pool of an M-group instance changed. -/
def setShadowPool (s : State) (inst : Nat) (p : Pool) : State :=
  { s with rg := { s.rg with shadowPool := kset s.rg.shadowPool inst p } }

/-- Must the use of a pool wait, at its count or at the entry of its stack that it would use next, for a page that migrates, a link, or
what a checkpoint sends out first (R345, R360, R393)? -/
def Pool.moves (s : State) (p : Pool) : Bool := mustHold s .h p.desc 16 || mustHold s .h (p.desc + 8 + 8 * p.top) 16

/-- A frame goes back to the shadow pool of the M-group instance it came from, or waits while the pool's page migrates (R345,
R355). -/
def pushFrame (s : State) (inst frame : Nat) : State :=
  match kget s.rg.shadowPool inst with
  | none => s
  | some p =>
    if p.moves s then { s with xl := { s.xl with freeFrames := s.xl.freeFrames ++ [(inst, frame)] } }
    else match p.push s frame with
      | some x => setShadowPool x.2 inst x.1
      | none => s

/-- The frame on top of a shadow pool. -/
def popFrame (s : State) (inst : Nat) : Option (Nat × State) :=
  match (kget s.rg.shadowPool inst).bind fun p => p.pop s with
  | some x => some (x.1, setShadowPool x.2.2 inst x.2.1)
  | none => none

/-! ## Shadows -/

/-- The V die whose shadow map serves a granule. -/
def shadowDie (a : Nat) : Nat := lineDie (a / granule * granule / 128)

/-- Entry `e` is copied back and freed (R355). -/
def copyBack (s : State) (e : Shadow) : State :=
  let g := e.granule / granule
  let s := if streaming s && dirtyBit s (!s.xl.sel) g then copyOut s g else s
  let s := locCopy s e.granule e.frame
  let s := { s with xl := { s.xl with shadows := s.xl.shadows.filter fun x => x.granule != e.granule } }
  pushFrame s e.inst e.frame

/-- What a write by launch `l` to the granule of local address `a` needs before it is made: fusion with the group that
owns the granule, a shadow of its own, or irrevocability (R354, R356, R358). -/
def claim (s : State) (l a : Nat) : State :=
  match launchAt? s l with
  | none => s
  | some x =>
    match shadowOf s a with
    | some e =>
      if e.committed then
        (if x.irrev then s else claimNew (copyBack s e) x a)
      else if e.group == x.group then s
      else fuseGroups s x.group e.group
    | none => if x.irrev then s else claimNew s x a
where
  /-- the first write of a revocable launch to a granule -/
  claimNew (s : State) (x : Launch) (a : Nat) : State :=
    let inst := match regionAt? s x.lr.regn with | some r => r.instM | none => 0
    let full : Bool := decide (16384 ≤ (s.xl.shadows.filter fun e => shadowDie e.granule == shadowDie a).length)
    match popFrame s inst with
    | none => makeIrrev s x.group
    | some (f, t) =>
      if full then makeIrrev s x.group
      else
        let g := a / granule * granule
        let t := locCopy t f g
        { t with xl := { t.xl with shadows := t.xl.shadows ++ [⟨g, f, x.group, false, inst⟩] } }

/-- Does a retraining link hold a copy of granule `g` of local memory to another frame, by the controllers of its die (R354, R355,
R393)? -/
def copyHeld (s : State) (g a b : Nat) : Bool :=
  !s.dev.retraining.isEmpty && (List.range (granule / 128)).any fun i =>
    linkHeld s (.v (shadowDie g)) ⟨.loc, a + 128 * i⟩ || linkHeld s (.v (shadowDie g)) ⟨.loc, b + 128 * i⟩

/-- Must the copy-back of an entry wait for a link (R355, R360, R393)? -/
def copyBackHeld (s : State) (e : Shadow) : Bool :=
  copyHeld s e.granule e.granule e.frame || (streaming s && dirtyBit s (!s.xl.sel) (e.granule / granule) && sendHeld s (e.granule / granule))

/-- Must the commit of a group's shadows wait for a link (R357, R358, R360, R393)? -/
def groupHeld (s : State) (g : Nat) : Bool :=
  !s.dev.retraining.isEmpty && s.xl.shadows.any fun e => e.group == g && !e.committed && sendHeld s (e.granule / granule)

/-- Would the first write of launch `x` to the granule of `a` have to wait: for its pool's page, or for a link at the pool, the copy or
the commit that the want of a frame brings (R345, R354, R358, R393)? -/
def newMoves (s : State) (x : Launch) (a : Nat) : Bool :=
  match (regionAt? s x.lr.regn).bind fun r => kget s.rg.shadowPool r.instM with
  | none => groupHeld s x.group
  | some p => p.moves s || match p.pop s with
    | none => groupHeld s x.group
    | some (f, _) => copyHeld s a (a / granule * granule) f || groupHeld s x.group

/-- Must a write by launch `l` at a place wait, once the place itself can be reached, for what it needs first (R345, R354, R360, R393)? -/
def claimMoves (s : State) (l : Nat) (p : PA) : Bool :=
  match launchAt? s l with
  | none => p.sp == .loc && outHeld s p.a
  | some x => match p.sp with
    | .loc => (match shadowOf s p.a with
      | some e =>
        if e.committed then (if x.irrev then outHeld s p.a else copyBackHeld s e || newMoves s x p.a)
        else e.group != x.group && (groupHeld s e.group || groupHeld s x.group)
      | none => if x.irrev then outHeld s p.a else newMoves s x p.a)
    | .sys | .peer _ => !x.irrev && groupHeld s x.group
    | _ => false

/-- A write by launch `l` at a place: what it needs there first (R354, R358). -/
def claimAt (s : State) (l : Nat) (p : PA) : State :=
  match p.sp with
  | .loc => claim s l p.a
  | .sys | .peer _ =>
    (match launchAt? s l with
     | some x => if x.irrev then s else makeIrrev s x.group
     | none => s)
  | _ => s

end Sys2Proof.Machine
end

