-- ==== Sys2Proof/Machine/Cache.lean ====
section
/-! DEFINITION. The L1 caches, the cluster's registered bytes, releases and acquires, and the promotion log (R206, R210,
R214, R223, R343). -/

namespace Sys2Proof.Machine

open Sys2Proof

/-- A byte of a line's 1,024 bits. -/
def lineByte (d : BitVec 1024) (i : Nat) : Byte := d.extractLsb' (8 * i) 8
/-- A line with a byte replaced. -/
def lineSet (d : BitVec 1024) (i : Nat) (b : Byte) : BitVec 1024 :=
  (d &&& ~~~((255#1024) <<< (8 * i))) ||| ((b.setWidth 1024) <<< (8 * i))
/-- One bit of a byte mask. -/
def bit128 (i : Nat) : BitVec 128 := (1#128) <<< i
/-- A line from its bytes. -/
def lineOf (bs : List Byte) : BitVec 1024 := BitVec.ofNat 1024 (leNat bs)

/-- The cores of a cluster (R12). -/
def clusterCores (k : Nat) : List Nat := (List.range 8).map fun i => 8 * k + i

/-- One line of a core replaced. -/
def setLine (s : State) (p : Nat) (l : Line) : State :=
  modCore s p fun c => { c with l1 := c.l1.map fun x => if x.pln == l.pln then l else x }

/-- The byte a cluster's cores have registered with its atomic unit, if any (R210). -/
def registered? (s : State) (k : Nat) (a : Nat) : Option Byte :=
  (clusterCores k).findSome? fun p =>
    match l1Line? (coreAt s p) (a / 128) with
    | some l => if l.reg.getLsbD (a % 128) then some (lineByte l.data (a % 128)) else none
    | none => none

/-- A byte as the cluster's atomic unit gives it to its cores (R210). -/
def clusterByte (s : State) (k a : Nat) : Byte := (registered? s k a).getD (homeRead s a)

/-! ## Write-backs behind a link (R393) -/

/-- Does a retraining link hold the write-back of a dirty line by core `p`, or of what a checkpoint sends out first (R360, R393)? -/
def lineHeld (s : State) (p : Nat) (l : Line) : Bool :=
  l.dirty != 0 && (linkHeld s (corePort p) ⟨.loc, l.pln * 128⟩ || outHeld s (l.pln * 128))

/-- Does one hold the write-back of a line of core `p` that meets a condition? -/
def wbHeld (s : State) (p : Nat) (f : Line → Bool) : Bool :=
  !s.dev.retraining.isEmpty && (coreAt s p).l1.any fun l => f l && lineHeld s p l

/-- Does one hold what a release by core `p` at a scope writes back? -/
def releaseHeld (s : State) (p : Nat) : Scope → Bool
  | .crew | .block | .cluster => false
  | .device | .system => wbHeld s p (fun _ => true) || (clusterCores (clusterOf p)).any fun q => wbHeld s q fun l => l.reg != 0

/-- The line that a fill makes leave a full L1: the oldest whose write-back no link holds. -/
def victim? (s : State) (p : Nat) : Option Line :=
  if (coreAt s p).l1.length < 1536 then none
  else match (coreAt s p).l1.reverse.find? fun l => !lineHeld s p l with
    | some l => some l
    | none => (coreAt s p).l1.getLast?

/-- Does a retraining link hold the fill of a line by what it makes leave core `p`'s L1 first: a synonym, or the line of a full L1
(R343, R393)? -/
def fillHeld (s : State) (p vln pln : Nat) : Bool :=
  !s.dev.retraining.isEmpty && (wbHeld s p (fun l => (l.pln == pln) != (l.vln == vln)) ||
    (l1Line? (coreAt s p) pln).isNone && (victim? s p).any (lineHeld s p))

/-! ## Releaser tables (R224) -/

/-- The releaser table of a line's home slice. -/
def relTable (s : State) (pln : Nat) : List RelEntry := kgetD s.releasers (sliceOf pln) []

/-- Core `p` joins a releaser set of at most four; any other core sets the overflow bit. -/
def RelEntry.join (e : RelEntry) (p : Nat) : RelEntry :=
  if e.cores.contains p then e
  else if e.cores.length < 4 then { e with cores := e.cores ++ [p] } else { e with overflow := true }

/-- The cores of a set. -/
def RelEntry.targets (e : RelEntry) : List Nat := if e.overflow then List.range 192 else e.cores

/-- A hint reaches line `pln`'s slice: it joins the line's entry, most recently used, or takes a free one. At a full table it
waits while the slice evicts its least recently used entry, whose set a sequence of its own promotes first (R224, R225). -/
def hintAt (s : State) (p pln : Nat) : State :=
  let k := sliceOf pln
  let t := relTable s pln
  match t.find? fun e => e.pln == pln with
  | some e => { s with releasers := kset s.releasers k (e.join p :: t.filter fun x => x.pln != pln) }
  | none =>
    if t.length < 512 then { s with releasers := kset s.releasers k (⟨pln, [p], false⟩ :: t) }
    else
      let s := { s with hintQ := s.hintQ ++ [(p, pln)] }
      if s.pacqs.any fun q => q.evict && sliceOf q.pln == k then s
      else match t.getLast? with
        | none => s
        | some e =>
          { s with nextId := s.nextId + 1, pacqs := s.pacqs ++ [⟨s.nextId, 0, 0, e.pln, [], [], false, true, [], 0⟩] }

/-- Hints that waited at slice `k` reach it again. -/
def retryHints (s : State) (k : Nat) : State :=
  let mine := s.hintQ.filter fun h => sliceOf h.2 == k
  mine.foldl (fun s h => hintAt s h.1 h.2) { s with hintQ := s.hintQ.filter fun h => sliceOf h.2 != k }

/-- Hints of core `p`'s cluster for a line arrive before a write-back of it by `p`, which may carry what the others released through
the cluster's unit (R222, R223, R226). -/
def hintsFirst (s : State) (p pln : Nat) : State :=
  (clusterCores (clusterOf p)).foldl (fun s q =>
    if s.hints.contains (q, pln) then hintAt { s with hints := s.hints.filter fun h => h != (q, pln) } q pln else s) s

/-- A line that lacks bytes keeps of the others only its dirty ones, so that no element is put together from old and new (R207). -/
def Line.whole (l : Line) : Line := if l.valid == BitVec.allOnes 128 then l else { l with valid := l.valid &&& l.dirty }

/-- A dirty line written back: its dirty bytes go home, and it is clean (R223). -/
def writeBack (s : State) (p : Nat) (l : Line) : State :=
  let s := hintsFirst s p l.pln
  let s := (List.range 128).foldl (fun s i =>
    if l.dirty.getLsbD i then homeWrite s (l.pln * 128 + i) (lineByte l.data i) else s) s
  setLine s p (Line.whole { l with dirty := 0, reg := 0 })

/-- Line `pln` goes home from the other cores of core `p`'s cluster that have registered bytes of it: a use of the line at
another site comes after theirs (R213, R238). -/
def yieldMates (s : State) (p pln : Nat) : State :=
  (clusterCores (clusterOf p)).foldl (fun s q =>
    if q == p then s
    else match l1Line? (coreAt s q) pln with
      | some l => if l.reg != 0 then writeBack s q l else s
      | none => s) s

/-- What core `p`'s cluster has of line `pln` at its atomic unit, then the core's own dirty bytes, go home, so that the home is
read and written after them (R211, R213, R238). -/
def settleLine (s : State) (p pln : Nat) : State :=
  let s := yieldMates s p pln
  match l1Line? (coreAt s p) pln with
  | some l => if l.dirty != 0 then writeBack s p l else s
  | none => s

/-- The clean bytes of a line leave core `p`'s L1: what is read past it is not followed by what it held before (R213). -/
def forgetClean (s : State) (p pln : Nat) : State :=
  match l1Line? (coreAt s p) pln with
  | some l =>
    if l.dirty == 0 then modCore s p fun c => { c with l1 := c.l1.filter fun x => x.pln != pln }
    else setLine s p { l with valid := l.dirty }
  | none => s

/-- The dirty lines of a core that meet a condition, written back. -/
def writeBackAll (s : State) (p : Nat) (f : Line → Bool) : State :=
  ((coreAt s p).l1.filter fun l => l.dirty != 0 && f l).foldl (fun s l => writeBack s p l) s

/-- A line leaves a core's L1, written back first if dirty (R343). -/
def dropLine (s : State) (p : Nat) (l : Line) : State :=
  let s := if l.dirty != 0 then writeBack s p l else s
  modCore s p fun c => { c with l1 := c.l1.filter fun x => x.pln != l.pln }

/-- A line brought into a core's L1 under a virtual tag, its invalid bytes filled; a synonym of the same core and, in a
full L1, the oldest line go first (R17, R342, R343). -/
def fillLine (s : State) (p vln pln : Nat) (perm : Perm) : State :=
  let s := match l1Line? (coreAt s p) pln with
    | some l => if l.vln != vln then dropLine s p l else s
    | none => s
  let s := match l1Tag? (coreAt s p) vln with
    | some l => if l.pln != pln then dropLine s p l else s
    | none => s
  let fresh (i : Nat) : Byte := clusterByte s (clusterOf p) (pln * 128 + i)
  match l1Line? (coreAt s p) pln with
  | some l =>
    if l.valid == BitVec.allOnes 128 then s
    else
      let bs := (List.range 128).map fun i => if l.valid.getLsbD i then lineByte l.data i else fresh i
      setLine s p { l with data := lineOf bs, valid := BitVec.allOnes 128, perm := perm }
  | none =>
    let l : Line := ⟨vln, pln, perm, lineOf ((List.range 128).map fresh), BitVec.allOnes 128, 0, 0, 0⟩
    let s := match victim? s p with
      | some o => dropLine s p o
      | none => s
    modCore s p fun c => { c with l1 := l :: c.l1 }

/-- A global byte as a crew on core `p` reads it at a scope (R210): through L1, at the cluster's unit, or at the home once
`settleLine` has brought the line up to date there (R211, R213). -/
def readAt (s : State) (p : Nat) (sc : Scope) (a : Nat) : Byte :=
  let own := match l1Line? (coreAt s p) (a / 128) with
    | some l =>
      let use := match sc with
        | .crew | .block => l.valid.getLsbD (a % 128)
        | _ => l.dirty.getLsbD (a % 128)
      if use then some (lineByte l.data (a % 128)) else none
    | none => none
  own.getD (clusterByte s (clusterOf p) a)

/-- Registered copies of a byte in a cluster's other cores give way to a newer write (R210). -/
def unregister (s : State) (k : Nat) (but : Option Nat) (a : Nat) : State :=
  (clusterCores k).foldl (fun s p =>
    if but == some p then s
    else match l1Line? (coreAt s p) (a / 128) with
      | some l =>
        if l.reg.getLsbD (a % 128) then
          let m := ~~~(bit128 (a % 128))
          setLine s p (Line.whole { l with reg := l.reg &&& m, dirty := l.dirty &&& m, valid := l.valid &&& m })
        else s
      | none => s) s

/-- A byte written into core `p`'s L1 copy, which is there; its line takes the current stamp when it was clean (R223). -/
def l1Write (s : State) (p a : Nat) (b : Byte) (reg : Bool) : State :=
  let c := coreAt s p
  match l1Line? c (a / 128) with
  | some l =>
    let i := a % 128
    let stamp := if l.dirty == 0 then c.stamp else l.stamp
    let s := setLine s p { l with data := lineSet l.data i b, valid := l.valid ||| bit128 i, dirty := l.dirty ||| bit128 i,
                                  reg := if reg then l.reg ||| bit128 i else l.reg, stamp := stamp }
    if reg then unregister s (clusterOf p) (some p) a else s
  | none => homeWrite s a b

/-- A byte written through to its home by core `p`; its own copy becomes clean and registered copies of its cluster give
way (R210, R211). -/
def writeThrough (s : State) (p a : Nat) (b : Byte) : State :=
  let s := homeWrite s a b
  let s := unregister s (clusterOf p) (some p) a
  match l1Line? (coreAt s p) (a / 128) with
  | some l =>
    let i := a % 128
    let m := ~~~(bit128 i)
    setLine s p (Line.whole { l with data := lineSet l.data i b, dirty := l.dirty &&& m, reg := l.reg &&& m })
  | none => s

/-- Every dirty byte of core `p` is registered with its cluster's unit: a cluster-scope release (R210). -/
def registerAll (s : State) (p : Nat) : State :=
  ((coreAt s p).l1.filter fun l => l.dirty != 0).foldl (fun s l =>
    let s := setLine s p { l with reg := l.dirty }
    (List.range 128).foldl (fun s i =>
      if l.dirty.getLsbD i then unregister s (clusterOf p) (some p) (l.pln * 128 + i) else s) s) s

/-- A release at a scope makes the writes that precede it visible there (R210): at device and system scope first what the
cluster's cores have registered, which may precede it (R216), then the core's own. -/
def releaseAt (s : State) (p : Nat) : Scope → State
  | .crew | .block => s
  | .cluster => registerAll s p
  | .device | .system =>
    let s := (clusterCores (clusterOf p)).foldl (fun s q =>
      if q == p then s else writeBackAll s q fun l => l.reg != 0) s
    writeBackAll s p fun _ => true

/-- An acquire at a scope: later reads go through that scope's point, so copies that are not the core's own writes are no
longer used (R210, R242). -/
def acquireAt (s : State) (p : Nat) : Scope → State
  | .crew | .block => s
  | _ => modCore s p fun c =>
      { c with l1 := (c.l1.filter fun l => l.dirty != 0).map fun l => { l with valid := l.dirty } }

/-! ## The promotion log (R223, R353) -/

/-- Entry `n`'s promotion: dirty lines whose stamp is not greater are written back (R223). -/
def promoteStamp (s : State) (p stamp : Nat) : State := writeBackAll s p fun l => decide (l.stamp ≤ stamp)

/-- The unpromoted entries that meet a condition are promoted (R223, R225). -/
def promoteWhere (s : State) (p : Nat) (f : PLog → Bool) : State :=
  let es := (coreAt s p).plog.filter fun e => !e.pro && f e
  let s := es.foldl (fun s e => promoteStamp s p e.stmp) s
  modCore s p fun c => { c with plog := c.plog.map fun e => if !e.pro && f e then { e with pro := true } else e }

/-- A release with addresses at block or cluster scope advances the stamp, once (R223), which first makes room for itself
at the stamp's end (R353). -/
def advanceStamp (s : State) (p : Nat) : State :=
  if (coreAt s p).stamp < 65535 then modCore s p fun c => { c with stamp := c.stamp + 1 }
  else
    let s := promoteWhere s p fun _ => true
    modCore s p fun c => { c with stamp := 1, l1 := c.l1.map fun l => { l with stamp := 0 } }

/-- Lines of some lane accesses in local memory, each once, with a virtual tag. -/
def linesOf (ls : List LaneAcc) : List (Nat × Nat) :=
  ls.foldl (fun acc l =>
    match l.pa.sp with
    | .loc => if acc.any fun x => x.2 == l.pa.a / 128 then acc else acc ++ [(l.va / 128, l.pa.a / 128)]
    | _ => acc) []

/-- Lines that an element of a logged release is written to are covered by its entries: their stamps are not greater (R223). -/
def capStamp (s : State) (p : Nat) (n : Option Nat) (ls : List LaneAcc) : State :=
  match n with
  | none => s
  | some k => (linesOf ls).foldl (fun s x => match l1Line? (coreAt s p) x.2 with
    | some l => setLine s p { l with stamp := min l.stamp k }
    | none => s) s

/-- Are elements of a release that core `p` has logged still to be written, to lines that meet a condition? No entry of such a line is
promoted or evicted meanwhile (R223, R226). -/
def releasing (s : State) (p : Nat) (f : Nat → Bool) : Bool :=
  let hit (ls : List LaneAcc) : Bool := ls.any fun l => l.pa.sp == .loc && f (l.pa.a / 128)
  (s.storeQ.any fun x => x.pair == p && x.logged.isSome && hit x.lanes) ||
    s.atoms.any fun q => q.pair == p && q.logged.isSome && hit [q.at_]

/-- Does a release of core `p` wait: the log has no room for its lines, or the stamp is at its end, while a release it would promote is
still being written, or a link holds what the promotion writes back (R223, R353, R393)? -/
def logWaits (s : State) (p : Nat) (sc : Scope) (ls : List LaneAcc) : Bool :=
  (sc == .block || sc == .cluster) && !(linesOf ls).isEmpty && (releasing s p (fun _ => true) || wbHeld s p fun _ => true) &&
    (decide (64 < (coreAt s p).plog.length + (linesOf ls).length) || decide (65535 ≤ (coreAt s p).stamp))

/-- The release's entry for one line: a new stamp for the unpromoted entry of the line, or a new entry with its hint, for
which a full log promotes and evicts its oldest (R223). Entries stand oldest first. -/
def logLine (s : State) (p vln pln : Nat) : State :=
  let c := coreAt s p
  if c.plog.any fun e => !e.pro && e.pln == pln then
    modCore s p fun c => { c with plog := c.plog.map fun e =>
      if !e.pro && e.pln == pln then { e with stmp := c.stamp } else e }
  else
    let s := if c.plog.length < 64 then s
      else match c.plog with
        | [] => s
        | e :: _ =>
          let s := if e.pro then s else promoteStamp s p e.stmp
          modCore s p fun c => { c with plog := c.plog.drop 1 }
    let s := modCore s p fun c => { c with plog := c.plog ++ [⟨false, c.stamp, pln, vln⟩] }
    { s with hints := s.hints ++ [(p, pln)] }

/-- The log's part in a release by lane accesses at block or cluster scope (R223). -/
def logRelease (s : State) (p : Nat) (sc : Scope) (ls : List LaneAcc) : State :=
  match sc with
  | .block | .cluster =>
    let lines := linesOf ls
    if lines.isEmpty then s
    else lines.foldl (fun s x => logLine s p x.1 x.2) (advanceStamp s p)
  | _ => s

/-! ## One lane's data -/

/-- Has core `p`'s L1 the line of a lane under its virtual tag? -/
def tagged? (s : State) (p : Nat) (l : LaneAcc) : Option Line :=
  (l1Line? (coreAt s p) (l.pa.a / 128)).filter fun x => x.vln == l.va / 128

/-- Does core `p`'s L1 serve a lane's `n` bytes of local memory at block scope: are they valid there under its tag? -/
def l1Serves (s : State) (p n : Nat) (l : LaneAcc) : Bool :=
  (tagged? s p l).any fun x => (List.range n).all fun i => x.valid.getLsbD ((l.pa.a + i) % 128)

/-- Does a retraining link hold a lane's access by core `p` at a scope (R393)? One that its L1 serves crosses none. -/
def laneHeld (s : State) (p : Nat) (sc : Scope) (n : Nat) (l : LaneAcc) : Bool :=
  match l.pa.sp, sc with
  | .loc, .crew | .loc, .block =>
    !l1Serves s p n l && (linkHeld s (corePort p) l.pa || fillHeld s p (l.va / 128) (l.pa.a / 128))
  | .loc, .cluster => linkHeld s (corePort p) l.pa || fillHeld s p (l.va / 128) (l.pa.a / 128)
  | _, _ => linkHeld s (corePort p) l.pa

/-- Is a lane's line uncorrectable where core `p` reads it at a scope (R232, R390)? What its L1 serves is not read there. -/
def laneBad (s : State) (p : Nat) (sc : Scope) (n : Nat) (l : LaneAcc) : Bool :=
  badAt s l.pa && !((sc == .crew || sc == .block) && l1Serves s p n l)

/-- A lane's bytes written where its scope says (R210, R234). -/
def laneWrite (s : State) (p launch : Nat) (sc : Scope) (l : LaneAcc) (n : Nat) (data : Nat) : State :=
  let s := claimAt s launch l.pa
  match l.pa.sp with
  | .loc =>
    (match sc with
     | .device | .system =>
       ((leBytes n data).zipIdx).foldl (fun s x => writeThrough s p (l.pa.a + x.2) x.1) s
     | _ =>
       let s := if sc == .cluster then s else yieldMates s p (l.pa.a / 128)
       let s := if (tagged? s p l).isSome then s else fillLine s p (l.va / 128) (l.pa.a / 128) l.perm
       ((leBytes n data).zipIdx).foldl (fun s x => l1Write s p (l.pa.a + x.2) x.1 (sc == .cluster)) s)
  | _ => paWrites s l.pa (leBytes n data)

/-- What a read of a lane's `n` bytes of local memory at a scope does to the caches first (R210, R211): a plain read brings the line into
L1, where a line that lacks bytes of it is a miss (R369); one at the cluster's unit or at the home goes past it, and finds its core's and
cluster's own writes before they reach the home, which makes them visible to no other core (R213, R217). -/
def readReady (s : State) (p : Nat) (sc : Scope) (n : Nat) (l : LaneAcc) : State :=
  match sc with
  | .crew | .block =>
    if l1Serves s p n l then s
    else
      let s := if (tagged? s p l).isSome then modCore s p fun c => countEvt c 0x03 1 else s
      fillLine s p (l.va / 128) (l.pa.a / 128) l.perm
  | .cluster | .device | .system => forgetClean s p (l.pa.a / 128)

/-- A lane's bytes read where its scope says (R210, R231). -/
def laneRead (s : State) (p launch : Nat) (sc : Scope) (l : LaneAcc) (n : Nat) : Nat × State :=
  match l.pa.sp with
  | .loc =>
    let s := readReady (noteRead s launch l.pa.a) p sc n l
    (leNat ((List.range n).map fun i => readAt s p sc (l.pa.a + i)), s)
  | _ => (paNat s l.pa n, s)

end Sys2Proof.Machine
end

