-- ==== Sys2Proof/Machine/Crew.lean ====
section
/-! DEFINITION. The crew at the issue stage: registers, masks, hints, poison, fragments and split-table entries (R53, R96
to R101, R119, R120, R173 to R180, R333, R334). -/

namespace Sys2Proof.Machine

open Sys2Proof

/-- The crew at the issue stage changed. -/
def modCur (s : State) (f : Crew → Crew) : State := { s with cur := f s.cur }
/-- The issuing fragment changed. -/
def modFr (s : State) (f : Frag → Frag) : State := modCur s fun c => { c with fr := f c.fr }

/-! ## Registers -/

/-- A uniform register; `cz` reads 0 (R98). -/
def getC (s : State) (r : CReg) : Word := if r.val = 63 then 0 else s.cur.c.get r
/-- A uniform register written; `cz` discards (R98). -/
def setC (s : State) (r : CReg) (v : Word) : State :=
  if r.val = 63 then s else modCur s fun c => { c with c := c.c.set r.val v }
/-- An affine register; `az` reads (0, 0) (R98). -/
def getA (s : State) (r : AReg) : Affine := if r.val = 31 then ⟨0, 0⟩ else s.cur.a.get r
/-- An affine register written; `az` discards (R98). -/
def setA (s : State) (r : AReg) (v : Affine) : State :=
  if r.val = 31 then s else modCur s fun c => { c with a := c.a.set r.val v }
/-- A varying register of a crew; `vz` reads 0 (R98). -/
def Crew.vreg (c : Crew) (r : Nat) : Lanes := if 127 ≤ r then Lanes.zero else c.v.getD r Lanes.zero
/-- Its poisoned lanes; `vz` has none. -/
def Crew.poisonOf (c : Crew) (r : Nat) : Mask := if 127 ≤ r then 0 else c.poison.getD r 0
/-- Lanes of a varying register written, with their poison; `vz` discards (R98, R119). -/
def Crew.putV (c : Crew) (r : Nat) (act : Mask) (x : Lanes) (bad : Mask) : Crew :=
  if 127 ≤ r then c
  else { c with v := c.v.setIfInBounds r (mergeLanes act (c.v.getD r Lanes.zero) x),
                poison := c.poison.setIfInBounds r ((c.poison.getD r 0 &&& ~~~act) ||| (bad &&& act)) }
/-- A varying register. -/
def getV (s : State) (r : VReg) : Lanes := s.cur.vreg r.val
/-- The lanes of `act` of a varying register written, clean of poison. -/
def setV (s : State) (r : VReg) (act : Mask) (x : Lanes) : State := modCur s fun c => c.putV r.val act x 0
/-- A mask register. -/
def getM (s : State) (k : MReg) : Mask := s.cur.m.get k
/-- A mask register written whole. -/
def setM (s : State) (k : MReg) (x : Mask) : State := modCur s fun c => { c with m := c.m.set k.val x }

/-- `live(xm)` of the issuing fragment (R10). -/
def liveXm (s : State) : Mask := s.cur.fr.xm &&& s.cur.lm
/-- A full mask (R101). -/
def fullMask (s : State) : Bool := liveXm s == s.cur.lm
/-- A write of `xm`, within the fragment's lanes (R148, R174). -/
def setXm (s : State) (x : Mask) : State := modFr s fun f => { f with xm := x &&& f.fl &&& s.cur.lm }

/-- `cst.LVL`'s code (R191). -/
def Level.code : Level → Nat
  | .none => 0 | .user => 1 | .supervisor => 2 | .preempt => 3
/-- The whole of `cst` (R191). -/
def cstWord (c : Crew) : Word :=
  BitVec.ofNat 64 (128 * c.cst.dsrc.toNat + 64 * c.cst.dln.toNat + 16 * c.cst.lvl.code + 8 * c.cst.ppre.toNat +
    4 * (!c.imprec.isEmpty).toNat)

/-- A flag of `nsf` set (R75). -/
def setNsf (s : State) (b : Bool) (bit : Nat) : State :=
  if b then modCur s fun c => { c with nsf := c.nsf ||| BitVec.ofNat 64 (2 ^ bit) } else s

/-! ## Hints (R51 to R56) -/

/-- What a pending run gives its consumer. -/
structure Mods where
  wide : Option Word
  msk : Option MReg
  ord : Nat
  scp : Nat
  rnd : Nat
  sat : Nat
  av : Option VReg
  hasMod : Bool
  join : Option Int
  deriving DecidableEq, Repr, Inhabited

/-- The raw word of a hint. -/
def Hint.word : Hint → Nat
  | .lo p => 0xFC000000 + p.toNat
  | .hi p => 0xFD000000 + p.toNat
  | .mod p => 0xFE000000 + p.toNat
  | .join p => 0xFF000000 + p.toNat

/-- The immediates of a run in address order. -/
def immsOf : List Hint → List (BitVec 24)
  | [] => []
  | .lo p :: r => p :: immsOf r
  | .hi p :: r => p :: immsOf r
  | _ :: r => immsOf r

/-- The wide immediate of a chain (R54). -/
def wideOf (ps : List (BitVec 24)) : Word :=
  let n := 24 * ps.length
  let acc := ps.foldl (fun a p => a * 2 ^ 24 + p.toNat) 0
  BitVec.ofInt 64 (toS n acc)

/-- The meaning of a run (R53, R54, R56). -/
def modsOf (run : List Hint) : Mods :=
  let imms := immsOf run
  let base : Mods := ⟨if imms.isEmpty then none else some (wideOf imms), none, 0, 0, 0, 0, none, false, none⟩
  run.foldl (fun m h =>
    match h with
    | .mod p =>
      let n := p.toNat
      { m with
        msk := if n / 2 ^ 23 % 2 = 1 then some (Fin.ofNat 8 (n / 2 ^ 20)) else none
        ord := n / 2 ^ 17 % 8, scp := n / 2 ^ 14 % 8, rnd := n / 2 ^ 11 % 8, sat := n / 2 ^ 9 % 4
        av := if n / 2 ^ 8 % 2 = 1 then some (Fin.ofNat 128 (n / 2)) else none
        hasMod := true }
    | .join p => { m with join := some p.toInt }
    | _ => m) base

/-- The modifiers of the word that is issuing. -/
def curMods (s : State) : Mods := modsOf s.cur.fr.run

/-- The rounding mode of a code, given the owner's default (R79). -/
def rndOf (d : Rnd) : Nat → Rnd
  | 1 => .ne | 2 => .rz | 3 => .ru | 4 => .rd | 5 => .na | _ => d
/-- The scope of a code, given the default (R210). -/
def scopeOf (d : Scope) : Nat → Scope
  | 1 => .crew | 2 => .block | 3 => .cluster | 4 => .device | 5 => .system | _ => d
/-- Acquire and release of an `ORD` code (R53). -/
def ordAcq (o : Nat) : Bool := o == 1 || o == 3
def ordRel (o : Nat) : Bool := o == 2 || o == 3

/-- The lanes an instruction works on (R119). -/
def actOf (s : State) (m : Mods) : Mask :=
  match m.msk with
  | some k => liveXm s &&& getM s k
  | none => liveXm s

/-! ## Fragments -/

/-- A fresh name. -/
def fresh (s : State) : Nat × State := (s.nextId, { s with nextId := s.nextId + 1 })
/-- An open choice among `n`, counted by `tick` (log 6 DESIGN CHOICE safe). -/
def choose (s : State) (n : Nat) : Nat × State := (Config.choice s.tick % max n 1, { s with tick := s.tick + 1 })

/-- Every fragment of a crew, the issuing one first. -/
def Crew.all (c : Crew) : List Frag := c.fr :: c.frags
/-- Every fragment of a crew changed. -/
def Crew.mapFrags (c : Crew) (f : Frag → Frag) : Crew := { c with fr := f c.fr, frags := c.frags.map f }
/-- One fragment of a crew changed, by name. -/
def Crew.modFrag (c : Crew) (fid : Nat) (f : Frag → Frag) : Crew := c.mapFrags fun x => if x.fid == fid then f x else x
/-- A fragment of a crew by name. -/
def Crew.frag? (c : Crew) (fid : Nat) : Option Frag := c.all.find? fun x => x.fid == fid

/-- Resident crews of a core. -/
def crewsOn (s : State) (p : Nat) : List Crew :=
  (if s.cur.alive then s.cur :: s.crews else s.crews).filter fun c => c.pair == p
/-- Every resident crew. -/
def allCrews (s : State) : List Crew := if s.cur.alive then s.cur :: s.crews else s.crews

/-- Is queue register `k` bound as a result queue (R293)? -/
def isResultQ (q : QReg) : Bool := q.word.getLsbD 63 && q.word.toNat % 4 == 1
/-- Is it bound as a feed queue? -/
def isFeedQ (q : QReg) : Bool := q.word.getLsbD 63 && q.word.toNat % 4 == 2
/-- The window register of a binding. -/
def winOf (q : QReg) : Nat := q.word.toNat / 4 % 128
/-- Slots of a result queue (`QD` + 1). -/
def depthOf (q : QReg) : Nat := q.word.toNat / 2 ^ 28 % 64 + 1
/-- The scratchpad offset of a result queue. -/
def soffOf (q : QReg) : Nat := q.word.toNat / 2 ^ 10 % 2 ^ 18
/-- The window offset of a feed queue. -/
def tsoOf (q : QReg) : Nat := q.word.toNat / 2 ^ 10 % 2 ^ 21

/-- Split-table entries in use on a core. -/
def entriesUsed (s : State) (p : Nat) : List Nat := (crewsOn s p).flatMap fun c => c.all.filterMap fun f => f.entry

/-- The entry a crew of slot `sl` would take: its own reserved entries first, then a shared one (R333). -/
def freeEntry? (s : State) (p sl : Nat) : Option Nat :=
  let used := entriesUsed s p
  let own := (List.range 4).map fun i => 4 * sl + i
  match own.find? fun e => !used.contains e with
  | some e => some e
  | none => ((List.range 256).map fun i => 256 + i).find? fun e => !used.contains e

/-- Room for an entry of the crew at issue: when none is free, another of its fragments is spilled, one parked at a join
if there is one, else the one with the highest entry; of several parked at joins that with the highest entry too. It stays with the
crew (R19, R180, log 64 DESIGN CHOICE unsafe). `keep` asked for the entry. -/
def takeEntry (s : State) (keep : Nat) : Nat × State :=
  match freeEntry? s s.cur.pair s.cur.slot with
  | some e => (e, s)
  | none =>
    let cands := s.cur.all.filter fun f => f.entry.isSome && f.fid != keep
    let atJoin := cands.filter fun f => f.park == .join
    let pool := if atJoin.isEmpty then cands else atJoin
    let top := pool.foldl (fun (m : Nat) f => max m (f.entry.getD 0)) 0
    match pool.find? fun f => f.entry.getD 0 == top with
    | some v =>
      let (n, s) := fresh s
      let s := modCore s s.cur.pair fun c => { c with quarters := c.quarters.map fun q =>
        { q with promo := q.promo.filter fun x => x != (s.cur.cid, v.fid) } }
      (top, modCur s fun c => c.modFrag v.fid fun f => { f with entry := none, order := n, passed := 0 })
    | none => (0, s)

/-- The clock of age stamps: each stamp that is written is later than those before it, so that none tie (R27, R334, log 56 DEDUCED
unsafe). -/
def stampNow (s : State) : Nat × State := fresh s

/-- Barrier operations of a crew that have yet to be applied. -/
def barPending (s : State) (cid : Nat) : List BarOp :=
  (s.barOps ++ s.combiner.flatMap fun e => e.ops).filter fun o => o.cid == cid

/-- Fragments whose accesses can still matter to one that follows them (R209). -/
def pendingFids (c : Crew) (s : State) : List Nat :=
  (c.stores.map fun x => x.fid) ++ (c.futs.map fun x => x.fid) ++
    ((s.storeQ.filter fun x => x.cid == c.cid).map fun x => x.fid) ++ ((barPending s c.cid).map fun x => x.fid)

/-- The names that precede a fragment made from others. -/
def predsOf (s : State) (fs : List Frag) : List Nat :=
  let live := pendingFids s.cur s
  distinct ((fs.flatMap fun f => f.fid :: f.preds).filter fun i => live.contains i)

/-- The issuing fragment's completion of its word: the run and the word are folded, the run is spent, and `PC` moves
(R57, R173, R188, log 21 DEDUCED unsafe). -/
def foldRun (d : BitVec 32) (run : List Hint) (w : Nat) : BitVec 32 :=
  crcWord (run.foldl (fun d h => crcWord d h.word) d) w

/-- Completion with a new `PC`. -/
def completeAt (s : State) (pc : VAddr) : State :=
  modFr s fun f => { f with dmk := foldRun f.dmk f.run s.ir, run := [], pc := pc, park := .none }
/-- Completion at the next word. -/
def complete (s : State) : State := completeAt s (s.cur.fr.pc + 4)

/-- The address that traps report for the issuing instruction: its run's first hint (R57). -/
def tpcOf (f : Frag) : VAddr := f.pc - BitVec.ofNat 57 (4 * f.run.length)

/-- A parked fragment: its instruction has issued and has not completed. -/
def parkAs (s : State) (p : Park) : State := modFr s fun f => { f with park := p, word := s.ir }
/-- A parked instruction completes. -/
def completeParked (s : State) : State := complete { s with ir := s.cur.fr.word }

end Sys2Proof.Machine
end

