-- ==== Sys2Proof/Machine/Life.lean ====
section
/-! DEFINITION. How crews, blocks and launches leave: retirement, ends by a cause, aborts and replays, and the run state of
regions (R175, R187, R192, R194, R322 to R325, R359). -/

namespace Sys2Proof.Machine

open Sys2Proof

/-- The number of a cause (R192). -/
def Cause.code : Cause → Nat
  | .illegal => 0x01 | .badpc => 0x02 | .allot => 0x03 | .upartial => 0x04 | .affovf => 0x05 | .nonunif => 0x06
  | .trapi => 0x07 | .divovf => 0x08 | .double => 0x09 | .pgnp => 0x10 | .pgperm => 0x11 | .stperm => 0x12
  | .ifperm => 0x13 | .spbound => 0x14 | .misalign => 0x15 | .qovr => 0x20 | .qreg => 0x21 | .atomerr => 0x22
  | .copyf => 0x23 | .gangf => 0x24 | .matf => 0x25 | .lnchf => 0x26 | .nrqf => 0x27 | .poison => 0x30
  | .sigmiss => 0x31 | .wdog => 0x32 | .preempt => 0x33 | .uncorr => 0x34 | .savef => 0x35

/-! ## The crew at the issue stage -/

/-- Resident crew `k` moves to the issue stage, and the crew there joins the others. -/
def bringCrew (s : State) (k : Crew) : State :=
  let rest := s.crews.filter fun c => c.cid != k.cid
  { s with cur := k, crews := if s.cur.alive then s.cur :: rest else rest }

/-- The machine with the crew of slot `sl` of pair `p` at the issue stage, if it is resident. -/
def focus (s : State) (p sl : Nat) : Option State :=
  if s.cur.alive && s.cur.pair == p && s.cur.slot == sl then some s
  else match s.crews.find? fun c => c.pair == p && c.slot == sl with
    | some k => some (bringCrew s k)
    | none => none

/-- The machine with crew `cid` at the issue stage. -/
def focusCid (s : State) (cid : Nat) : Option State :=
  if s.cur.alive && s.cur.cid == cid then some s
  else (s.crews.find? fun c => c.cid == cid).map (bringCrew s)

/-- The crew at issue with fragment `fid` as the issuing one. -/
def focusFrag (s : State) (fid : Nat) : Option State :=
  if s.cur.fr.fid == fid then some s
  else match s.cur.frags.find? fun f => f.fid == fid with
    | some f => some (modCur s fun c => { c with fr := f, frags := c.fr :: c.frags.filter fun x => x.fid != fid })
    | none => none

/-- A resident crew changed, by name. -/
def modCrew (s : State) (cid : Nat) (f : Crew → Crew) : State :=
  if s.cur.alive && s.cur.cid == cid then { s with cur := f s.cur }
  else { s with crews := s.crews.map fun c => if c.cid == cid then f c else c }

/-- A resident crew by name. -/
def crew? (s : State) (cid : Nat) : Option Crew := (allCrews s).find? fun c => c.cid == cid

/-! ## Engine commands of a crew (R161) -/

/-- The crews a command belongs to. -/
def EngCmd.cids : EngCmd → List Nat
  | .arith _ _ mem _ _ => mem.map Prod.fst
  | .mzero c _ _ => [c]
  | .mldw c _ _ => [c]
  | .mdrnTs c _ _ _ _ _ _ => [c]
  | .mdrnQ c _ _ _ _ _ _ _ => [c]
  | .mdrnPeer c _ _ _ _ _ _ _ => [c]
  | .mrow c _ _ _ _ => [c]
  | .mcfg c _ => [c]
  | .gang c => [c]
  | .feed c _ _ _ => [c]
  | .nrq c _ => [c]

/-- Is it one of the commands that `wcnt` and `end` count (R161, R185)? R161 counts the commands of its chapter, `gang` too: a write of
`MCFG` and a feed push are none of them, and a joint command counts from when it enters the queue, its fragment being parked until
then (log 73 DESIGN CHOICE unsafe). -/
def EngCmd.counted : EngCmd → Bool
  | .mcfg _ _ => false
  | .feed .. => false
  | _ => true

/-- Outstanding matrix, drain and nrq commands of a crew. -/
def engCount (s : State) (p cid : Nat) : Nat :=
  let c := coreAt s p
  (c.opq.filter fun k => k.counted && k.cids.contains cid).length + (c.infq.filter fun r => r.cid == cid).length

/-- Does the engine still hold any command of the crew, feed pushes included? -/
def engHolds (s : State) (p cid : Nat) : Bool :=
  let c := coreAt s p
  (c.opq.any fun k => k.cids.contains cid) || (c.infq.any fun r => r.cid == cid) || c.feeds.any fun f => f.cid == cid

/-- The commands of a crew that an abort or a replay ends are discarded, but writes of `mcfg`, which complete (R151, R187, R359,
log 17 DEDUCED unsafe). -/
def dropCmds (s : State) (p cid : Nat) : State :=
  modCore s p fun c => { c with
    opq := c.opq.filter fun k => !k.cids.contains cid || match k with | .mcfg .. => true | _ => false, infq := c.infq.filter fun r => r.cid != cid,
    nrqs := c.nrqs.filter fun r => r.cid != cid, feeds := c.feeds.filter fun f => f.cid != cid }

/-! ## Regions' run state -/

/-- The region of a launch. -/
def regionOf (s : State) (lid : Nat) : Option Region :=
  match launchAt? s lid with
  | some l => regionAt? s l.lr.regn
  | none => none

/-- Is a region held (R324)? -/
def heldRegion (s : State) (r : Region) : Bool :=
  s.rg.heldM.contains r.instM ||
    s.rg.heldF.any fun i => i == r.instF || (s.rg.eff.any fun x => x.instF == i && x.fdom == r.fdom)

/-- The reasons that pre-empt a region, lowest first; 4 is a hold (R323, R324). -/
def preReasons (s : State) (r : Region) : List Nat :=
  (if s.rg.pre.contains (r.num, 1) then [1] else []) ++ (if s.rg.pre.contains (r.num, 2) then [2] else []) ++
    (if s.rg.spent.contains r.instS then [3] else []) ++ (if heldRegion s r then [4] else [])

/-- Is a region pre-empted or held? -/
def stopped (s : State) (r : Region) : Bool := !(preReasons s r).isEmpty

/-- Is a crew of a stopped region owed a PREEMPT? -/
def crewStopped (s : State) (region : Nat) : Bool :=
  match regionAt? s region with
  | some r => stopped s r
  | none => false

/-- After reasons or holds change: crews whose region is stopped fall due now, once; a crew in a handler has `PPRE` set
(R33, R35, R197); crews no longer stopped are owed nothing (log 23 DEDUCED unsafe). -/
def settlePreempt (s : State) : State :=
  let upd (c : Crew) : Crew :=
    if crewStopped s c.region then
      { c with preDue := some (c.preDue.getD 0),
               cst := if c.cst.lvl != .none && c.cst.lvl != .preempt then { c.cst with ppre := true } else c.cst }
    else if c.cst.lvl == .preempt || c.cst.ppre then c
    else { c with preDue := none, entering := if c.entering.any fun b => b.trap.cause == .preempt then none else c.entering }
  { s with cur := if s.cur.alive then upd s.cur else s.cur, crews := s.crews.map upd }

/-- Saved crews that wait only for their region, a swapped-out one after its condition, come onto the swap-in list, in ascending
save slot (R323). -/
def releaseSaved (s : State) : State :=
  { s with saved := s.saved.map fun k =>
      let waits := k.reason == 3 && !k.met
      if k.ready.isNone && !waits && !crewStopped s k.region then { k with ready := some s.now } else k }

/-- The effects of a change of reasons or holds. -/
def settleRegions (s : State) : State := releaseSaved (settlePreempt s)

/-- Region `r`'s M-group instance is held (R201, R324). -/
def holdRegion (s : State) (region : Nat) : State :=
  match regionAt? s region with
  | some r => settleRegions { s with rg := { s.rg with heldM := distinct (r.instM :: s.rg.heldM) } }
  | none => s

/-- Issue cycles debited from an instance's budget; at zero or less its regions are pre-empted with reason 3 (R322). -/
def debitBudget (s : State) (inst n : Nat) : State :=
  match s.rg.eff.find? fun r => r.num == inst with
  | some r =>
    if r.budg = 0 then s
    else
      let left := (kget s.rg.budget inst).getD 0 - (n : Int)
      let s := { s with rg := { s.rg with budget := kset s.rg.budget inst left } }
      if left ≤ 0 then settleRegions { s with rg := { s.rg with spent := distinct (inst :: s.rg.spent) } } else s
  | none => s

/-- The fault domain of a region, for the driver's reports (R325). -/
def fdomOf (s : State) (region : Nat) : Nat := match regionAt? s region with | some r => r.fdom | none => 0

/-- Progress of an F-group instance: its watchdog count returns to zero (R381). -/
def progressRegion (s : State) (region : Nat) : State :=
  match regionAt? s region with
  | some r => { s with rg := { s.rg with wdc := kset s.rg.wdc r.instF 0 } }
  | none => s

/-! ## Leaving a core -/

/-- With no crew of a region's S-group instance on core `p` but `cid`, which leaves it, the instance is debited with the remainder of
its counted issue cycles (R322). -/
def debitRestBut (s : State) (p region cid : Nat) : State :=
  match regionAt? s region with
  | some r =>
    let last := !((allCrews s).any fun c => c.pair == p && c.cid != cid &&
      (match regionAt? s c.region with | some q => q.instS == r.instS | none => false))
    if last then
      let n := kgetD (coreAt s p).debit r.instS 0
      let s := modCore s p fun c => { c with debit := kdel c.debit r.instS }
      debitBudget s r.instS n
    else s
  | none => s

/-- The same when its last crew has left while cycles of an instruction were still to come. -/
def debitRest (s : State) (p region : Nat) : State := debitRestBut s p region 0

/-- What a crew gives back when it leaves its core: units, tiles, wait-list and promotion-list places, and the remainder
of its instance's uncounted issue cycles when it was the last there (R112, R117, R322, R335). -/
def leaveCore (s : State) (k : Crew) (keepTiles : Bool) : State :=
  let s := modCore s k.pair fun c => { c with
    vfree := c.vfree + k.vn / 8, tfree := if keepTiles then c.tfree else c.tfree + k.tn,
    sfq := c.sfq.filter fun r => r.cid != k.cid,
    growV := c.growV.filter fun g => g.1 != k.cid, growT := c.growT.filter fun g => g.1 != k.cid,
    quarters := c.quarters.map fun q => { q with
      promo := q.promo.filter (fun x => x.1 != k.cid),
      turn := match q.turn with | some t => if t.1 == k.cid && q.busy = 0 then none else some t | none => none } }
  debitRestBut s k.pair k.region k.cid

/-- The fragment behind an arrival at block `b`'s latch is to take GANGF at its joint command (R166). -/
def latchFail (s : State) (b : Nat) (a : Arrival) : State :=
  let fail (c : Crew) : Crew :=
    if c.block == b && c.idx == a.idx then
      c.modFrag a.fid fun f => if f.park == .latch then { f with park := .failed .gangf 0 0 0 } else f
    else c
  { s with cur := fail s.cur, crews := s.crews.map fail }

/-- A crew of block `b` has retired: members that wait on the latch with it in their gang take GANGF at their joint
command (R166). -/
def latchRetire (s : State) (b idx : Nat) : State :=
  match blockAt? s b with
  | none => s
  | some x =>
    let hit := x.latch.filter fun a =>
      let g := a.gang.toNat % 8
      (List.range g).any fun i => a.gang.toNat / 2 ^ (3 + 5 * i) % 32 == idx
    let s := modBlock s b fun x => { x with latch := x.latch.filter fun a => !hit.contains a }
    hit.foldl (fun s a => latchFail s b a) s

/-- The crew at issue retires (R187). -/
def retireCur (s : State) : State :=
  let k := s.cur
  let keep := engHolds s k.pair k.cid
  let s := leaveCore s k keep
  let s := progressRegion s k.region
  let k' := { k with lm := 0, futs := [], stores := [] }
  let s := { s with cur := Crew.none, ghosts := if keep then s.ghosts ++ [k'] else s.ghosts }
  let s := modBlock s k.block fun x => { x with
    retired := x.retired ++ [k.idx], latch := x.latch.filter fun a => a.idx != k.idx }
  latchRetire s k.block k.idx

/-! ## Aborts and replays -/

/-- A crew of an aborted or replayed launch is ended and reported; it leaves its core before the next one does (R322, R325). -/
def stripCrew (s : State) (k : Crew) : State :=
  let s := { s with cur := if s.cur.cid == k.cid then Crew.none else s.cur, crews := s.crews.filter fun c => c.cid != k.cid }
  report (dropCmds (leaveCore s k false) k.pair k.cid) "CREWEND" [k.cid, k.launch, k.region, fdomOf s k.region]

/-- A launch's crews, blocks, accesses and copies are taken from the device (R325, R359). -/
def stripLaunch (s : State) (lid : Nat) : State :=
  let mine := (allCrews s).filter fun c => c.launch == lid
  let s := mine.foldl stripCrew s
  let gone := s.saved.filter fun k => k.launch == lid
  let s := gone.foldl (fun s k => report s "CREWEND" [k.cid, k.launch, k.region, fdomOf s k.region]) s
  let s := { s with
    cur := if s.cur.launch == lid then Crew.none else s.cur,
    crews := s.crews.filter fun c => c.launch != lid,
    saved := s.saved.filter fun k => k.launch != lid,
    storeQ := s.storeQ.filter fun x => x.launch != lid,
    atoms := s.atoms.filter fun x => x.launch != lid,
    copies := s.copies.filter fun x => x.launch != lid,
    pacqs := s.pacqs.filter fun x => !(mine.any fun c => c.cid == x.cid),
    barOps := s.barOps.filter fun x => !(mine.any fun c => c.cid == x.cid),
    combiner := s.combiner.map fun (e : Combine) => { e with ops := e.ops.filter fun x => !(mine.any fun c => c.cid == x.cid) },
    withdrawals := s.withdrawals.filter fun x => !(mine.any fun c => c.cid == x.1),
    renders := s.renders.filter fun r => r.lid != lid }
  let dead := s.ghosts.filter fun g => g.launch == lid
  let s := dead.foldl (fun s g =>
    modCore (dropCmds s g.pair g.cid) g.pair fun c => { c with tfree := c.tfree + g.tn }) s
  { s with
    ghosts := s.ghosts.filter fun g => g.launch != lid,
    rg := { s.rg with
      crewSlots := s.rg.crewSlots.filter fun (x : Nat × Nat) => !(gone.any fun k => k.group == x.1 && k.slot == x.2),
      blockSlots := s.rg.blockSlots.filter fun (x : Nat × Nat) =>
        !(s.blocks.any fun b => b.launch == lid && b.saveSlot == some x.2 &&
          (match regionOf s lid with | some r => r.instM == x.1 | none => false)) },
    blocks := s.blocks.filter fun b => b.launch != lid }

/-- A group's uncommitted shadows are discarded: cached copies go, frames return to their pool (R359). -/
def discardShadows (s : State) (g : Nat) : State :=
  let mine := s.xl.shadows.filter fun e => e.group == g && !e.committed
  mine.foldl (fun s e =>
    let s := { s with cores := s.cores.map fun (x : Nat × Core) =>
      (x.1, { x.2 with l1 := x.2.l1.filter fun l => l.pln * 128 / granule * granule != e.granule }) }
    let s := { s with xl := { s.xl with shadows := s.xl.shadows.filter fun x => x.granule != e.granule } }
    pushFrame s e.inst e.frame) s

/-- A launch is aborted: no further block, its crews end; the completion that advances its counter follows (R287, R325). -/
def endLaunch (s : State) (lid : Nat) : State :=
  match launchAt? s lid with
  | none => s
  | some l =>
    let s := modLaunch (stripLaunch s lid) lid fun x => { x with failed := true }
    report s "ABORT" [lid, l.lr.regn, fdomOf s l.lr.regn]

/-- The groups that depend on `g`, directly or not, with `g`. -/
def dependants (s : State) (g : Nat) : List Nat :=
  (s.xl.groups.map fun x => x.gid).filter fun k => k == g || reaches s k g

/-- A revocable launch goes back to where it waits to start, its saved parameters to be restored then; an irrevocable one is aborted
(R358, R359). -/
def restartLaunch (s : State) (lid : Nat) : State :=
  match launchAt? s lid with
  | none => s
  | some l =>
    if l.irrev then endLaunch s lid
    else
      let s := modLaunch (stripLaunch s lid) lid fun x => { x with
        st := .pool, placed := 0, retiredBlocks := 0, again := true, entered := s.now, group := x.lid }
      report s "REPLAY" [lid, l.lr.regn, fdomOf s l.lr.regn]

/-- A launch whose error it is restarts, but at its fourth error is aborted (R359, log 77 DEDUCED unsafe). -/
def erredLaunch (s : State) (lid : Nat) : State :=
  match launchAt? s lid with
  | none => s
  | some l =>
    if 3 ≤ l.replays then endLaunch s lid
    else restartLaunch (modLaunch s lid fun x => { x with replays := x.replays + 1 }) lid

/-- A group is discarded with every group that depends on it: the shadows of the revocable ones go, and `f` is done to each of
their launches that runs (R358, R359). -/
def discardGroups (s : State) (g : Nat) (f : State → Nat → State) : State :=
  let gs := dependants s g
  let ms := (s.launches.filter fun x => gs.contains x.group && x.st == .running && !x.failed).map fun x => x.lid
  let s := gs.foldl (fun s g => match groupAt? s g with
    | some x => if x.irrev then s else discardShadows s g
    | none => s) s
  let s := { s with xl := { s.xl with groups := s.xl.groups.filter fun g => !(gs.contains g.gid) || g.irrev } }
  ms.foldl f s

/-- Launch replay for a cause: the launch in error and those discarded with it start again (R192, R359). -/
def replayLaunch (s : State) (lid : Nat) (c : Cause) : State :=
  match launchAt? s lid with
  | none => s
  | some l =>
    discardGroups (report s "FAULT" [c.code, lid, l.lr.regn]) l.group fun s m =>
      if m == lid then erredLaunch s m else restartLaunch s m

/-- An abort under `UEND` 01 (R325). The group of a revocable launch is discarded with it, so the other launches that this
takes along start again; what an irrevocable one wrote stays (R357 to R359, log 58 DEDUCED unsafe). -/
def abortLaunch (s : State) (lid : Nat) : State :=
  match launchAt? s lid with
  | none => s
  | some l =>
    if l.irrev || l.st != .running then endLaunch s lid
    else discardGroups s l.group fun s m => if m == lid then endLaunch s m else restartLaunch s m

/-- The crew at issue is ended for a cause; its region's `UEND` decides the rest (R194, R197, R325). -/
def endCrew (s : State) (args : List Nat) : State :=
  let k := s.cur
  let s := report s "CREWEND" (args ++ [k.cid, k.launch, k.region, fdomOf s k.region])
  match regionAt? s k.region with
  | some r =>
    (match r.uend with
     | 0 => retireCur s
     | 1 => abortLaunch s k.launch
     | _ =>
       let s := abortLaunch s k.launch
       settleRegions { s with rg := { s.rg with heldF := distinct (r.instF :: s.rg.heldF) } })
  | none => retireCur s

/-- SAVEF: the crew at issue is ended and its region held (R192, R201). -/
def saveFail (s : State) : State :=
  let k := s.cur
  let s := report s "SAVEF" [k.cid, k.launch, k.region, fdomOf s k.region]
  holdRegion (retireCur s) k.region

/-! ## Lane death (R175) -/

/-- Fragments with no lane left are removed and their entries freed (R174); the issuing one gives way to another. -/
def pruneFrags (s : State) : State :=
  let keep := s.cur.all.filter fun f => f.fl != 0
  match keep with
  | [] => s
  | f :: fs =>
    if s.cur.fr.fl != 0 then modCur s fun c => { c with frags := c.frags.filter fun f => f.fl != 0 }
    else modCur s fun c => { c with fr := f, frags := fs }

/-- Lanes die: they leave `lm` and every fragment; under `LDR` the launch is replayed instead (R175, R325). -/
def killLanes (s : State) (dead : Mask) : State :=
  let ldr := match regionAt? s s.cur.region with | some r => r.ldr | none => false
  if ldr then replayLaunch s s.cur.launch .poison
  else
    let n := (lanesOf dead).length
    let s := modCore s s.cur.pair fun c => countEvt c 0x08 n
    let s := modCur s fun c => { c.mapFrags (fun f => { f with fl := f.fl &&& ~~~dead, xm := f.xm &&& ~~~dead }) with
      lm := c.lm &&& ~~~dead, cst := { c.cst with dln := true } }
    if s.cur.lm == 0 then retireCur s
    else modCur s fun c => { c with frags := c.frags.filter fun f => f.fl != 0 }

/-- The lanes of `act` whose listed sources hold poison die, and `k` runs on the rest (R120, R230). When the crew has
gone, nothing runs. -/
def consuming (s : State) (act : Mask) (srcs : List Nat) (k : Mask → State → State) : State :=
  let dead := srcs.foldl (fun m r => m ||| s.cur.poisonOf r) 0 &&& act
  if dead == 0 then k act s
  else
    let s' := killLanes s dead
    if s'.cur.cid == s.cur.cid && s'.cur.alive && s'.cur.fr.fl != 0 then k (act &&& ~~~dead) s'
    else if s'.cur.cid == s.cur.cid && s'.cur.alive then pruneFrags s'
    else s'

end Sys2Proof.Machine
end

