-- ==== Sys2Proof/Machine/Stores.lean ====
section
/-! DEFINITION. A crew's accesses in flight, the order they keep among themselves (R209, R213), the translation of stores
(R234, R235, R311) and their performance. -/

namespace Sys2Proof.Machine

open Sys2Proof

/-! ## Accesses in flight -/

/-- Do two ranges of bytes meet? -/
def overlaps (a : PA) (n : Nat) (b : PA) (m : Nat) : Bool :=
  a.sp == b.sp && decide (a.a < b.a + m) && decide (b.a < a.a + n)

/-- An access in flight: name, fragment, bytes, and whether it is an acquire. -/
structure Pend where
  id : Nat
  fid : Nat
  bytes : List (PA × Nat)
  acq : Bool
  deriving DecidableEq, Repr, Inhabited

/-- The bytes of lane accesses of one size. -/
def bytesOf (ls : List LaneAcc) (n : Nat) : List (PA × Nat) := ls.map fun l => (l.pa, n)

/-- The access behind a future, when there is one. -/
def Fut.pend? (f : Fut) : Option Pend :=
  match f.kind with
  | .load n _ ls _ acq => some ⟨f.id, f.fid, bytesOf ls n, acq⟩
  | .pacq n _ ls => some ⟨f.id, f.fid, bytesOf ls n, true⟩
  | .atom w ls _ acq _ => some ⟨f.id, f.fid, bytesOf ls (if w then 8 else 4), acq⟩
  | .bara => some ⟨f.id, f.fid, [], false⟩
  | .render _ job => match job with
    | .samp _ _ ls _ => some ⟨f.id, f.fid, bytesOf ls 16, false⟩
    | .alpha _ _ _ ls _ => some ⟨f.id, f.fid, bytesOf ls 16, false⟩
    | .rbox _ ls => some ⟨f.id, f.fid, bytesOf ls 128, false⟩
    | .rtri _ ls => some ⟨f.id, f.fid, bytesOf ls 64, false⟩
    | .grdv .. => some ⟨f.id, f.fid, [], false⟩
    | _ => none
  | .nrq .. => none

/-- The translated accesses of a crew in flight. -/
def pends (s : State) (c : Crew) : List Pend :=
  ((s.storeQ.filter fun x => x.cid == c.cid).map fun x => ⟨x.id, x.fid, bytesOf x.lanes x.size, false⟩) ++
    ((barPending s c.cid).map fun o => ⟨o.id, o.fid, [(o.at_, 16)], false⟩) ++ c.futs.filterMap Fut.pend?

/-- Does fragment `f` follow the accesses of fragment `fid` in program order (R209)? -/
def Frag.follows (f : Frag) (fid : Nat) : Bool := f.fid == fid || f.preds.contains fid

/-- What a new access waits for: accesses to the same bytes, acquires before it, and, for a release, every access before
it, untranslated stores included (R213, R214). -/
def depsFor (s : State) (c : Crew) (po : List Nat) (bytes : List (PA × Nat)) (rel : Bool) : List Nat :=
  distinct (((pends s c).filter fun p => po.contains p.fid &&
    (rel || p.acq || p.bytes.any fun x => bytes.any fun y => overlaps x.1 x.2 y.1 y.2)).map (fun p => p.id) ++
    (if rel then (c.stores.filter fun x => po.contains x.fid).map fun x => x.id else []))

/-- Is an access of crew `cid` with this name still in flight? -/
def inFlight (s : State) (cid id : Nat) : Bool :=
  s.storeQ.any (fun x => x.cid == cid && x.id == id) || (barPending s cid).any (fun o => o.id == id) ||
    match crew? s cid with
    | some c => (c.futs.any fun f => f.id == id) || c.stores.any fun x => x.id == id
    | none => false

/-- Has everything an access waits for gone? -/
def depsDone (s : State) (cid : Nat) (deps : List Nat) : Bool := !(deps.any fun d => inFlight s cid d)

/-- Names of the fragments that precede `f`, with its own. -/
def Frag.po (f : Frag) : List Nat := f.fid :: f.preds

/-! ## Translation of stores -/

/-- An element of a store: lane, address, data. A lane of 128 bits is two elements of 8 bytes (R207). -/
def StoreReq.elements (x : StoreReq) : List (Nat × Nat × Nat) :=
  if x.size = 16 then
    x.lanes.flatMap fun l => [(l.1, l.2.1, l.2.2 % 2 ^ 64), (l.1, l.2.1 + 8, l.2.2 / 2 ^ 64)]
  else x.lanes

/-- The size of those elements. -/
def StoreReq.elSize (x : StoreReq) : Nat := min x.size 8

/-- Of several lanes that write one element exactly one stays, freely chosen (R208, log 6 DESIGN CHOICE safe). -/
def pickWinners (s : State) (ls : List LaneAcc) : List LaneAcc × State :=
  let first := ls.foldl (fun (acc : List LaneAcc) l => if acc.any fun x => x.pa == l.pa then acc else acc ++ [l]) []
  first.foldl (fun acc l =>
    let group := ls.filter fun x => x.pa == l.pa
    if group.length ≤ 1 then (acc.1 ++ [l], acc.2)
    else
      let r := choose acc.2 group.length
      (acc.1 ++ [group.getD r.1 l], r.2)) ([], s)

/-- The lanes of an access, translated in turn by the core. -/
def xlateLanes (s : State) (p : Nat) (acc : Acc) : List (Nat × Nat × Nat) → List (Nat × Nat × Nat × Xl) × State
  | [] => ([], s)
  | (l, va, d) :: r =>
    let x := xlate s p acc va
    let t := xlateLanes x.2 p acc r
    ((l, va, d, x.1) :: t.1, t.2)

/-- A store whose translation is done enters the queue of stores to perform, an element at a time unless it is a
release. It waits for accesses that issued before it: their names are smaller (R213, R214, R234). -/
def enqueueStore (s : State) (x : StoreReq) (ls : List LaneAcc) : State :=
  let w := pickWinners s ls
  let s := w.2
  let k := s.cur
  let n := x.elSize
  let deps := (depsFor s k x.po (bytesOf w.1 n) x.rel).filter fun d => decide (d < x.id)
  let mk (l : List LaneAcc) : StoreT := ⟨x.id, k.cid, x.fid, k.launch, k.pair, k.block, deps, n, l, x.scope, x.rel, none⟩
  { s with storeQ := s.storeQ ++ (if x.rel then [mk w.1] else w.1.map fun l => mk [l]) }

/-- Is a recorded fault a store's? -/
def Imprec.isStore (i : Imprec) : Bool := i.cause == .stperm || (i.cause == .pgnp && i.info / 4 % 2 == 1)

/-- The oldest untranslated store of the crew at issue translates. None when there is none, when a page is migrating, or
when the record queue lacks room (R234, R311, R345). -/
def translateHead (s : State) : Option State :=
  match s.cur.stores with
  | [] => none
  | x :: rest =>
    let p := s.cur.pair
    let t := xlateLanes s p .write x.elements
    let rs := t.1
    let s := t.2
    if stalled s x.id then none
    else if rs.any fun r => r.2.2.2 == .migrating then some (stall s x.id)
    else
      let absent := rs.filter fun r => match r.2.2.2 with | .absent .. => true | _ => false
      let denied := rs.filter fun r => r.2.2.2 == .denied
      let bad := if absent.isEmpty then denied else absent
      match bad with
      | [] =>
        let ls := rs.filterMap fun r => match r.2.2.2 with
          | .ok pa perm => some (⟨r.1, r.2.1, pa, perm, r.2.2.1⟩ : LaneAcc)
          | _ => none
        some (enqueueStore (modCur s fun c => { c with stores := rest }) x ls)
      | b :: _ =>
        let n := 1 + rest.length
        if 16 < (coreAt s p).sfq.length + n then none
        else
          let lanes := maskOf (bad.map fun r => r.1)
          let pg := !absent.isEmpty
          let cause := if pg then Cause.pgnp else Cause.stperm
          let first := b.2.2.2 == .absent true false
          let info := 256 * n + (if pg then 4 + (if first then 1 else 0) else 0)
          let f : Imprec := ⟨cause, b.2.1, lanes, info, first, false, [], x.hnd⟩
          let recs := (⟨s.cur.cid, x, cause, true, lanes⟩ : SfRec) ::
            rest.map fun y => (⟨s.cur.cid, y, cause, false, 0⟩ : SfRec)
          let s := modCore s p fun c => countEvt { c with sfq := c.sfq ++ recs } 0x07 n
          some (modCur s fun c => { c with stores := [], imprec := c.imprec ++ [f] })

/-- Up to `n` stores translate. -/
def translateSome : Nat → State → State
  | 0, s => s
  | n + 1, s => match translateHead s with
    | some t => translateSome n t
    | none => s

/-- Every store of the crew at issue translates, as far as it can. -/
def translateAll (s : State) : State := translateSome s.cur.stores.length s

/-! ## Store-fault records (R311) -/

/-- The bytes of a record. -/
def SfRec.bytes (r : SfRec) : List Byte :=
  let x := r.store
  let lane (i : Nat) : Nat × Nat := match x.lanes.find? fun l => l.1 == i with
    | some l => (l.2.1, l.2.2)
    | none => (0, 0)
  let sz := match x.size with | 1 => 0 | 2 => 1 | 4 => 2 | 8 => 3 | _ => 4
  leBytes 8 x.pc ++ leBytes 4 x.act.toNat ++
    leBytes 4 (sz + 8 * r.faulting.toNat + 256 * r.cause.code + 2 ^ 16 * x.ord + 2 ^ 19 * x.scp) ++
    leBytes 4 r.lanes.toNat ++ leBytes 12 0 ++
    ((List.range 32).flatMap fun i => leBytes 8 (lane i).1) ++
    ((List.range 32).flatMap fun i => leBytes 16 (lane i).2) ++ leBytes 224 0

/-- Bytes written by the core through translation, relaxed at device scope and never into a shadow of their own (R354); none
when a page is absent, migrating or lacks `W`, or a line is uncorrectable (R201, R311). -/
def writeVirtual (s : State) (p : Nat) : Nat → List Byte → Option State
  | _, [] => some s
  | va, b :: bs =>
    let x := xlate s p .write va (va % 128 != 0)
    match x.1 with
    | .ok pa _ =>
      if badAt s pa then none
      else writeVirtual (match pa.sp with | .loc => writeThrough x.2 p pa.a b | _ => paWrite x.2 pa b) p (va + 1) bs
    | _ => none

/-- Bytes read by the core through translation. -/
def readVirtual (s : State) (p : Nat) : Nat → Nat → Option (List Byte × State)
  | _, 0 => some ([], s)
  | va, n + 1 =>
    let x := xlate s p .read va (va % 128 != 0)
    match x.1 with
    | .ok pa _ =>
      let b := match pa.sp with | .loc => readAt x.2 p .device pa.a | _ => paRead x.2 pa
      match readVirtual x.2 p (va + 1) n with
      | some r => some (b :: r.1, r.2)
      | none => none
    | _ => none

/-- The first of `n` bytes from `va` whose line is uncorrectable (R201, R311, R390). -/
def badPlace? (s : State) (va n : Nat) : Option PA :=
  ((List.range ((va % 128 + n + 127) / 128)).filterMap fun i => vaPA? s (va / 128 * 128 + 128 * i)).find? (badAt s)

/-- The crew's record area (R311). -/
def sfArea (s : State) : Nat :=
  match regionAt? s s.cur.region with
  | some r => r.sfb + 16384 * (64 * s.cur.pair + s.cur.slot)
  | none => 0

/-- Bytes of the records that the crew at issue has in its core's queue. -/
def recordsLen (s : State) : Nat := 1024 * ((coreAt s s.cur.pair).sfq.filter fun r => r.cid == s.cur.cid).length

/-- At delivery the crew's records go to memory and leave the queue; `sfra` names them. None raises SAVEF (R311). -/
def writeRecords (s : State) : Option State :=
  let mine := (coreAt s s.cur.pair).sfq.filter fun r => r.cid == s.cur.cid
  let at_ := sfArea s
  let s := modCore s s.cur.pair fun c => { c with sfq := c.sfq.filter fun r => r.cid != s.cur.cid }
  match writeVirtual s s.cur.pair at_ (mine.flatMap SfRec.bytes) with
  | some t => some (modCur t fun c => { c with sfra := BitVec.ofNat 64 at_ })
  | none => none

/-! ## Performance (R234) -/

/-- Is byte `off` of block `b`'s scratchpad in the queue-table row of a crew with a binding, or in the header of one of its
result queues, where stores are ignored (R298)? -/
def queueByte (s : State) (b off : Nat) : Bool :=
  let row (c : Crew) : Bool := match (blockAt? s b).bind fun x => x.qtab with
    | some t => decide (t + 64 * c.idx ≤ off) && decide (off < t + 64 * c.idx + 64)
    | none => false
  (allCrews s).any fun c => c.block == b && c.qregs.toList.any fun q =>
    q.word.getLsbD 63 && (row c || (isResultQ q && decide (soffOf q ≤ off) && decide (off < soffOf q + 256)))

/-- One lane's bytes of a store. -/
def storeLane (s : State) (x : StoreT) (l : LaneAcc) : State :=
  match l.pa.sp with
  | .spad b => ((leBytes x.size l.data).zipIdx).foldl (fun s y =>
      if queueByte s b (l.pa.a + y.2) then s else paWrite s (l.pa.off y.2) y.1) s
  | _ => laneWrite s x.pair x.launch x.scope l x.size l.data

/-- The lanes that a read finds uncorrectable: those for which it comes back so, and those whose line is known to be (R232, R390). -/
def badLanes (s : State) (p : Nat) (sc : Scope) (n : Nat) (ls : List LaneAcc) (bad : Mask) : Mask :=
  bad ||| maskOf ((ls.filter (laneBad s p sc n)).map fun l => l.lane)

/-- A store performed: its bytes, where its scope says, under the stamp of its release, and progress (R210, R223, R234, R381). -/
def performStore (s : State) (x : StoreT) : State :=
  let s := capStamp (x.lanes.foldl (fun s l => storeLane s x l) s) x.pair x.logged x.lanes
  match launchAt? s x.launch with
  | some l => progressRegion s l.lr.regn
  | none => s

/-- A release store makes its release and its entries in the promotion log; its elements are then written one by one (R207,
R208, R214, R223). -/
def releaseStore (s : State) (x : StoreT) (i : Nat) : State :=
  let s := logRelease (releaseAt s x.pair x.scope) x.pair x.scope x.lanes
  let one (l : LaneAcc) : StoreT := { x with deps := [], lanes := [l], logged := some (coreAt s x.pair).stamp }
  { s with storeQ := s.storeQ.take i ++ x.lanes.map one ++ s.storeQ.drop (i + 1) }

/-- Entry `i` of the queue goes on when nothing it waits for is left: a release releases, an element is performed. -/
def performAt (s : State) (i : Nat) : State :=
  match s.storeQ[i]? with
  | some x =>
    if !depsDone s x.cid x.deps || x.lanes.any (laneHeld s x.pair x.scope x.size) || stalled s x.id then s
    else if x.lanes.any fun l => claimMoves s x.launch l.pa then stall s x.id
    else if x.rel && x.logged.isNone then
      (if logWaits s x.pair x.scope x.lanes || releaseHeld s x.pair x.scope then s else releaseStore s x i)
    else performStore { s with storeQ := dropAt s.storeQ i } x
  | none => s

end Sys2Proof.Machine
end

