-- ==== Sys2Proof/Machine/Operands.lean ====
section
/-! DEFINITION. Operands: what an instruction names (R38, R42, R295, R296), which hints it accepts (R55), the second source of
a V-format word (R39, R41), memory addresses (R227), and immediates. -/

namespace Sys2Proof.Machine

open Sys2Proof

/-! ## Registers an instruction names -/

/-- Registers named by an instruction: varying written, varying read, those whose naming pops a result queue (R295), the
destination that feeds a feed queue (R296), uniform read and written, tiles. -/
structure Uses where
  w : List Nat := []
  r : List Nat := []
  pop : List Nat := []
  push : List Nat := []
  cr : List Nat := []
  cw : List Nat := []
  t : List Nat := []
  deriving DecidableEq, Repr, Inhabited

def srcV : Src → List Nat
  | .v r => [r.val]
  | _ => []
def srcC : Src → List Nat
  | .c r => [r.val]
  | _ => []
def mopV (m : MOp) : List Nat := match m.idx with | .v r => [r.val] | .a _ => []

/-- The group of `n` registers from `r`. -/
def groupOf (r n : Nat) : List Nat := (List.range n).map fun i => r + i
/-- The registers of an access of one size. -/
def dataRegs (r : Nat) : Size → List Nat
  | .b128 => [r, r + 1]
  | _ => [r]
/-- The registers of a Welford triple (R138). -/
def welfRegs (r : Nat) (t : Bit1) : List Nat := groupOf r (if t.val = 0 then 3 else 2)

/-- A V-format word that does not read its destination. -/
def usesV (d : VReg) (a : VReg) (b : Src) : Uses :=
  { w := [d.val], r := a.val :: srcV b, pop := a.val :: srcV b, push := [d.val], cr := srcC b }
/-- A V-format word that reads its destination, which does not pop (R295). -/
def usesVD (d : VReg) (a : VReg) (b : Src) : Uses := { usesV d a b with r := d.val :: a.val :: srcV b }
/-- One source, one destination. -/
def uses1 (d a : VReg) : Uses := { w := [d.val], r := [a.val], pop := [a.val], push := [d.val] }
/-- Two sources, one destination. -/
def uses2 (d a b : VReg) : Uses := { w := [d.val], r := [a.val, b.val], pop := [a.val, b.val], push := [d.val] }
/-- A compare. -/
def usesCmp (a b : VReg) : Uses := { r := [a.val, b.val], pop := [a.val, b.val] }
/-- Uniform registers. -/
def usesC (d : CReg) (rs : List CReg) : Uses := { cr := rs.map fun r => r.val, cw := [d.val] }
/-- Uniform sources only. -/
def usesCR (rs : List CReg) : Uses := { cr := rs.map fun r => r.val }
/-- A uniform instruction that reads its destination (`cmad`, `csel`). -/
def usesCD (d a b : CReg) : Uses := { cr := [d.val, a.val, b.val], cw := [d.val] }
/-- A load. -/
def usesLd (d : VReg) (m : MOp) (z : Size) : Uses :=
  { w := dataRegs d.val z, r := mopV m, push := dataRegs d.val z, cr := [m.base.val] }
/-- A store. -/
def usesSt (v : VReg) (m : MOp) (z : Size) : Uses :=
  { r := dataRegs v.val z ++ mopV m, pop := dataRegs v.val z ++ mopV m, cr := [m.base.val] }
/-- `atom`: an even `DR` names a pair, an odd one only its source (R228). -/
def usesAtom (d : VReg) (m : MOp) : Uses :=
  if d.val % 2 = 0 then { w := [d.val], r := (d.val + 1) :: mopV m, cr := [m.base.val] }
  else { r := d.val :: mopV m, cr := [m.base.val] }
/-- An arithmetic matrix command. -/
def usesMma (t : TReg) (cs : List Nat) : Uses := { t := [t.val], cr := cs }

/-- The groups of an `nrq` come from its request word (R306). -/
def usesNrq (s : State) (d a : VReg) (n : CReg) : Uses :=
  let w := (getC s n).toNat
  { w := groupOf d.val (w / 2 ^ 57 % 16 + 1), r := groupOf a.val (if w / 2 ^ 61 % 2 = 1 then 16 else 8), cr := [n.val] }

/-- What an instruction names. -/
def uses (s : State) : Instr → Uses
  | .brcZ t _ | .brcNz t _ | .brcNeg t _ => usesCR [t]
  | .call l _ => usesC l []
  | .jmpi a | .ret a | .trap a | .wcnt a => usesCR [a]
  | .sread d _ => usesC d []
  | .swrite c _ | .mcfgWrite c | .ftmapWrite c => usesCR [c]
  | .cadd d a b | .csub d a b | .cmul d a b | .cmulh d a b | .cand d a b | .cor d a b | .cxor d a b | .cshl d a b
  | .cshr d a b | .csar d a b | .cmin d a b | .cminu d a b | .cmax d a b | .cmaxu d a b | .ccmpEq d a b | .ccmpNe d a b
  | .ccmpLt d a b | .ccmpLe d a b | .ccmpLtu d a b | .ccmpLeu d a b | .cbfe d a b => usesC d [a, b]
  | .caddImm d a _ | .cnot d a | .cmov d a | .cpopc d a | .cclz d a => usesC d [a]
  | .cmad d a b | .csel d a b => usesCD d a b
  | .aidx _ c | .aaddC _ _ c | .asubC _ _ c | .amul _ _ c | .ashl _ _ c | .lca _ c => usesCR [c]
  | .lcv d a => { w := [d.val], cr := [a.val] }
  | .lav d _ => { w := [d.val] }
  | .lvc d a | .lvcx d a => { r := [a.val], cw := [d.val] }
  | .growV d a | .growT d a | .shrinkV d a | .shrinkT d a => usesC d [a]
  | .qbind _ a => usesCR [a]
  | .qstat d _ => usesC d []
  | .cpy a => { cr := groupOf a.val 4 }
  | .cpyw a b => { cr := b.val :: groupOf a.val 4 }
  | .tcpy a => { cr := groupOf a.val 6 }
  | .lnch d a => usesC d [a]
  | .bar a => usesCR [a]
  | .bara d a => usesC d [a]
  | .bare a b | .barw a b | .wait a b | .waitExt a b => usesCR [a, b]
  | .vadd d a b _ | .vsub d a b _ | .vmul d a b _ | .vmulh d a b _ | .vand d a b _ | .vor d a b _ | .vxor d a b _
  | .vshl d a b _ | .vshr d a b _ | .vsar d a b _ | .vmin d a b _ | .vminu d a b _ | .vmax d a b _ | .vmaxu d a b _
  | .vbfe d a b _ => usesV d a b
  | .fadd d a b _ | .fsub d a b _ | .fmul d a b _ | .fmin d a b _ | .fmax d a b _ => usesV d a b
  | .vmad d a b _ | .vbfi d a b _ => usesVD d a b
  | .ffma d a b _ =>
    (match (curMods s).av with
     | some v => { usesV d a b with r := v.val :: a.val :: srcV b, pop := v.val :: a.val :: srcV b }
     | none => usesVD d a b)
  | .vnot d a _ | .vabs d a _ | .vneg d a _ | .vpopc d a _ | .vclz d a _ => uses1 d a
  | .fabs d a _ | .fneg d a _ | .frnd d a _ | .fclass d a _ => uses1 d a
  | .vcmp _ a b _ _ | .fcmp _ a b _ _ => usesCmp a b
  | .vcmpLtu _ a b _ | .vcmpLeu _ a b _ => usesCmp a b
  | .fcmpUo _ a b _ => usesCmp a b
  | .vperm d a b => { uses2 d a b with r := [d.val, a.val, b.val] }
  | .vsel d a b _ => uses2 d a b
  | .frcp d a _ | .frsq d a _ | .fsqrt d a _ | .fexp2 d a _ | .flog2 d a _ | .fsin d a _ | .fcos d a _ => uses1 d a
  | .cvt d a _ _ => uses1 d a
  | .dot2F32x2 d a b | .dot4F16x4 d a b | .dot4Bf16x4 d a b | .dot4I16x4 d a b | .dot8I8x8 d a b
  | .dot8Binary8 d a b _ => { uses2 d a b with r := [d.val, a.val, b.val] }
  | .cvn d a _ _ | .cvw d a _ _ => uses1 d a
  | .cvs d a b _ => uses2 d a b
  | .welf d a t =>
    { w := welfRegs d.val t, r := a.val :: welfRegs d.val t, pop := [a.val], push := welfRegs d.val t }
  | .wmrg d a t =>
    { w := welfRegs d.val t, r := welfRegs a.val t ++ welfRegs d.val t, pop := welfRegs a.val t, push := welfRegs d.val t }
  | .shfl d a b | .shflx d a b => uses2 d a b
  | .bcst d a _ => uses1 d a
  | .voteAny d a | .voteAll d a | .voteBal d a => uses1 d a
  | .rdc d a _ _ | .scan d a _ _ => uses1 d a
  | .mpop d _ => { cw := [d.val] }
  | .ld d m z _ | .lds d m z _ => usesLd d m z
  | .pacq d m z _ => { usesLd d m z with push := [] }
  | .st v m z | .sts v m z => usesSt v m z
  | .ldc d m z _ => { cr := [m.base.val], cw := dataRegs d.val z }
  | .atomAdd d m _ | .atomAnd d m _ | .atomOr d m _ | .atomXor d m _ | .atomMin d m _ | .atomMax d m _ | .atomMinu d m _
  | .atomMaxu d m _ | .atomExch d m _ | .atomFadd d m _ | .atomFmin d m _ | .atomFmax d m _ => usesAtom d m
  | .cas d m _ => { w := [d.val], r := d.val :: (d.val + 1) :: mopV m, cr := [m.base.val] }
  | .pref m _ => { r := mopV m, cr := [m.base.val] }
  | .cctlWb a b | .cctlInv a b | .cctlIinv a b => usesCR [a, b]
  | .locq d a k => if k.val = 0 then usesC d [a] else usesC d []
  | .mmaE8 t a b _ | .mmaE16 t a b _ | .mmasE8 t a b _ | .mmasE16 t a b _ => usesMma t [a.val, b.val]
  | .mmauE8 t a b _ | .mmauE16 t a b _ => usesMma t (b.val :: groupOf a.val 4)
  | .gang a => usesCR [a]
  | .mzero t a => usesMma t [a.val]
  | .mldw a b => usesCR [a, b]
  | .mdrnTs t a b _ | .mdrnPeer t a b _ => usesMma t [a.val, b.val]
  | .mdrnQ t _ b _ => usesMma t [b.val]
  | .mrow t _ _ => usesMma t []
  | .grdv d _ k => { w := if k.val ≤ 4 then [d.val, d.val + 1] else [d.val] }
  | .grdw v _ k => { r := if k.val ≤ 1 then [v.val, v.val + 1] else [v.val] }
  | .rsub d _ c => { w := [d.val, d.val + 1], cr := [c.val] }
  | .samp d a c => { w := [d.val], r := [a.val], cr := [c.val] }
  | .rbox d g n => { w := [d.val], r := n.val :: groupOf g.val 4 }
  | .rtri d g n | .rtriAlpha d g n => { w := [d.val, d.val + 1], r := n.val :: groupOf g.val 4 }
  | .rpsh a c => { r := [a.val], cr := [c.val] }
  | .rpop d c => { w := [d.val], cr := [c.val] }
  | .rhit d a g => { w := [d.val, d.val + 1, g.val + 3], r := [a.val, a.val + 1, d.val, g.val + 3] }
  | .nrq d a n => usesNrq s d a n
  | _ => {}

/-- The sources whose poison an instruction consumes: not the data that it copies, nor a lane it reads across (R120, R143). -/
def consumed (i : Instr) (u : Uses) : List Nat :=
  match i with
  | .vsel .. | .bcst .. => []
  | .shfl _ _ b | .shflx _ _ b => [b.val]
  | _ => u.r

/-- Is it an inference request, whose groups may not name `vz` (R306)? -/
def isNrq : Instr → Bool
  | .nrq .. => true
  | _ => false

/-- The registers and tiles beyond the allotment that an instruction names, each as `tinfo` gives it (R42, R111, R306). -/
def beyond (c : Crew) (u : Uses) (nrq : Bool) : List Nat :=
  let vs := (u.w ++ u.r).filter fun r => if nrq then decide (c.vn ≤ r) || decide (127 ≤ r) else decide (c.vn ≤ r) && r != 127
  let ts := u.t.filter fun t => !(decide (t < c.tn))
  distinct (vs ++ ts.map fun t => 128 + t)

/-! ## Hints an instruction accepts (R55) -/

/-- Which kinds, fields and values of hints an instruction accepts. -/
structure Accepts where
  imm : Bool := false
  msk : Bool := false
  acq : Bool := false
  rel : Bool := false
  scp : List Nat := []
  rnd : Bool := false
  sat : Nat := 0
  av : Bool := false
  join : Bool := false
  deriving DecidableEq, Repr, Inhabited

def scpAll : List Nat := [1, 2, 3, 4, 5]

/-- An integer V-format word; `sat` where R124 accepts it. -/
def accV (b : Src) (sat : Bool) : Accepts := { imm := b == .imm 0, msk := true, sat := if sat then 1 else 0 }
/-- A float V-format word. -/
def accF (b : Src) (rnd : Bool) : Accepts := { imm := b == .imm 0, msk := true, rnd := rnd }
/-- A uniform sub-op that accepts a chain. -/
def accC (b : CReg) : Accepts := { imm := b.val == 0 }
def accMsk : Accepts := { msk := true }
def accRnd : Accepts := { msk := true, rnd := true }
def accOrd : Accepts := { acq := true, rel := true, scp := scpAll }

/-- The table of R55. -/
def accepts : Instr → Accepts
  | .brv .. => { join := true }
  | .sigchk => { imm := true }
  | .cadd _ _ b | .csub _ _ b | .cmul _ _ b | .cmulh _ _ b | .cmad _ _ b | .cand _ _ b | .cor _ _ b | .cxor _ _ b
  | .cshl _ _ b | .cshr _ _ b | .csar _ _ b | .cmin _ _ b | .cminu _ _ b | .cmax _ _ b | .cmaxu _ _ b | .ccmpEq _ _ b
  | .ccmpNe _ _ b | .ccmpLt _ _ b | .ccmpLe _ _ b | .ccmpLtu _ _ b | .ccmpLeu _ _ b | .csel _ _ b | .cbfe _ _ b => accC b
  | .cmov _ a => { imm := a.val == 63 }
  | .caddImm _ _ i => { imm := i == 0 }
  | .aaddC _ _ c | .asubC _ _ c | .amul _ _ c | .ashl _ _ c => accC c
  | .lcv .. | .lav .. | .lvc .. | .lvcx .. => accMsk
  | .cpy _ | .cpyw _ _ | .tcpy _ => accOrd
  | .vadd _ _ b _ | .vsub _ _ b _ | .vmul _ _ b _ | .vmad _ _ b _ => accV b true
  | .vmulh _ _ b _ | .vand _ _ b _ | .vor _ _ b _ | .vxor _ _ b _ | .vshl _ _ b _ | .vshr _ _ b _ | .vsar _ _ b _
  | .vmin _ _ b _ | .vminu _ _ b _ | .vmax _ _ b _ | .vmaxu _ _ b _ => accV b false
  | .vbfe _ _ b _ | .vbfi _ _ b _ => accV b false
  | .fadd _ _ b _ | .fsub _ _ b _ | .fmul _ _ b _ => accF b true
  | .ffma _ _ b _ => { accF b true with av := true }
  | .fmin _ _ b _ | .fmax _ _ b _ => accF b false
  | .frnd .. => accRnd
  | .vnot .. | .vabs .. | .vneg .. | .vpopc .. | .fabs .. | .fneg .. | .fclass .. | .vcmp .. | .fcmp .. | .vcmpLtu ..
  | .fcmpUo .. | .vcmpLeu .. | .vclz .. | .vperm .. | .vsel .. | .frcp .. | .frsq .. | .fsqrt .. | .fexp2 .. | .flog2 ..
  | .fsin .. | .fcos .. => accMsk
  | .cvt _ _ _ t => (match t with | .int _ => { accRnd with sat := 1 } | .flt _ => accRnd)
  | .dot2F32x2 .. | .dot4F16x4 .. | .dot4Bf16x4 .. | .dot8Binary8 .. => accRnd
  | .dot4I16x4 .. | .dot8I8x8 .. => { msk := true, sat := 1 }
  | .cvn .. | .cvs .. => { accRnd with sat := 2 }
  | .cvw .. => accMsk
  | .welf .. | .wmrg .. => accRnd
  | .shfl .. | .shflx .. | .bcst .. | .voteAny .. | .voteAll .. | .voteBal .. => accMsk
  | .rdc _ _ _ e | .scan _ _ _ e => (match e with | .flt _ => accRnd | .int _ => accMsk)
  | .ld .. => { imm := true, msk := true, acq := true, scp := scpAll }
  | .st .. => { imm := true, msk := true, rel := true, scp := scpAll }
  | .lds .. => { imm := true, msk := true, scp := [1, 2] }
  | .sts .. => { imm := true, msk := true, rel := true, scp := [1, 2] }
  | .ldc .. => { imm := true, acq := true, scp := scpAll }
  | .atomAdd .. | .atomAnd .. | .atomOr .. | .atomXor .. | .atomMin .. | .atomMax .. | .atomMinu .. | .atomMaxu ..
  | .atomExch .. | .atomFadd .. | .atomFmin .. | .atomFmax .. | .cas .. => { accOrd with imm := true, msk := true }
  | .pref .. | .pacq .. => { imm := true, msk := true }
  | .fence => accOrd
  | .mdrnTs .. | .mdrnPeer .. | .mdrnQ .. => accOrd
  | .grdv .. | .grdw .. | .rsub .. | .samp .. | .rbox .. | .rtri .. | .rtriAlpha .. | .rpsh .. | .rpop .. | .rhit .. =>
    accMsk
  | .nrq .. => { accOrd with msk := true }
  | _ => {}

/-- Does an instruction accept a hint of its run, with the fields it carries (R55)? -/
def Accepts.hint (a : Accepts) : Hint → Bool
  | .lo _ | .hi _ => a.imm
  | .join _ => a.join
  | .mod p =>
    let m := modsOf [.mod p]
    let any := a.msk || a.acq || a.rel || !a.scp.isEmpty || a.rnd || a.sat != 0 || a.av
    any && (m.msk.isNone || a.msk) && (!ordAcq m.ord || a.acq) && (!ordRel m.ord || a.rel) &&
      (m.scp == 0 || a.scp.contains m.scp) && (m.rnd == 0 || a.rnd) && (m.sat == 0 || m.sat == a.sat) &&
      (m.av.isNone || a.av)

/-- The index in its run of the first hint that the consumer does not accept; a chain that does not end in a low hint breaks at its last
high hint (R52). Of several offences in one run the spec names none first: the lowest hint goes first, be it one that R55 refuses or the
high hint of a broken chain (log 72 DESIGN CHOICE unsafe). -/
def badHint (a : Accepts) (run : List Hint) : Option Nat :=
  let rec go : Nat → List Hint → Option Nat
    | _, [] => none
    | k, h :: r =>
      let open_ := match h, r with
        | .hi _, .hi _ :: _ => false
        | .hi _, .lo _ :: _ => false
        | .hi _, _ => true
        | _, _ => false
      if open_ || !a.hint h then some k else go (k + 1) r
  go 0 run

/-- Does a further hint keep the limits of R52? -/
def runAdmits (run : List Hint) (h : Hint) : Bool :=
  let imms := (run.filter fun x => match x with | .lo _ => true | .hi _ => true | _ => false).length
  let closed := run.any fun x => match x with | .lo _ => true | _ => false
  match h with
  | .lo _ | .hi _ =>
    let last := match run.getLast? with | some (.hi _) => true | _ => false
    !closed && decide (imms < 3) && (imms == 0 || last)
  | .mod _ => !(run.any fun x => match x with | .mod _ => true | _ => false)
  | .join _ => !(run.any fun x => match x with | .join _ => true | _ => false)

/-- After a high hint only an immediate hint may follow; any other breaks the run at the high hint (R52). -/
def runBreaks (run : List Hint) (h : Hint) : Bool :=
  match run.getLast?, h with
  | some (.hi _), .lo _ => false
  | some (.hi _), .hi _ => false
  | some (.hi _), _ => true
  | _, _ => false

/-! ## Values of operands -/

/-- The second operand in a lane (R39, R41); `f` is the element format of a float type, none for an integer type. -/
def srcLane (s : State) (m : Mods) (w : Nat) (f : Option Fmt) (b : Src) (l : Nat) : Word :=
  match b with
  | .v r => laneAt (getV s r) l
  | .c r => getC s r
  | .a r => affineAt (getA s r) l
  | .imm x =>
    let e := match m.wide with
      | some v => v.toNat % 2 ^ w
      | none => match f with
        | some f => f.encode .ne (FVal.ofInt x.toInt)
        | none => wrap w x.toInt
    pack w (List.replicate (64 / w) e)

/-- The second operand of a uniform or affine instruction (R104, R107). -/
def uniB (s : State) (m : Mods) (r : CReg) : Word := m.wide.getD (getC s r)

/-- The address of a lane (R227). -/
def addrOf (s : State) (m : Mods) (op : MOp) (z : Nat) (l : Nat) : Nat :=
  let idx := match op.idx with
    | .a r => affineAt (getA s r) l
    | .v r => laneAt (getV s r) l
  let sc : Word := BitVec.ofNat 64 (if op.scaled then z else 1)
  (getC s op.base + idx * sc + m.wide.getD 0).toNat

end Sys2Proof.Machine
end

