-- ==== Sys2Proof/Machine/Ops.lean ====
section
/-! DEFINITION. Taking an exception and returning from one (R193 to R200), delivery of imprecise faults (R195, R196, R235), and
what every instruction meets before its own effect (R43). -/

namespace Sys2Proof.Machine

open Sys2Proof

/-- A fragment's park is withdrawn, and it takes age stamp `st`; a join, `lnch` or `cpyw` park is kept (R193, R334). -/
def withdrawFrag (st : Nat) (f : Frag) : Frag :=
  match f.park with
  | .join | .lnch .. | .cpyw .. => f
  | .none | .cont => { f with pc := tpcOf f, run := [] }
  | _ => { f with pc := tpcOf f, run := [], park := .none, stamp := st }

/-- The parks of the crew at issue are withdrawn, but for those kept (R193). -/
def withdrawAll (s : State) (keep : Frag → Bool) : State :=
  let st := stampNow s
  modCur st.2 fun c => c.mapFrags fun f => if keep f then f else withdrawFrag st.1 f

/-- Is it parked in `bar`? -/
def barParked (f : Frag) : Bool :=
  match f.park with
  | .barArr _ => true
  | .barTok .. => true
  | _ => false

/-- Withdrawals for the crew's fragments parked in `bar`, once each (R376). -/
def sendWithdrawals (s : State) : State :=
  let going (f : Frag) : Bool := s.withdrawals.contains (s.cur.cid, f.fid) ||
    s.combiner.any fun e => e.ops.any fun o => o.kind == 2 && o.cid == s.cur.cid && o.fid == f.fid
  let fs := s.cur.all.filter fun f => barParked f && !going f
  { s with withdrawals := s.withdrawals ++ fs.map fun f => (s.cur.cid, f.fid) }

/-- The place of a joint command of the crew at issue whose arrival stands on the latch: its first hint (R166). -/
def arrivedAt (s : State) : Option VAddr :=
  ((blockAt? s s.cur.block).bind fun b => b.latch.find? fun a => a.idx == s.cur.idx).bind fun a =>
    (s.cur.all.find? fun f => f.fid == a.fid && !f.handler).map tpcOf

/-- Wait-list and latch places of the crew at issue go, and its stalls on migrating pages (R117, R166, R345). -/
def withdrawPlaces (s : State) : State :=
  let fids := s.cur.all.map fun f => f.fid
  let s := modCur s fun c => { c with owes := (arrivedAt s).or c.owes }
  let s := { s with xl := { s.xl with stalls := s.xl.stalls.filter fun i => !fids.contains i } }
  let s := modCore s s.cur.pair fun c => { c with
    growV := c.growV.filter fun g => g.1 != s.cur.cid, growT := c.growT.filter fun g => g.1 != s.cur.cid }
  modBlock s s.cur.block fun b => { b with latch := b.latch.filter fun a => a.idx != s.cur.idx }

/-- The status of a launch that is queued (R289): AFFVOID when `AFF` names no working die. -/
def lnchStatus (s : State) (lid : Nat) : Word :=
  match launchAt? s lid with
  | some l =>
    let aff := l.lr.lfl / 256 % 16
    if aff != 0 && !(s.dev.diesUp.any fun d => aff / 2 ^ d % 2 == 1) then 0x10 else 0
  | none => 0

/-- Statuses that parked launches of the crew at issue still owe are written (R292). -/
def payStatus (s : State) : State :=
  let s' := s.cur.all.foldl (fun s f => match f.park with
    | .lnch cd _ lid => if cd < 63 then setC s (Fin.ofNat 64 cd) (lnchStatus s lid) else s
    | _ => s) s
  modCur s' fun c => c.mapFrags fun f => match f.park with
    | .lnch _ t lid => { f with park := .lnch 63 t lid }
    | _ => f

/-- The handler fragment starts: parks are withdrawn, F takes the address and daymark it resumes with, the trap registers are
written, and a new fragment with a full mask takes an entry at the handler's address (R193). -/
def enterHandler (s : State) (t : Trap) (resume : VAddr) (dmk : BitVec 32) (lvl : Level) (addr : Nat) : State :=
  let s := payStatus (withdrawPlaces s)
  let s := withdrawAll s fun _ => false
  let s := modFr s fun f => { f with pc := resume, dmk := dmk }
  let f := s.cur.fr
  let e := takeEntry s f.fid
  let n := fresh e.2
  let st := stampNow n.2
  let s := st.2
  let k : Frag := { Frag.zero with
    fid := n.1, pc := BitVec.ofNat 57 addr, fl := s.cur.lm, xm := s.cur.lm, entry := some e.1, stamp := st.1,
    handler := true, preds := predsOf s s.cur.all }
  modCur s fun c => { c with
    tcause := BitVec.ofNat 64 t.cause.code, tpc := resume.setWidth 64, taddr := BitVec.ofNat 64 t.addr,
    tlanes := t.lanes.setWidth 64, tinfo := BitVec.ofNat 64 t.info, txm := f.xm.setWidth 64,
    fr := k, frags := c.all, trapped := f.fid,
    cst := { c.cst with lvl := lvl, ppre := c.cst.ppre || (c.preDue.isSome && lvl != .preempt) } }

/-- A recorded fault leaves the list when it is delivered. -/
def dropImprec (s : State) (t : Trap) : State :=
  match t.imp with
  | some i => modCur s fun c => { c with imprec := dropAt c.imprec i }
  | none => s

/-- A save begins: parks are withdrawn, but a `bar` whose withdrawal is on its way and, at a swap-out, what the crew waits on;
it is made when what R201 waits for is done. A begun trap is not delivered: its cause recurs after the save (R117, R193, R196, R201,
log 23 DEDUCED unsafe). -/
def startSave (s : State) (reason : Nat) : State :=
  let waits (f : Frag) : Bool := match f.park with | .wait .. => reason == 3 | _ => false
  let s := withdrawAll (withdrawPlaces s) fun f => barParked f || waits f
  sendWithdrawals (modCur s fun c => { c with saving := reason, metAt := none, hbud := 0, entering := none })

/-- Delivery at a level, by the addresses of the region's record (R193, R194, R199). -/
def deliver (s : State) (t : Trap) (resume : VAddr) (dmk : BitVec 32) : State :=
  match regionAt? s s.cur.region with
  | none => endCrew s [t.cause.code, t.addr, t.lanes.toNat, t.info]
  | some r =>
    if t.cause == .preempt then
      (if r.pha = 0 || r.hbg = 0 then startSave s 2
       else
         let s := enterHandler s t resume dmk .preempt r.pha
         modCur s fun c => { c with hbud := r.hbg - c.preDue.getD 0, cst := { c.cst with ppre := false } })
    else
      let sup := t.cause == .pgnp && t.sup && !t.bad && r.sha != 0
      if !sup && r.uha = 0 then endCrew s [t.cause.code, t.addr, t.lanes.toNat, t.info]
      else
        let s := dropImprec s t
        match if t.store then writeRecords s else some s with
        | none => saveFail (countUncorr s (badPlace? s (sfArea s) (recordsLen s)).toList)
        | some s => if sup then enterHandler s t resume dmk .supervisor r.sha else enterHandler s t resume dmk .user r.uha

/-- Would a first-touch page of the crew at issue go to its supervisor handler (R197, R347)? -/
def supRoute (s : State) : Bool := s.cur.cst.lvl == .none && (regionAt? s s.cur.region).any fun r => r.sha != 0

/-- Does a PGNP take the batched path (R194, R197, R347)? -/
def takesBatch (s : State) (t : Trap) : Bool := t.cause == .pgnp && !t.bad && !(t.sup && supRoute s)

/-- The fragment waits for its pages (R350). -/
def parkBatch (s : State) (t : Trap) : State :=
  let n := fresh s
  parkAs n.2 (if t.store then .storeBatch n.1 t.faulted else .batch n.1 t.kind t.info t.faulted)

/-- A second cause in a handler: the crew is ended with both, the first as `tcause` has it (R192, R197, log 16 DEDUCED unsafe, log 69
DEDUCED unsafe). -/
def doubleFault (s : State) (t : Trap) : State :=
  endCrew s [Cause.double.code, s.cur.tcause.toNat % 256 + 256 * t.cause.code]

/-- A delivery waits: the crew's fragments stop, F too, their parks withdrawn but for a `bar` whose withdrawal is on its way, and the
trap is kept (R117, R193, R376). -/
def holdForTrap (s : State) (t : Trap) (resume : VAddr) (dmk : BitVec 32) : State :=
  let f := s.cur.fr
  let own := resume == tpcOf f && dmk == f.dmk
  modCur (withdrawAll (withdrawPlaces (sendWithdrawals s)) barParked) fun c =>
    { c with entering := some ⟨t, f.fid, if own then none else some (resume, dmk)⟩ }

/-- Do older accesses of the crew that could reach a store fault's records still have to be performed: stores, atomics, barrier
operations (R413)? -/
def recordsWait (s : State) (t : Trap) : Bool :=
  t.store && ((s.storeQ.any fun x => x.cid == s.cur.cid) || (s.atoms.any fun x => x.cid == s.cur.cid) ||
    !(barPending s s.cur.cid).isEmpty)

/-- Can a trap of the crew at issue be delivered: no `bar` left to withdraw, no store left to translate, and, before records, none of
what they follow (R193, R376, R413)? -/
def trapReady (s : State) (t : Trap) : Bool :=
  !(s.cur.all.any barParked) && s.cur.stores.isEmpty && !recordsWait s t &&
    !(t.store && mustHold s (corePort s.cur.pair) (sfArea s) (recordsLen s))

/-- Delivery of a trap of the issuing fragment begins, and ends at once when nothing is waited for (R193). -/
def beginTrap (s : State) (t : Trap) (resume : VAddr) (dmk : BitVec 32) : State :=
  let s := if s.cur.all.any barParked then s else translateAll s
  if trapReady s t then deliver s t resume dmk else holdForTrap s t resume dmk

/-- Taking a trap with F the issuing fragment, to resume at `resume` with daymark `dmk` (R193, R194, R197). -/
def takeTrap (s : State) (t : Trap) (resume : VAddr) (dmk : BitVec 32 := s.cur.fr.dmk) : State :=
  if takesBatch s t then parkBatch s t
  else if s.cur.cst.lvl != .none then
    (if t.cause == .preempt then modCur s fun c => { c with cst := { c.cst with ppre := true } } else doubleFault s t)
  else beginTrap s t resume dmk

/-- A precise cause of the issuing instruction: `tpc` at its run's first hint (R57). -/
def raise (s : State) (t : Trap) : State := takeTrap s t (tpcOf s.cur.fr)

/-! ## Recorded faults -/

/-- Is it one of the delivery points of R195? `bar` is a `bara` and a `barw` (R375); an arrival, a launch and a command's issue
with an acquire flag are releases (R219, R220). -/
def isPoint (i : Instr) (m : Mods) : Bool :=
  match i with
  | .wcnt _ | .drain | .bar _ | .bara _ _ | .barw _ _ | .fence | .endd | .lnch .. => true
  | .cpy _ | .cpyw .. | .tcpy _ | .mmaE8 .. | .mmasE8 .. | .mmauE8 .. | .mmaE16 .. | .mmasE16 .. | .mmauE16 .. | .mzero .. |
    .mldw .. | .mdrnTs .. | .mdrnQ .. | .mdrnPeer .. | .mrow .. | .nrq .. => ordAcq m.ord
  | .st .. | .sts .. | .atomAdd .. | .atomAnd .. | .atomOr .. | .atomXor .. | .atomMin .. | .atomMax .. | .atomMinu ..
  | .atomMaxu .. | .atomExch .. | .atomFadd .. | .atomFmin .. | .atomFmax .. | .cas .. => ordRel m.ord
  | _ => false

/-- Is it of major 0x3C or 0x3D (R171)? -/
def isMatrix : Instr → Bool
  | .mmaE8 .. | .mmasE8 .. | .mmauE8 .. | .mmaE16 .. | .mmasE16 .. | .mmauE16 .. | .gang _ | .mzero .. | .mldw .. | .mdrnTs ..
  | .mdrnQ .. | .mdrnPeer .. | .mrow .. => true
  | _ => false

/-- Is it a copy command (R305)? -/
def isCopy : Instr → Bool
  | .cpy _ | .cpyw .. | .tcpy _ => true
  | _ => false

/-- Is a recorded fault due at this instruction (R171, R195, R197, R235, R305, R309)? -/
def dueAt (s : State) (i : Instr) (u : Uses) (e : Imprec) : Bool :=
  if e.isStore then s.cur.cst.lvl == .none || e.hnd
  else isPoint i (curMods s) || (e.cause == .copyf && (isCopy i || s.cur.fr.park == .cont)) || (e.cause == .matf && isMatrix i) ||
    (e.cause == .nrqf && e.regs.any fun r => u.r.contains r)

/-- The index of the first member that meets a condition. -/
def firstIdx {α : Type} (f : α → Bool) : List α → Option Nat
  | [] => none
  | x :: l => if f x then some 0 else (firstIdx f l).map (· + 1)

/-- The faulting lanes of the crew's store records whose pages take the batched path, the lowest among them, with their addresses
(R347). -/
def recordLanes (s : State) : List (Nat × Nat) :=
  match (coreAt s s.cur.pair).sfq.find? fun r => r.cid == s.cur.cid && r.faulting with
  | some r =>
    (match (r.store.lanes.filter fun l => inMask r.lanes l.1).map fun l => (l.1, l.2.1) with
     | [] => []
     | l :: ls => l :: ls.filter fun x => !(supRoute s && xlateFresh s .write x.2 == .absent true false))
  | none => []

/-- Recorded fault `k` as a trap. -/
def imprecTrap (s : State) (k : Nat) (e : Imprec) : Trap :=
  { cause := e.cause, addr := e.addr, lanes := e.lanes, info := e.info, sup := e.sup, bad := e.bad, kind := 1,
    faulted := if e.isStore then recordLanes s else [], imp := some k, store := e.isStore }

/-- The first recorded fault due at an instruction. -/
def dueImprec (s : State) (i : Instr) (u : Uses) : Option Trap :=
  match firstIdx (dueAt s i u) s.cur.imprec with
  | some k => (s.cur.imprec[k]?).map (imprecTrap s k)
  | none => none

/-- A fault recorded for a crew, the youngest. -/
def recordImprec (s : State) (cid : Nat) (e : Imprec) : State := modCrew s cid fun c => { c with imprec := c.imprec ++ [e] }

/-! ## What holds an instruction (R26) -/

/-- Registers that wait for an access to return, varying and uniform. -/
def pendingV (c : Crew) : List Nat := c.futs.flatMap fun f => match f.dest with | .v r n => groupOf r n | _ => []
def pendingC (c : Crew) : List Nat := c.futs.flatMap fun f => match f.dest with | .c r n => groupOf r n | _ => []

/-- The scoreboard holds an operand, or a mask of no register: a future is pending on a register named. -/
def scoreboard (s : State) (u : Uses) : Bool :=
  let pv := pendingV s.cur
  let pc := pendingC s.cur
  (u.w ++ u.r).any (fun r => pv.contains r) || (u.cr ++ u.cw).any (fun r => pc.contains r)

/-- Queue registers whose window an instruction names as a source (R295). -/
def popped (c : Crew) (u : Uses) : List Nat :=
  (List.range 8).filter fun k =>
    let q := c.qregs.getD k default
    isResultQ q && u.pop.contains (winOf q)

/-- Is it an instruction whose loads wait for the crew's untranslated stores (R233, R234)? -/
def waitsStores : Instr → Bool
  | .ld .. | .ldc .. | .pacq .. | .atomAdd .. | .atomAnd .. | .atomOr .. | .atomXor .. | .atomMin .. | .atomMax .. | .atomMinu ..
  | .atomMaxu .. | .atomExch .. | .atomFadd .. | .atomFmin .. | .atomFmax .. | .cas .. | .samp .. | .rbox .. | .rtri ..
  | .rtriAlpha .. => true
  | _ => false

/-- Is it an arithmetic command (R163)? -/
def isArith : Instr → Bool
  | .mmaE8 .. | .mmasE8 .. | .mmauE8 .. | .mmaE16 .. | .mmasE16 .. | .mmauE16 .. => true
  | _ => false

/-- Is a joint command, or the `gang` that counts them anew, held: the crew's one arrival slot is taken, or another fragment of the
crew, not suspended beneath a handler, has yet to issue its withdrawn arrival again (R150, R166, log 61 DEDUCED unsafe)? -/
def latchHolds (s : State) (i : Instr) : Bool :=
  let c := s.cur
  let taken := match blockAt? s c.block with | some b => b.latch.any fun a => a.idx == c.idx | none => false
  let owed := c.owes.any fun a => !c.fr.handler && tpcOf c.fr != a && c.frags.any fun f => !f.handler && tpcOf f == a
  ((isArith i && c.gang.toNat % 8 != 0) || match i with | .gang _ => true | _ => false) && (taken || owed)

/-- Does it enter the operand queue at its issue (R159, R310)? A joint command enters from the latch. -/
def entersQueue (c : Crew) : Instr → Bool
  | .mmaE8 .. | .mmasE8 .. | .mmauE8 .. | .mmaE16 .. | .mmasE16 .. | .mmauE16 .. => c.gang.toNat % 8 == 0
  | .gang _ => true
  | .mzero .. | .mldw .. | .mdrnTs .. | .mdrnQ .. | .mdrnPeer .. | .mrow .. | .nrq .. | .mcfgWrite _ => true
  | _ => false

/-- Commands an operand queue takes (R310). -/
def opqSize : Nat := 64

/-- Feed queues whose window an instruction's destination names (R296). -/
def fed (c : Crew) (u : Uses) : List Nat :=
  (List.range 8).filter fun k =>
    let q := c.qregs.getD k default
    isFeedQ q && u.push.contains (winOf q)

/-- A whole write of a feed queue's window is pushed (R296); `fut` names the load it still waits for. -/
def feedPush (s : State) (u : Uses) (fut : Nat) : State :=
  (fed s.cur u).foldl (fun s k =>
    let item := s.cur.vreg (winOf (s.cur.qregs.getD k default))
    modCore s s.cur.pair fun c => { c with feeds := c.feeds ++ [⟨s.cur.cid, k, fut, item⟩] }) s

/-- Is it an engine command, whose order among feed pushes the operand queue keeps (R296, R310)? -/
def isEngine (i : Instr) : Bool := isMatrix i || isNrq i || match i with | .mcfgWrite _ => true | _ => false

/-- Does it start an engine or a copy with an acquire, or a launch, which its earlier accesses go before (R219, R220)? -/
def startsAcquire (s : State) (i : Instr) : Bool :=
  match i with
  | .lnch .. => true
  | _ => (isCopy i || isEngine i) && ordAcq (curMods s).ord

/-- The scope of the release that such an instruction is (R219, R220). -/
def acquireScope (s : State) (i : Instr) : Scope :=
  match i with
  | .lnch .. => .device
  | _ => scopeOf .device (curMods s).scp

/-- Does a line overlap the `n` bytes from `a`? -/
def inRange (a n vln : Nat) : Bool := n != 0 && decide (a / 128 ≤ vln) && decide (vln ≤ (a + n - 1) / 128)

/-- The length of a `cctl`. -/
def ctlLen (s : State) (b : CReg) : Nat := (getC s b).toNat % 2 ^ 32

/-- Does a retraining link hold a write-back that a `cctl` asks for, or the walk of a `locq` (R244, R245, R393)? -/
def ctlHeld (s : State) (i : Instr) : Bool :=
  match i with
  | .locq _ a k => k.val == 0 && walkHeld s (corePort s.cur.pair) (getC s a).toNat
  | .cctlWb a b | .cctlInv a b => wbHeld s s.cur.pair fun l => inRange (getC s a).toNat (ctlLen s b) l.vln
  | _ => false

/-- Does a unit hold the instruction back: the operand queue has no room, or a feed push has yet to enter it; 64 copies or 16
tensor copies are in flight; a store has yet to translate; an access goes before an engine's acquire; a link holds a write-back or a walk it asks for; a result queue is
empty; the latch has no place for it (R26, R159, R166, R219, R233, R295, R296, R299, R393)? -/
def unitHolds (s : State) (i : Instr) (u : Uses) : Bool :=
  let c := coreAt s s.cur.pair
  let room := decide (c.opq.length + c.feeds.length < opqSize)
  (entersQueue s.cur i && !room) || latchHolds s i || (!(fed s.cur u).isEmpty && !room) ||
    (isEngine i && !c.feeds.isEmpty) ||
    (match i with
     | .cpy _ | .cpyw .. => decide (64 ≤ (s.copies.filter fun x => x.pair == s.cur.pair && x.sub != 2).length)
     | .tcpy _ => decide (16 ≤ (s.copies.filter fun x => x.pair == s.cur.pair && x.sub == 2).length)
     | _ => false) ||
    (waitsStores i && !s.cur.stores.isEmpty) ||
    (startsAcquire s i && (!s.cur.stores.isEmpty || releaseHeld s s.cur.pair (acquireScope s i) ||
      (pends s s.cur).any fun p => s.cur.fr.po.contains p.fid)) || ctlHeld s i ||
    (popped s.cur u).any fun k => (s.cur.qregs.getD k default).count == 0

/-- Is the instruction held? -/
def held (s : State) (i : Instr) : Bool := scoreboard s (uses s i) || unitHolds s i (uses s i)

/-! ## Result queues -/

/-- A varying register's value from 256 bytes (R295). -/
def lanesOfBytes (bs : List Byte) : Lanes :=
  mkLanes fun l => BitVec.ofNat 64 (leNat ((bs.drop (8 * l)).take 8))
/-- And back. -/
def bytesOfLanes (x : Lanes) : List Byte := (List.range 32).flatMap fun l => leBytes 8 (laneAt x l).toNat

/-- The head item of queue register `k` goes into its window, in every lane of `lm` (R295). -/
def popQ (s : State) (k : Nat) : State :=
  let q := s.cur.qregs.getD k default
  let item := match blockAt? s s.cur.block with
    | some b => lanesOfBytes (b.scratch.bytes (soffOf q + 256 * (q.head + 1)) 256)
    | none => Lanes.zero
  modCur s fun c =>
    { c.putV (winOf q) c.lm item 0 with
      qregs := c.qregs.setIfInBounds k { q with head := (q.head + 1) % depthOf q, count := q.count - 1 } }

/-- Every pop of one issue. -/
def popAll (s : State) (u : Uses) : State := (popped s.cur u).foldl popQ s

/-! ## One instruction (R43) -/

/-- ILLEGAL with the word that `tinfo` reports, at an address. -/
def illegalAt (s : State) (word : Nat) (at_ : VAddr) : State := takeTrap s { cause := .illegal, info := word } at_
/-- ILLEGAL of the issuing word. -/
def illegal (s : State) : State := illegalAt s s.ir (tpcOf s.cur.fr)

/-- UPARTIAL (R101). -/
def upartial (s : State) : State := raise s { cause := .upartial, lanes := s.cur.lm &&& ~~~s.cur.fr.xm }
/-- An effect that needs a full mask (R101). -/
def needFull (s : State) (k : State → State) : State := if fullMask s then k s else upartial s
/-- An effect with a uniform destination, which needs one unless the destination is `cz` (R101). -/
def needFullFor (s : State) (d : CReg) (k : State → State) : State := if d.val = 63 then k s else needFull s k

/-- A fault that a batch or a latch left with the fragment, which its next issue delivers (R166, R352). -/
def failedTrap (f : Frag) : Option Trap :=
  match f.park with
  | .failed c va lanes info => some { cause := c, addr := va, lanes := lanes, info := info, bad := true }
  | _ => none

/-- Does the instruction at issue replay its launch: a `sigchk` that finds another daymark, or a source with poison in a lane
that would consume it under a replay policy (R120, R196)? -/
def replays (s : State) (i : Instr) (u : Uses) : Bool :=
  let m := curMods s
  let ldr := match regionAt? s s.cur.region with | some r => r.ldr | none => false
  let wins := (popped s.cur u).map fun k => winOf (s.cur.qregs.getD k default)
  let ate := (consumed i u).any fun r => !wins.contains r && s.cur.poisonOf r &&& actOf s m != 0
  (badHint (accepts i) s.cur.fr.run).isNone && (beyond s.cur u (isNrq i)).isEmpty &&
    (match i with
     | .sigchk => s.cur.fr.dmk != (m.wide.getD 0).setWidth 32
     | .lvc .. | .lvcx .. => ldr && fullMask s && ate
     | _ => ldr && ate)

/-- What every instruction meets before its effect, in order (R196): a recorded fault that is due, unless the instruction
replays its launch or is an `end`, which delivers it after its waits (R186); a fault left with its fragment; a hint it does not
accept (R55); a register beyond the allotment (R42, log 5 DESIGN CHOICE safe). -/
def guard (i : Instr) (s : State) (body : Mods → State → State) : State :=
  let u := uses s i
  let due := if i == .endd || replays s i u then none else dueImprec s i u
  match due.or (failedTrap s.cur.fr) with
  | some t => raise s t
  | none =>
    match badHint (accepts i) s.cur.fr.run with
    | some k =>
      illegalAt s (match s.cur.fr.run[k]? with | some h => h.word | none => s.ir) (tpcOf s.cur.fr + BitVec.ofNat 57 (4 * k))
    | none =>
      match beyond s.cur u (isNrq i) with
      | [] => body (curMods s) s
      | b :: bs =>
        let r := choose s (bs.length + 1)
        raise r.2 { cause := .allot, info := (b :: bs).getD r.1 b }

/-- An instruction at the issue stage: nothing while it is held, else what it meets and its effect (R26, R43). -/
def run (i : Instr) (s : State) (body : Mods → State → State) : Res :=
  if s.cur.alive then .next (if held s i then s else guard i s body)
  else .refused .noIssuer

/-! ## Return (R198) -/

/-- The fragment with the lowest split-table entry becomes the issuing one (R193). -/
def focusLowest (s : State) : State :=
  let es := s.cur.all.filterMap fun f => f.entry
  match es with
  | [] => s
  | e :: rest =>
    let lo := rest.foldl min e
    match s.cur.all.find? fun f => f.entry == some lo with
    | some f => (focusFrag s f.fid).getD s
    | none => s

/-- The reason of a PREEMPT: the lowest that applies (R192). -/
def preReason (s : State) : Nat :=
  match regionAt? s s.cur.region with
  | some r => (preReasons s r).headD 2
  | none => 2

/-- PREEMPT is delivered to the crew at issue (R33, R193). -/
def takePreempt (s : State) : State :=
  let s := focusLowest s
  takeTrap s { cause := .preempt, info := preReason s } (tpcOf s.cur.fr)

/-- F's address after the return. A `tpc` that the handler has changed takes F off the join it had arrived at (R193, R198). -/
def backFrag (c : Crew) (f : Frag) : Frag :=
  let pc := c.tpc.setWidth 57
  { f with pc := pc, xm := c.txm.setWidth 32 &&& f.fl &&& c.lm,
           park := if f.park == .join && pc != f.pc then .none else f.park }

/-- The handler's fragments go, and F has its address and mask back (R198). When lanes that died in the handler have taken F away, the
spec names no F: the model has the first fragment left take its place in what follows, with its own address and mask (log 71
DESIGN CHOICE unsafe). -/
def leaveHandler (s : State) : State :=
  let hs := s.cur.all.filter fun f => f.handler
  let gone := predsOf s hs
  let back := s.cur.all.filter fun f => !f.handler
  let fix (f : Frag) : Frag :=
    let f := { f with preds := distinct (f.preds ++ gone) }
    if f.fid == s.cur.trapped then backFrag s.cur f else f
  match back.map fix with
  | [] => s
  | b :: bs =>
    let f := ((b :: bs).find? fun f => f.fid == s.cur.trapped).getD b
    modCur s fun c => { c with
      fr := f, frags := (b :: bs).filter (fun x => x.fid != f.fid),
      cst := { c.cst with lvl := .none } }

/-- The begun trap of the crew at issue, when it can be delivered: of PREEMPT with the fragment that now has the lowest entry (R193,
R376). -/
def settleTrap (s : State) : State :=
  match s.cur.entering with
  | none => s
  | some b =>
    let s' := if b.trap.cause == .preempt then some (focusLowest s) else focusFrag s b.fid
    match s' with
    | none => modCur s fun c => { c with entering := none }
    | some s =>
      let s := if s.cur.all.any barParked then s else translateAll s
      let back := b.resume.getD (tpcOf s.cur.fr, s.cur.fr.dmk)
      if trapReady s b.trap then deliver (modCur s fun c => { c with entering := none }) b.trap back.1 back.2 else s

/-- After the return: a pending PREEMPT, else the oldest recorded fault (R198). -/
def afterReturn (s : State) : State :=
  if s.cur.cst.ppre then takePreempt (modCur s fun c => { c with cst := { c.cst with ppre := false } })
  else match s.cur.imprec with
    | [] => s
    | e :: _ => takeTrap s (imprecTrap s 0 e) s.cur.fr.pc

end Sys2Proof.Machine
end

