-- ==== Sys2Proof/Machine/Flags.lean ====
section
/-! DEFINITION. The flags of `nsf` and `cst` (R75, R141), and the masks that compares write (R128). -/

namespace Sys2Proof.Machine

open Sys2Proof

/-- `nsf.ISAT` (R75). -/
def setIsat (s : State) (b : Bool) : State := setNsf s b 0
/-- `nsf.B8SAT` and `nsf.B8OVF` (R75, R85). -/
def setB8 (s : State) (sat ovf : Bool) : State := setNsf (setNsf s sat 2) ovf 3
/-- `nsf` of a crew set by its engine's commands: `I36` is bit 1, `ISAT` bit 0. -/
def flagCrew (s : State) (cid bit : Nat) (b : Bool) : State :=
  if b then modCrew s cid fun c => { c with nsf := c.nsf ||| BitVec.ofNat 64 (2 ^ bit) } else s
/-- `cst.DSRC` (R141). -/
def setDsrc (s : State) (b : Bool) : State :=
  if b then modCur s fun c => { c with cst := { c.cst with dsrc := true } } else s
/-- A write of `cst`: a 0 clears `DSRC` or `DLN`, a 1 leaves it (R191). -/
def writeCst (s : State) (v : Word) : State :=
  modCur s fun c => { c with cst := { c.cst with dsrc := c.cst.dsrc && v.getLsbD 7, dln := c.cst.dln && v.getLsbD 6 } }
/-- The mask a compare leaves (R128): `t` in the lanes of `act`, 0 in the other lanes of `live(xm)` and in dead lanes, the
rest kept. -/
def cmpMask (old live lm act t : Mask) : Mask := ((old &&& ~~~live) ||| (t &&& act &&& live)) &&& lm

/-- A relation of two integer elements (R128). -/
def relInt (r : Rel) (w a b : Nat) : Bool :=
  match r with
  | .eq => a == b
  | .ne => a != b
  | .lt => decide (toS w a < toS w b)
  | .le => decide (toS w a ≤ toS w b)

/-- A relation of two values (R128). -/
def relFlt (r : Rel) (x y : FVal) : Bool :=
  match r with
  | .eq => x.eqv y
  | .ne => !x.eqv y
  | .lt => !x.isNan && !y.isNan && x.lt y
  | .le => !x.isNan && !y.isNan && !y.lt x

end Sys2Proof.Machine
end

