-- ==== Sys2Proof/Machine/Save.lean ====
section
/-! DEFINITION. Saving a crew and its block, and restoring them (R201 to R203, R221, R298, R327, R420). -/

namespace Sys2Proof.Machine

open Sys2Proof

/-- Bytes of a crew slot and of a block slot (R327). -/
def crewSlotSize : Nat := 0x9A000
def blockSlotSize : Nat := 0x241000

/-- The lowest number not taken among `n`. -/
def lowestFree (taken : List Nat) (n : Nat) : Option Nat := (List.range n).find? fun i => !taken.contains i

/-- Slots of an M-group instance in use. -/
def slotsOf (l : List (Nat × Nat)) (inst : Nat) : List Nat := (l.filter fun x => x.1 == inst).map fun x => x.2

/-- Where a crew slot and a block slot lie. -/
def crewSlotAt (r : Region) (n : Nat) : Nat := r.svb + crewSlotSize * n
def blockSlotAt (r : Region) (n : Nat) : Nat := r.svb + crewSlotSize * r.scs + blockSlotSize * n

/-! ## The crew record (R202) -/

/-- Fragments in entry order, spilled ones last, oldest spill first; without handler fragments (R200, R420). -/
def savedFrags (c : Crew) : List Frag :=
  let own := c.all.filter fun f => !f.handler
  let res := sortBy (fun a b => decide (a.entry.getD 0 ≤ b.entry.getD 0)) (own.filter fun f => f.entry.isSome)
  let spl := sortBy (fun a b => decide (a.order ≤ b.order)) (own.filter fun f => f.entry.isNone)
  res ++ spl

/-- The join records that some fragments carry, with the records around them. -/
def joinsUsed (js : List JoinRec) : Nat → List Nat → List Nat
  | 0, acc => acc
  | n + 1, acc =>
    joinsUsed js n (distinct (acc ++ (js.filter fun j => acc.contains j.jid).filterMap fun j => j.outer))

def savedJoins (c : Crew) (fs : List Frag) : List JoinRec :=
  let used := joinsUsed c.joins c.joins.length (distinct (fs.filterMap fun f => f.join))
  c.joins.filter fun j => used.contains j.jid

/-- A record's index, 0xFFFF for none. -/
def joinIndex (js : List JoinRec) (j : Option Nat) : Nat :=
  match j with
  | none => 0xFFFF
  | some n => (firstIdx (fun (x : JoinRec) => x.jid == n) js).getD 0xFFFF

/-- A fragment record. -/
def fragBytes (js : List JoinRec) (f : Frag) : List Byte :=
  let flags := (f.park == .join).toNat + 2 * f.hold.isSome.toNat + 4 * f.entry.isNone.toNat
  leBytes 8 f.pc.toNat ++ leBytes 4 f.fl.toNat ++ leBytes 4 f.xm.toNat ++ leBytes 4 f.dmk.toNat ++
    leBytes 2 (joinIndex js f.join) ++ leBytes 2 flags ++ leBytes 8 0

/-- A join record. -/
def joinBytes (js : List JoinRec) (j : JoinRec) : List Byte :=
  leBytes 8 j.j.toNat ++ leBytes 4 j.p.toNat ++ leBytes 2 (joinIndex js j.outer) ++ leBytes 2 0

/-- An element of a tile. -/
def tileAt (t : Tile) (i : Nat) : Nat := kgetD t i 0

/-- A tile's 18,432 bytes: elements of 36 bits in row order, packed (R202). -/
def tileBytes (t : Tile) : List Byte :=
  (List.range 2048).flatMap fun i => leBytes 9 (tileAt t (2 * i) + 2 ^ 36 * tileAt t (2 * i + 1))

/-- The status as a save records it: after a save at level 11 the pre-emption is complete (R200, R420). -/
def savedCst (c : Crew) : Crew :=
  if c.cst.lvl == .preempt then { c with cst := { c.cst with lvl := .none, ppre := false } } else c

/-- The crew save record (R202). -/
def recordBytes (c : Crew) (reason : Nat) (blkIndex : Nat) : List Byte :=
  let c := savedCst c
  let fs := savedFrags c
  let js := savedJoins c fs
  let words (l : List Word) : List Byte := l.flatMap fun w => leBytes 8 w.toNat
  leBytes 2 5 ++ leBytes 1 c.vn ++ leBytes 1 c.tn ++ leBytes 1 fs.length ++ leBytes 1 reason ++ leBytes 2 js.length ++
    leBytes 4 c.ft.toNat ++ leBytes 4 blkIndex ++ leBytes 48 0 ++
    (words (c.c.toList.take 63)) ++ leBytes 8 0 ++
    ((c.a.toList.take 31).flatMap fun a => leBytes 8 a.base.toNat ++ leBytes 8 (a.stride.signExtend 64).toNat) ++
    leBytes 16 0 ++ (c.m.toList.flatMap fun m => leBytes 4 m.toNat) ++ leBytes 4 c.lm.toNat ++ leBytes 28 0 ++
    words [c.nbv, c.nsf, c.gang, cstWord c, c.tcause, c.tpc, c.taddr, c.tlanes, c.tinfo, c.txm, c.tk0, c.tk1] ++
    leBytes 32 0 ++
    (fs.flatMap (fragBytes js)) ++ leBytes (32 * (33 - fs.length)) 0 ++
    (js.flatMap (joinBytes js)) ++ leBytes (16 * (256 - js.length)) 0 ++
    ((List.range c.vn).flatMap fun r => bytesOfLanes (c.vreg r)) ++
    ((c.tiles.toList.take c.tn).flatMap tileBytes)

/-! ## Saving (R201) -/

/-- The tile of member `j` that a queued peer drain of `cid`'s gang names, as a crew index (R167, R172). -/
def EngCmd.peerIdx : EngCmd → Option Nat
  | .mdrnPeer _ _ a _ _ grp _ _ => some (grp.toNat / 2 ^ (3 + 5 * (a.toNat % 8)) % 32)
  | _ => none

/-- Does a queued peer drain of its block name a tile of this crew (R172)? -/
def peerNames (s : State) (k : Crew) : Bool :=
  (coreAt s k.pair).opq.any fun e => match e.peerIdx with
    | some i => i == k.idx && e.cids.any fun c => match crew? s c with
        | some x => x.block == k.block
        | none => s.ghosts.any fun g => g.cid == c && g.block == k.block
    | none => false

/-- Is everything done that the save of the crew at issue waits for (R172, R201, R221, R376)? -/
def quiet (s : State) : Bool :=
  let k := s.cur
  let q := coreAt s k.pair
  !(k.all.any barParked) && !(s.withdrawals.any fun w => w.1 == k.cid) && (barPending s k.cid).isEmpty &&
    k.stores.isEmpty && k.futs.isEmpty && !(s.storeQ.any fun x => x.cid == k.cid) &&
    !(q.opq.any fun e => e.cids.contains k.cid) && !(q.infq.any fun r => r.cid == k.cid) &&
    !(q.feeds.any fun f => f.cid == k.cid) && !peerNames s k

/-- Queue bindings and headers go to the queue table and the result areas (R298). -/
def writeQueues (s : State) : State :=
  let k := s.cur
  modBlock s k.block fun b =>
    match b.qtab with
    | none => b
    | some off =>
      (List.range 8).foldl (fun b i =>
        let q := k.qregs.getD i default
        let m := b.scratch.writes (off + 64 * k.idx + 8 * i) (leBytes 8 q.word.toNat)
        { b with scratch := if isResultQ q then m.writes (soffOf q) [BitVec.ofNat 8 q.head, BitVec.ofNat 8 q.count] else m }) b

/-- Crews of a block on its core. -/
def residentOf (s : State) (b : Nat) : List Crew := (allCrews s).filter fun c => c.block == b

/-- A park that a saved crew keeps its place in (R31, R193): at a swap-out also the counter it waits on. -/
def keptPark (reason : Nat) (f : Frag) : Option Park :=
  match f.park with
  | .lnch .. | .cpyw .. | .cont => some f.park
  | .wait .. => if reason = 3 then some f.park else none
  | _ => none

/-- The parks that a save keeps: of the fragments in the record by their place there, of handler fragments, which the record
does not hold, from 64 on (R31, R420). -/
def keptParks (c : Crew) : List (Nat × Park) :=
  let of (fs : List Frag) (n : Nat) : List (Nat × Park) :=
    fs.zipIdx.filterMap fun x => (keptPark c.saving x.1).map fun p => (n + x.2, p)
  of (savedFrags c) 0 ++ of (c.all.filter fun f => f.handler) 64

/-- The cycle since which a fragment has been parked under R31. -/
def parkedSince (f : Frag) : Option Nat :=
  match f.park with
  | .wait _ _ _ _ t | .lnch _ t _ | .cpyw _ t => some t
  | _ => none

/-- The fragments of a crew that a handler does not suspend. -/
def activeFrags (c : Crew) : List Frag := c.all.filter fun f => c.cst.lvl == .none || f.handler

/-- Has a crew that is being swapped out had its condition met before its save was made (R332)? -/
def metMeanwhile (c : Crew) : Bool :=
  c.saving == 3 && (activeFrags c).any fun f => (parkedSince f).isNone && f.park != .join

/-- The cycle of that is noted, once (R332). -/
def noteMet (s : State) : State :=
  if metMeanwhile s.cur && s.cur.metAt.isNone then modCur s fun c => { c with metAt := some s.now } else s

/-- A swap-out that finds no slot is not made: the crew stays (R327, R332, log 55 DEDUCED unsafe). -/
def dropSwap (s : State) : State := modCur s fun c => { c with saving := 0, metAt := none }

/-- Crew slots, and block slots but for block `b`'s own, that swap-outs in progress on an M-group instance have been promised
(R327, R332). -/
def promised (s : State) (inst b : Nat) : Nat × Nat :=
  let outs := (allCrews s).filter fun c => c.saving == 3 && (regionAt? s c.region).any fun r => r.instM == inst
  let whole := (distinct (outs.map fun c => c.block)).filter fun k => k != b && (residentOf s k).all fun c => c.saving != 0
  (outs.length, whole.length)

/-- The lowest free slot among `n`, when as many as are promised to others stay free beside it. -/
def slotBeside (taken : List Nat) (n promised : Nat) : Option Nat :=
  if taken.length + promised < n then lowestFree taken n else none

/-- The crew at issue is saved (R201): its slots are taken, its writes released, its record written, its core freed (log 55
DEDUCED unsafe). -/
def saveCur (s : State) : State :=
  let k := s.cur
  match regionAt? s k.region with
  | none => saveFail s
  | some r =>
    let last := (residentOf s k.block).length == 1
    let kept := promised s r.instM k.block
    match slotBeside (slotsOf s.rg.crewSlots r.instM) r.scs (kept.1 - (k.saving == 3).toNat) with
    | none => if k.saving = 3 then dropSwap s else saveFail s
    | some slot =>
      let bslot := slotBeside (slotsOf s.rg.blockSlots r.instM) r.sbs kept.2
      if last && bslot.isNone then (if k.saving = 3 then dropSwap s else saveFail s)
      else
        let s := releaseAt s k.pair .device
        let s := modCore s k.pair fun c => { c with plog := c.plog.map fun e => { e with pro := true } }
        let s := withdrawAll (withdrawPlaces (writeQueues s)) fun _ => false
        let blkIndex := match blockAt? s k.block with | some b => b.index | none => 0
        let bytes := recordBytes s.cur k.saving blkIndex
        match writeVirtual s k.pair (crewSlotAt r slot) bytes with
        | none => saveFail (countUncorr s (badPlace? s (crewSlotAt r slot) bytes.length).toList)
        | some s =>
          let c := s.cur
          let tr := (firstIdx (fun (f : Frag) => f.fid == c.trapped) (savedFrags c)).getD 0
          let sv : SavedCrew :=
            { cid := c.cid, launch := c.launch, block := c.block, idx := c.idx, region := c.region, kind := c.kind,
              slot := slot, group := r.instM, reason := k.saving, vn := c.vn, tn := c.tn, joint := c.joint, owes := c.owes,
              ftmap := c.ftmap, ftst := c.ftst, poison := c.poison, imprec := c.imprec,
              recs := (coreAt s c.pair).sfq.filter fun x => x.cid == c.cid,
              trapped := tr, kept := keptParks k, regs := [], met := k.metAt.isSome,
              ready := if crewStopped s k.region then none else k.metAt }
          let s := leaveCore s c false
          let s := if k.saving = 3 then modCore s c.pair fun q => countEvt q 0x09 1 else s
          let rg := { s.rg with
            crewSlots := s.rg.crewSlots ++ [(r.instM, slot)],
            blockSlots := if last then s.rg.blockSlots ++ (bslot.toList.map fun n => (r.instM, n)) else s.rg.blockSlots }
          let s := { s with cur := Crew.none, saved := s.saved ++ [sv], rg := rg }
          let s := if last then modBlock s c.block fun b => { b with saveSlot := bslot } else s
          releaseSaved s

/-- Must the record of the crew at issue wait, for a page that migrates or a link, at its release too (R345, R393)? -/
def saveMoves (s : State) : Bool :=
  releaseHeld s s.cur.pair .device || match regionAt? s s.cur.region with
  | some r => match lowestFree (slotsOf s.rg.crewSlots r.instM) r.scs with
    | some n => mustHold s (corePort s.cur.pair) (crewSlotAt r n) (0x1920 + 256 * s.cur.vn + 18432 * s.cur.tn)
    | none => false
  | none => false

/-- A save in progress is made once nothing is left to wait for; its stores translate meanwhile (R201). -/
def trySave (s : State) : State :=
  if s.cur.saving = 0 then s
  else
    let s := translateAll s
    if quiet s && !saveMoves s then saveCur s else s

/-! ## The block record (R203) -/

/-- Does a command still write the block's window or scratchpad (R187, R201 step 5)? -/
def blockBusy (s : State) (b : Block) : Bool :=
  s.copies.any (fun x => x.block == b.bid) ||
    (match b.pair with
     | some p =>
       let c := coreAt s p
       let mine (cid : Nat) : Bool := s.saved.any (fun k => k.cid == cid && k.block == b.bid) ||
         s.ghosts.any fun k => k.cid == cid && k.block == b.bid
       c.opq.any (fun e => e.cids.any mine) || c.feeds.any (fun f => mine f.cid) || c.infq.any fun r => mine r.cid
     | none => false)

/-- Do the commands of the engines, or a tensor copy, of the block's crews, retired ones included, still read or write the
window (R154, R201 step 5)? -/
def windowBusy (s : State) (b : Block) : Bool :=
  blockBusy { s with copies := s.copies.filter fun x => x.sub == 2 } b

/-- A saved crew is ended with SAVEF, and its region is held (R192, R201, R221, R327). -/
def endSaved (s : State) (k : SavedCrew) : State :=
  let s := { s with
    saved := s.saved.filter (fun x => x.cid != k.cid),
    rg := { s.rg with crewSlots := s.rg.crewSlots.filter fun x => x != (k.group, k.slot) } }
  let s := modBlock s k.block fun b => { b with retired := b.retired ++ [k.idx] }
  holdRegion (report (latchRetire s k.block k.idx) "SAVEF" [k.cid, k.launch, k.region, fdomOf s k.region]) k.region

/-- A block cannot leave its core whole: the crew saved last, whose save needed the slot, is ended (R201, R327, log 55 DEDUCED
unsafe). -/
def blockFail (s : State) (b : Block) : State :=
  match (s.saved.filter fun k => k.block == b.bid).getLast? with
  | some k => endSaved s k
  | none => s

/-- The block record is written into the block's slot, and its core's room is free (R203, R327). -/
def writeBlock (s : State) (b : Block) : State :=
  match b.pair, b.saveSlot, regionOf s b.launch with
  | some p, some n, some r =>
    let at_ := blockSlotAt r n
    if mustHold s (corePort p) at_ blockSlotSize then s else
    let sc := b.scratch.bytes 0 b.scratchSize
    let win := (coreAt s p).tstore.bytes b.winBase b.winSize
    (match (writeVirtual s p (at_ + 4096) sc).bind fun t => writeVirtual t p (at_ + 4096 + 262144) win with
     | some u => modBlock u b.bid fun x => { x with pair := none }
     | none => blockFail (countUncorr s ((badPlace? s (at_ + 4096) b.scratchSize).or
         (badPlace? s (at_ + 4096 + 262144) b.winSize)).toList) b)
  | _, _, _ => s

/-- Blocks without a resident crew and with a saved one leave their core (R203, R327). -/
def settleBlocks (s : State) : State :=
  s.blocks.foldl (fun s b =>
    if b.pair.isSome && (residentOf s b.bid).isEmpty && s.saved.any (fun k => k.block == b.bid) && !windowBusy s b then
      match regionOf s b.launch with
      | some r => match b.saveSlot with
        | some _ => writeBlock s b
        | none => match slotBeside (slotsOf s.rg.blockSlots r.instM) r.sbs (promised s r.instM b.bid).2 with
          | some n =>
            let s := { s with rg := { s.rg with blockSlots := s.rg.blockSlots ++ [(r.instM, n)] } }
            writeBlock (modBlock s b.bid fun x => { x with saveSlot := some n }) { b with saveSlot := some n }
          | none => blockFail s b
      | none => s
    else s) s

/-! ## Restoring (R203, R331) -/

/-- A number in a record. -/
def recNat (bs : List Byte) (at_ n : Nat) : Nat := leNat ((bs.drop at_).take n)

/-- Does a record keep the limits of R202 (R221)? -/
def recordOk (bs : List Byte) : Bool :=
  let vn := recNat bs 2 1
  let f := recNat bs 4 1
  recNat bs 0 2 == 5 && decide (8 ≤ vn) && decide (vn ≤ 128) && vn % 8 == 0 && decide (recNat bs 3 1 ≤ 32) &&
    decide (1 ≤ f) && decide (f ≤ 33) && decide (recNat bs 6 2 ≤ 256) &&
    (List.range f).all fun i =>
      let pc := recNat bs (0x500 + 32 * i) 8
      pc % 4 == 0 && decide (pc < 2 ^ 57)

/-- A tile from its bytes, elements that are not 0 only. -/
def tileOf (bs : List Byte) : Tile :=
  (List.range 4096).filterMap fun i =>
    let x := recNat bs (9 * (i / 2)) 9 / 2 ^ (36 * (i % 2)) % 2 ^ 36
    if x = 0 then none else some (i, x)

/-- A crew from its record, on a core and slot, with names for its fragments from `id`. Bits of `nbv` and `nsf` that the
registers do not have are dropped; a `VER` of neither 4 nor 5, which R74 keeps a program from writing but a changed record may
hold, stays and acts as 5 (R74, R75, R221, log 59 DESIGN CHOICE unsafe). -/
def crewOfRecord (k : SavedCrew) (bs : List Byte) (p sl id : Nat) : Crew :=
  let word (a : Nat) : Word := BitVec.ofNat 64 (recNat bs a 8)
  let mask (a : Nat) : Mask := BitVec.ofNat 32 (recNat bs a 4)
  let nj := recNat bs 6 2
  let link (a : Nat) : Option Nat := if recNat bs a 2 < nj then some (id + 64 + recNat bs a 2) else none
  let js : List JoinRec := (List.range nj).map fun i =>
    let a := 0x920 + 16 * i
    ⟨id + 64 + i, BitVec.ofNat 57 (recNat bs a 8), mask (a + 8), link (a + 12)⟩
  let kept (i : Nat) : Park := match k.kept.find? fun x => x.1 == i with
    | some (_, .lnch cd t l) => .lnch cd t l
    | some (_, .cpyw c t) => .cpyw c t
    | some (_, .cont) => .cont
    | _ => .none
  let fs : List Frag := (List.range (recNat bs 4 1)).map fun i =>
    let a := 0x500 + 32 * i
    let fl := recNat bs (a + 22) 2
    { Frag.zero with
      fid := id + i, pc := BitVec.ofNat 57 (recNat bs a 8), fl := mask (a + 8), xm := mask (a + 12),
      dmk := BitVec.ofNat 32 (recNat bs (a + 16) 4), join := link (a + 20), order := id + i, stamp := id + i,
      park := if fl % 2 = 1 then .join else kept i, hold := if fl / 2 % 2 = 1 then some 0 else none }
  let vn := recNat bs 2 1
  let tn := recNat bs 3 1
  let cw := recNat bs 0x498 8
  let lvl := match cw / 16 % 4 with | 0 => Level.none | 1 => .user | 2 => .supervisor | _ => .preempt
  let tb := 0x1920 + 256 * vn
  { Crew.none with
    alive := true, cid := k.cid, launch := k.launch, block := k.block, idx := k.idx, region := k.region, pair := p,
    slot := sl, kind := k.kind,
    c := Vector.ofFn fun i => if i.val = 63 then 0 else word (0x40 + 8 * i.val),
    a := Vector.ofFn fun i => if i.val = 31 then ⟨0, 0⟩
      else ⟨word (0x240 + 16 * i.val), BitVec.ofNat 32 (recNat bs (0x248 + 16 * i.val) 4)⟩,
    v := Vector.ofFn fun r => if r.val < vn then lanesOfBytes ((bs.drop (0x1920 + 256 * r.val)).take 256) else Lanes.zero,
    m := Vector.ofFn fun i => mask (0x440 + 4 * i.val), vn := vn, tn := tn,
    tiles := Vector.ofFn fun t => if t.val < tn then tileOf ((bs.drop (tb + 18432 * t.val)).take 18432) else [],
    ft := mask 8, lm := mask 0x460,
    nbv := word 0x480 &&& 15, nsf := word 0x488 &&& 15, gang := word 0x490,
    cst := ⟨cw / 128 % 2 == 1, cw / 64 % 2 == 1, lvl, cw / 8 % 2 == 1⟩,
    tcause := word 0x4A0, tpc := word 0x4A8, taddr := word 0x4B0, tlanes := word 0x4B8, tinfo := word 0x4C0,
    txm := word 0x4C8, tk0 := word 0x4D0, tk1 := word 0x4D8,
    joint := k.joint, owes := k.owes, ftmap := k.ftmap, ftst := k.ftst, imprec := k.imprec, trapped := id + k.trapped, joins := js,
    fr := fs.headD Frag.zero, frags := fs.drop 1 }

/-- Entries for the fragments of the crew at issue, as far as there is room (R180, R203). -/
def takeEntries (s : State) : State :=
  s.cur.all.foldl (fun s f =>
    match freeEntry? s s.cur.pair s.cur.slot with
    | some e => modCur s fun c => c.modFrag f.fid fun x => { x with entry := some e }
    | none => s) s

/-- A binding from its word in the queue table, with its header (R293, R298). -/
def qregOf (m : Mem) (at_ : Nat) : QReg :=
  let w : Word := BitVec.ofNat 64 (leNat (m.bytes at_ 8))
  let q : QReg := ⟨w, 0, 0⟩
  if isResultQ q then ⟨w, (m.read (soffOf q)).toNat % 64, (m.read (soffOf q + 1)).toNat % 128⟩ else q

/-- Bindings and headers are read back (R298). -/
def readQueues (s : State) : State :=
  let k := s.cur
  match blockAt? s k.block with
  | some b =>
    (match b.qtab with
     | none => s
     | some off =>
       modCur s fun c => { c with qregs := Vector.ofFn fun i => qregOf b.scratch (off + 64 * k.idx + 8 * i.val) })
  | none => s

/-- A trap in progress at the save is delivered again: a new handler fragment at its level's address (R420). -/
def redeliver (s : State) : State :=
  let addr := match regionAt? s s.cur.region with
    | some r => (match s.cur.cst.lvl with | .user => r.uha | .supervisor => r.sha | _ => 0)
    | none => 0
  match s.cur.cst.lvl with
  | .none | .preempt => s
  | _ =>
    let e := takeEntry s s.cur.fr.fid
    let n := fresh e.2
    let st := stampNow n.2
    let k : Frag := { Frag.zero with
      fid := n.1, pc := BitVec.ofNat 57 addr, fl := st.2.cur.lm, xm := st.2.cur.lm, entry := some e.1, stamp := st.1,
      handler := true }
    modCur st.2 fun c => { c with fr := k, frags := c.all }

/-- The block's scratchpad and window are read back onto core `p`, with what copies have written to the scratchpad since the
record (R201, R203, R379). -/
def readBlock (s : State) (b : Block) (r : Region) (p winBase : Nat) : Option State :=
  match b.saveSlot with
  | none => some s
  | some n =>
    let at_ := blockSlotAt r n
    match readVirtual s p (at_ + 4096) b.scratchSize with
    | none => none
    | some (sc, s) => match readVirtual s p (at_ + 4096 + 262144) b.winSize with
      | none => none
      | some (win, s) =>
        let s := modBlock s b.bid fun x => { x with
          pair := some p, winBase := winBase, saveSlot := none, late := [],
          scratch := b.late.foldl (fun m y => m.write y.1 y.2) (Mem.writes [] 0 sc) }
        let s := modCore s p fun c => { c with tstore := c.tstore.writes winBase win }
        some { s with rg := { s.rg with blockSlots := s.rg.blockSlots.filter fun x => x != (r.instM, n) } }

/-- A block that has not left its core stays, and the slot it was to be written to is free again (R327). -/
def keepBlock (s : State) (b : Block) (r : Region) : State :=
  match b.saveSlot with
  | none => s
  | some n =>
    let s := modBlock s b.bid fun x => { x with saveSlot := none }
    { s with rg := { s.rg with blockSlots := s.rg.blockSlots.filter fun x => x != (r.instM, n) } }

/-- A crew record as it stands in memory: its fixed part first, then what its counts add (R202, R221, log 55 DEDUCED unsafe). -/
def readRecord (s : State) (p at_ : Nat) : Option (List Byte × State) :=
  match readVirtual s p at_ 0x1920 with
  | none => none
  | some (h, s) =>
    match readVirtual s p (at_ + 0x1920) (256 * min (recNat h 2 1) 128 + 18432 * min (recNat h 3 1) 32) with
    | none => none
    | some (t, s) => some (h ++ t, s)

/-- An uncorrectable line of what a swap-in reads: the crew's record, and its block's when that was saved whole (R203, R390). -/
def recordBad (s : State) (k : SavedCrew) (r : Region) (b : Block) : Option PA :=
  (badPlace? s (crewSlotAt r k.slot) (0x1920 + 256 * k.vn + 18432 * k.tn)).or
    (match b.pair, b.saveSlot with
     | none, some n => (badPlace? s (blockSlotAt r n + 4096) b.scratchSize).or (badPlace? s (blockSlotAt r n + 4096 + 262144) b.winSize)
     | _, _ => none)

/-- Swap-in of a saved crew to slot `sl` of core `p`: an acquire at device scope, its block first when it was saved whole,
then every item of its record; a line of them that is uncorrectable replays the launch (R203, R221, R331, R390, log 15 DESIGN CHOICE
safe). -/
def restoreCrew (s : State) (k : SavedCrew) (p sl winBase : Nat) : State :=
  match regionAt? s k.region, blockAt? s k.block with
  | some r, some b =>
    match recordBad s k r b with
    | some pa => replayLaunch (countUncorr s [pa]) k.launch .uncorr
    | none =>
    let s := acquireAt s p .device
    let whole := if b.pair.isNone then readBlock s b r p winBase else some (keepBlock s b r)
    (match whole with
     | none => endSaved s k
     | some s =>
       match readRecord s p (crewSlotAt r k.slot) with
       | none => endSaved s k
       | some (bs, s) =>
         if !recordOk bs then endSaved s k
         else
           let c := crewOfRecord k bs p sl s.nextId
           let keepP := choose s 2
           let junk := choose keepP.2 (2 ^ 64)
           let s := { junk.2 with nextId := s.nextId + 64 + 256 }
           let c := { c with poison := if keepP.1 = 1 then k.poison else c.poison, sfra := BitVec.ofNat 64 junk.1 }
           let c := k.regs.foldl (fun c x => if x.1 = 63 then c else { c with c := c.c.setIfInBounds x.1 x.2 }) c
           let s := modCore s p fun q => { q with
             vfree := q.vfree - c.vn / 8, tfree := q.tfree - c.tn, sfq := q.sfq ++ k.recs }
           let s := { s with
             cur := c, crews := (if s.cur.alive then s.cur :: s.crews else s.crews),
             saved := s.saved.filter (fun x => x.cid != k.cid),
             rg := { s.rg with crewSlots := s.rg.crewSlots.filter fun x => x != (k.group, k.slot) } }
           redeliver (readQueues (takeEntries s)))
  | _, _ => s

end Sys2Proof.Machine
end

