-- ==== Sys2Proof/Machine/Control.lean ====
section
/-! DEFINITION. Control instructions and special registers (R59, R176 to R191, R198, R200, R151, R348, R364). -/

namespace Sys2Proof.Machine

open Sys2Proof

/-- A target: a signed word offset from the instruction's address (R48). -/
def targetOf (s : State) {n : Nat} (o : BitVec n) : VAddr := s.cur.fr.pc + BitVec.ofInt 57 (4 * o.toInt)

/-! ## Branches -/

def execBr (o : BitVec 18) (s : State) : Res := run (.br o) s fun _ s => completeAt s (targetOf s o)

/-- A branch on a uniform value (R176). -/
def branchIf (s : State) (o : BitVec 18) (b : Bool) : State := if b then completeAt s (targetOf s o) else complete s

def execBrcZ (t : CReg) (o : BitVec 18) (s : State) : Res := run (.brcZ t o) s fun _ s => branchIf s o (getC s t == 0)
def execBrcNz (t : CReg) (o : BitVec 18) (s : State) : Res := run (.brcNz t o) s fun _ s => branchIf s o (getC s t != 0)
def execBrcNeg (t : CReg) (o : BitVec 18) (s : State) : Res :=
  run (.brcNeg t o) s fun _ s => branchIf s o (getC s t).msb

def execCall (l : CReg) (o : BitVec 18) (s : State) : Res :=
  run (.call l o) s fun _ s => needFullFor s l fun s =>
    completeAt (setC s l ((s.cur.fr.pc + 4).setWidth 64)) (targetOf s o)

/-- Is a value no target of an indirect branch (R177)? -/
def badPc (v : Word) : Bool := v.toNat % 4 != 0 || decide (2 ^ 57 ≤ v.toNat)

/-- An indirect branch (R177). -/
def jumpTo (s : State) (v : Word) : State :=
  if badPc v then raise s { cause := .badpc, addr := v.toNat } else completeAt s (v.setWidth 57)

def execJmpi (a : CReg) (s : State) : Res := run (.jmpi a) s fun _ s => jumpTo s (getC s a)
def execRet (a : CReg) (s : State) : Res := run (.ret a) s fun _ s => jumpTo s (getC s a)

/-- An event constant folded as a word (R188). -/
def foldEvt (d : BitVec 32) (n : Nat) : BitVec 32 := crcWord d n

/-- The fragment goes one way whole: `brv` with an empty side (R178). -/
def brvWhole (s : State) (pc : VAddr) (x : Mask) (evt : Nat) (link : Option Nat) : State :=
  modFr (completeAt s pc) fun f => { f with xm := x, dmk := foldEvt f.dmk evt, join := link }

/-- The two children of a split (R178). -/
def brvSplit (s : State) (target : VAddr) (t n i : Mask) (link : Option Nat) : State :=
  let e := takeEntry s s.cur.fr.fid
  let nm := fresh e.2
  let st := stampNow nm.2
  let s := complete st.2
  let f := s.cur.fr
  let live := pendingFids s.cur s
  let pre := distinct ((f.fid :: f.preds).filter fun k => live.contains k)
  let nm2 := fresh s
  let g : Frag := { f with
    fid := nm.1, pc := target, fl := t, xm := t, dmk := foldEvt f.dmk 1, join := link, entry := some e.1, stamp := st.1,
    order := 0, passed := 0, hold := none, preds := pre }
  modCur nm2.2 fun c => { c with
    fr := { c.fr with fid := nm2.1, fl := n ||| i, xm := n, dmk := foldEvt f.dmk 2, join := link, preds := pre },
    frags := c.frags ++ [g] }

/-- A new join record around the fragment's lanes (R178). -/
def newJoin (s : State) (j : VAddr) : Nat × State :=
  let n := fresh s
  (n.1, modCur n.2 fun c => { c with joins := c.joins ++ [⟨n.1, j, c.fr.fl &&& c.lm, c.fr.join⟩] })

def execBrv (m : MReg) (o : BitVec 23) (s : State) : Res :=
  run (.brv m o) s fun md s =>
    let a := liveXm s
    let t := a &&& getM s m
    let n := a &&& ~~~(getM s m)
    let i := s.cur.fr.fl &&& s.cur.lm &&& ~~~a
    if md.join.isSome && decide (256 ≤ s.cur.joins.length) then raise s { cause := .divovf, info := 256 }
    else
      let l := match md.join with
        | some j =>
          let r := newJoin s (s.cur.fr.pc + BitVec.ofInt 57 (4 * j))
          (some r.1, r.2)
        | none => (s.cur.fr.join, s)
      let s := l.2
      if t == 0 then brvWhole s (s.cur.fr.pc + 4) n 2 l.1
      else if n == 0 then brvWhole s (targetOf s o) t 1 l.1
      else brvSplit s (targetOf s o) t n i l.1

/-! ## Other control -/

def execNop (s : State) : Res := run .nop s fun _ s => complete s

def execElect (m : MReg) (s : State) : Res :=
  run (.elect m) s fun _ s => complete (setXm (setM s m s.cur.fr.xm) (lowestBit (liveXm s)))

def execYield (s : State) : Res :=
  run .yield s fun _ s => modFr (complete s) fun f => { f with hold := some 0, passed := 0 }

/-- Copies of a crew in flight. -/
def copiesOf (s : State) (cid : Nat) (tensor : Bool) : Nat :=
  (s.copies.filter fun x => x.cid == cid && (x.sub == 2) == tensor).length

/-- What `end` waits for (R186): no pending register, no engine command or copy, no untranslated store. -/
def endReady (s : State) : Bool :=
  let k := s.cur
  !(k.futs.any fun f => f.dest != .none) && engCount s k.pair k.cid == 0 && copiesOf s k.cid false == 0 &&
    copiesOf s k.cid true == 0 && k.stores.isEmpty

/-- The fragment's lanes leave the crew, which retires with its last lane (R186, R187). -/
def retireFrag (s : State) : State :=
  let gone := s.cur.fr.fl
  let s := modCur s fun c => { c.mapFrags (fun f => { f with fl := f.fl &&& ~~~gone, xm := f.xm &&& ~~~gone }) with
    lm := c.lm &&& ~~~gone }
  if s.cur.lm == 0 then retireCur s else pruneFrags s

/-- `end` as far as it can go: it waits, then a recorded fault is due, or the fragment retires (R186). -/
def endStep (s : State) : State :=
  let s := translateAll s
  if !endReady s then parkAs s .ending
  else match dueImprec s .endd {} with
    | some t => raise s t
    | none => retireFrag s

def execEnd (s : State) : Res := run .endd s fun _ s => endStep s

def execTrap (a : CReg) (s : State) : Res :=
  run (.trap a) s fun _ s =>
    let f := s.cur.fr
    takeTrap s { cause := .trapi, info := (getC s a).toNat } (f.pc + 4) (foldRun f.dmk f.run s.ir)

/-- The crew asks to be saved (R200). -/
def pdoneNow (s : State) : State := trySave (startSave s 1)

def execRft (s : State) : Res :=
  run .rft s fun _ s =>
    if s.cur.cst.lvl == .none then illegal s
    else needFull s fun s =>
      if s.cur.cst.lvl == .preempt then pdoneNow s
      else if badPc s.cur.tpc then raise s { cause := .badpc, addr := s.cur.tpc.toNat }
      else afterReturn (leaveHandler s)

def execPdone (s : State) : Res :=
  run .pdone s fun _ s => if s.cur.cst.lvl == .preempt then needFull s pdoneNow else illegal s

/-- Stores and reply-less atomics of a crew not yet performed (R185). -/
def storesLeft (s : State) (c : Crew) : Nat :=
  (distinct ((c.stores.map fun x => x.id) ++ ((s.storeQ.filter fun x => x.cid == c.cid).map fun x => x.id))).length +
    (c.futs.filter fun f => match f.kind with | .atom .. => f.dest == .none | _ => false).length

/-- What `wcnt` counts for its selected classes (R185). -/
def wcntCount (s : State) (c : Crew) (sel : Nat) : Nat :=
  (if sel % 2 = 1 then storesLeft s c else 0) + (if sel / 2 % 2 = 1 then copiesOf s c.cid false else 0) +
    (if sel / 4 % 2 = 1 then copiesOf s c.cid true else 0) + (if sel / 8 % 2 = 1 then engCount s c.pair c.cid else 0)

def execWcnt (a : CReg) (s : State) : Res :=
  run (.wcnt a) s fun _ s =>
    let v := (getC s a).toNat
    let sel := if v % 16 = 0 then 15 else v % 16
    let q := v / 2 ^ 16 % 64
    if wcntCount s s.cur sel ≤ q then complete s else parkAs s (.wcnt sel q)

/-- `sigchk`: a daymark other than expected is reported, and the launch is replayed (log 25 DEDUCED unsafe). -/
def execSigchk (s : State) : Res :=
  run .sigchk s fun m s =>
    let want : BitVec 32 := (m.wide.getD 0).setWidth 32
    let got := s.cur.fr.dmk
    let s := modFr s fun f => { f with dmk := 0xFFFFFFFF, run := [], pc := f.pc + 4, park := .none }
    if got == want then s
    else replayLaunch (report s "SIGMISS" [got.toNat, want.toNat]) s.cur.launch .sigmiss

/-! ## Hints (R52, R57, R58) -/

/-- A hint joins its fragment's run; one that breaks the limits of R52 raises ILLEGAL at its own address, or at the high
hint before it (log 20 DEDUCED unsafe). -/
def hintStep (i : Instr) (h : Hint) (s : State) : Res :=
  if !s.cur.alive then .refused .noIssuer
  else
    let run := s.cur.fr.run
    .next (match (dueImprec s i {}).or (failedTrap s.cur.fr) with
      | some t => raise s t
      | none =>
        if runBreaks run h then illegalAt s (match run.getLast? with | some x => x.word | none => s.ir) (s.cur.fr.pc - 4)
        else if !runAdmits run h then illegalAt s s.ir s.cur.fr.pc
        else modFr s fun f => { f with run := f.run ++ [h], pc := f.pc + 4, park := .none })

def execHintLo (p : BitVec 24) (s : State) : Res := hintStep (.hintLo p) (.lo p) s
def execHintHi (p : BitVec 24) (s : State) : Res := hintStep (.hintHi p) (.hi p) s
def execHintMod (p : BitVec 24) (s : State) : Res := hintStep (.hintMod p) (.mod p) s
def execHintJoin (p : BitVec 24) (s : State) : Res := hintStep (.hintJoin p) (.join p) s

/-! ## Special registers (R190, R364) -/

/-- The V die and M die of a pair (R12, R17). -/
def dieOf (p : Nat) : Nat := p / 48

/-- `MST` (R152). -/
def mstWord (s : State) (p : Nat) : Nat :=
  let c := coreAt s p
  256 * (decide (31 = s.ctr.rfph.getD (dieOf p) 0 / 4096)).toNat + 128 * c.rsOn.toNat + min c.opq.length 64

/-- The watchdog count of the crew's instance (R364, R381). -/
def wdcOf (s : State) : Nat :=
  match regionAt? s s.cur.region with
  | some r => kgetD s.rg.wdc r.instF 0
  | none => 0

/-- The value `sread` gives. -/
def sregRead (s : State) (r : SReg) : Word :=
  let k := s.cur
  let c := coreAt s k.pair
  match r with
  | .xm => k.fr.xm.setWidth 64
  | .lm => k.lm.setWidth 64
  | .fl => k.fr.fl.setWidth 64
  | .cst => cstWord k
  | .dmk => k.fr.dmk.setWidth 64
  | .tcause => k.tcause
  | .tpc => k.tpc
  | .taddr => k.taddr
  | .tlanes => k.tlanes
  | .tinfo => k.tinfo
  | .txm => k.txm
  | .tk0 => k.tk0
  | .tk1 => k.tk1
  | .hbud => BitVec.ofNat 64 k.hbud
  | .nbv => k.nbv
  | .nsf => k.nsf
  | .mcfg => c.mcfgHeld
  | .mst => BitVec.ofNat 64 (mstWord s k.pair)
  | .gang => k.gang
  | .sfra => k.sfra
  | .ftmap => k.ftmap
  | .ftst => k.ftst
  | .bpc => s.ctr.bpc
  | .ccyc => BitVec.ofNat 64 c.ccyc
  | .rfph => BitVec.ofNat 64 (s.ctr.rfph.getD (dieOf k.pair) 0)
  | .wdc => BitVec.ofNat 64 (wdcOf s)
  | .pme n => c.pme.get n
  | .pmc n => BitVec.ofNat 64 (c.pmc.get n)

/-- Is a read refused at the crew's level: `ftmap` and `ftst` are the supervisor's (R348)? -/
def readRefused (s : State) (r : SReg) : Bool :=
  (r == .ftmap || r == .ftst) && s.cur.cst.lvl != .supervisor

/-- Is a write refused at the crew's level: the trap registers with no handler, `pme` and `pmc` outside the supervisor
level (R190, R364)? -/
def writeRefused (s : State) (r : SReg) : Bool :=
  match r with
  | .tcause | .tpc | .taddr | .tlanes | .tinfo | .txm => s.cur.cst.lvl == .none
  | .pme _ | .pmc _ => s.cur.cst.lvl != .supervisor
  | _ => false

/-- The write itself; `sregRefuses` has passed the value. -/
def sregWrite (s : State) (r : SReg) (v : Word) : State :=
  match r with
  | .xm => setXm s (v.setWidth 32)
  | .cst => writeCst s v
  | .tcause => modCur s fun c => { c with tcause := v }
  | .tpc => modCur s fun c => { c with tpc := v }
  | .taddr => modCur s fun c => { c with taddr := v }
  | .tlanes => modCur s fun c => { c with tlanes := v }
  | .tinfo => modCur s fun c => { c with tinfo := v }
  | .txm => modCur s fun c => { c with txm := v }
  | .tk0 => modCur s fun c => { c with tk0 := v }
  | .tk1 => modCur s fun c => { c with tk1 := v }
  | .nbv => modCur s fun c => { c with nbv := v &&& 15 }
  | .nsf => modCur s fun c => { c with nsf := v &&& 15 }
  | .pme n => modCore s s.cur.pair fun c => { c with pme := c.pme.set n (v &&& 0x1FF) }
  | .pmc n => modCore s s.cur.pair fun c => { c with pmc := c.pmc.set n (v.toNat % 2 ^ 48) }
  | _ => s

/-- A value the register's owner rejects (R74). -/
def sregRefuses (r : SReg) (v : Word) : Bool := r == .nbv && v.toNat % 16 != 4 && v.toNat % 16 != 5

def execSread (d : CReg) (r : SReg) (s : State) : Res :=
  run (.sread d r) s fun _ s =>
    if readRefused s r then illegal s else needFullFor s d fun s => complete (setC s d (sregRead s r))

def execSwrite (c : CReg) (r : SReg) (s : State) : Res :=
  run (.swrite c r) s fun _ s =>
    let v := getC s c
    let go (s : State) : State := if sregRefuses r v then illegal s else complete (sregWrite s r v)
    if writeRefused s r then illegal s else if r == .xm then go s else needFull s go

/-- `swrite` of `mcfg` is held at once and enters the operand queue as a command (R151). -/
def execMcfgWrite (c : CReg) (s : State) : Res :=
  run (.mcfgWrite c) s fun _ s => needFull s fun s =>
    let v := getC s c &&& 1
    complete (modCore s s.cur.pair fun k => { k with mcfgHeld := v, opq := k.opq ++ [.mcfg s.cur.cid v] })

end Sys2Proof.Machine
end

