-- ==== Sys2Proof/Machine/Uniform.lean ====
section
/-! DEFINITION. Uniform arithmetic, affine arithmetic, lifts and lowering (R103 to R110). -/

namespace Sys2Proof.Machine

open Sys2Proof

/-- 1 or 0. -/
def one (b : Bool) : Word := if b then 1 else 0

/-- The field that `cbfe` takes (R105). -/
def cbfeOf (x y : Word) : Word :=
  let o := y.toNat % 64
  let n := min (y.toNat / 2 ^ 8 % 128) (64 - o)
  BitVec.ofNat 64 (x.toNat / 2 ^ o % 2 ^ n)

/-- A uniform result written under R101 (R105). -/
def uniBody (d : CReg) (f : Mods → State → Word) (m : Mods) (s : State) : State :=
  needFullFor s d fun s => complete (setC s d (f m s))

/-- A uniform instruction of two sources (R104, R105). -/
def uniOp (d a b : CReg) (f : Word → Word → Word) : Mods → State → State :=
  uniBody d fun m s => f (getC s a) (uniB s m b)

/-- A uniform instruction of one source. -/
def uniOp1 (d a : CReg) (f : Word → Word) : Mods → State → State := uniBody d fun _ s => f (getC s a)

/-! ## Uniform arithmetic -/

def execCadd (d a b : CReg) (s : State) : Res := run (.cadd d a b) s (uniOp d a b fun x y => x + y)
def execCsub (d a b : CReg) (s : State) : Res := run (.csub d a b) s (uniOp d a b fun x y => x - y)
def execCmul (d a b : CReg) (s : State) : Res := run (.cmul d a b) s (uniOp d a b fun x y => x * y)
def execCmulh (d a b : CReg) (s : State) : Res := run (.cmulh d a b) s (uniOp d a b fun x y => BitVec.ofInt 64 (x.toInt * y.toInt / 2 ^ 64))
def execCand (d a b : CReg) (s : State) : Res := run (.cand d a b) s (uniOp d a b fun x y => x &&& y)
def execCor (d a b : CReg) (s : State) : Res := run (.cor d a b) s (uniOp d a b fun x y => x ||| y)
def execCxor (d a b : CReg) (s : State) : Res := run (.cxor d a b) s (uniOp d a b fun x y => x ^^^ y)
def execCshl (d a b : CReg) (s : State) : Res := run (.cshl d a b) s (uniOp d a b fun x y => x <<< (y.toNat % 64))
def execCshr (d a b : CReg) (s : State) : Res := run (.cshr d a b) s (uniOp d a b fun x y => x >>> (y.toNat % 64))
def execCsar (d a b : CReg) (s : State) : Res := run (.csar d a b) s (uniOp d a b fun x y => x.sshiftRight (y.toNat % 64))
def execCmin (d a b : CReg) (s : State) : Res := run (.cmin d a b) s (uniOp d a b fun x y => if y.slt x then y else x)
def execCminu (d a b : CReg) (s : State) : Res := run (.cminu d a b) s (uniOp d a b fun x y => if y.ult x then y else x)
def execCmax (d a b : CReg) (s : State) : Res := run (.cmax d a b) s (uniOp d a b fun x y => if x.slt y then y else x)
def execCmaxu (d a b : CReg) (s : State) : Res := run (.cmaxu d a b) s (uniOp d a b fun x y => if x.ult y then y else x)
def execCcmpEq (d a b : CReg) (s : State) : Res := run (.ccmpEq d a b) s (uniOp d a b fun x y => one (x == y))
def execCcmpNe (d a b : CReg) (s : State) : Res := run (.ccmpNe d a b) s (uniOp d a b fun x y => one (x != y))
def execCcmpLt (d a b : CReg) (s : State) : Res := run (.ccmpLt d a b) s (uniOp d a b fun x y => one (x.slt y))
def execCcmpLe (d a b : CReg) (s : State) : Res := run (.ccmpLe d a b) s (uniOp d a b fun x y => one (x.sle y))
def execCcmpLtu (d a b : CReg) (s : State) : Res := run (.ccmpLtu d a b) s (uniOp d a b fun x y => one (x.ult y))
def execCcmpLeu (d a b : CReg) (s : State) : Res := run (.ccmpLeu d a b) s (uniOp d a b fun x y => one (x.ule y))
def execCbfe (d a b : CReg) (s : State) : Res := run (.cbfe d a b) s (uniOp d a b fun x y => cbfeOf x y)

def execCaddImm (d a : CReg) (i : BitVec 14) (s : State) : Res :=
  run (.caddImm d a i) s (uniBody d fun m s => getC s a + m.wide.getD (i.signExtend 64))
def execCmad (d a b : CReg) (s : State) : Res :=
  run (.cmad d a b) s (uniBody d fun m s => getC s d + getC s a * uniB s m b)
def execCsel (d a b : CReg) (s : State) : Res :=
  run (.csel d a b) s (uniBody d fun m s => if getC s d != 0 then getC s a else uniB s m b)
def execCmov (d a : CReg) (s : State) : Res :=
  run (.cmov d a) s (uniBody d fun m s => m.wide.getD (getC s a))
def execCnot (d a : CReg) (s : State) : Res := run (.cnot d a) s (uniOp1 d a fun x => ~~~x)
def execCpopc (d a : CReg) (s : State) : Res := run (.cpopc d a) s (uniOp1 d a fun x => BitVec.ofNat 64 (popCount 64 x.toNat))
def execCclz (d a : CReg) (s : State) : Res := run (.cclz d a) s (uniOp1 d a fun x => BitVec.ofNat 64 (clzN 64 x.toNat))

/-! ## Affine arithmetic (R107) -/

/-- An affine result, or AFFOVF for a stride beyond 32 bits. A write to `az` needs no full mask (R98, R101). -/
def affBody (d : AReg) (f : Mods → State → Word × Int) (m : Mods) (s : State) : State :=
  let go (s : State) : State :=
    let r := f m s
    if r.2 < -(2 ^ 31 : Int) ∨ (2 ^ 31 : Int) - 1 < r.2 then raise s { cause := .affovf }
    else complete (setA s d ⟨r.1, BitVec.ofInt 32 r.2⟩)
  if d.val = 31 then go s else needFull s go

def execAmov (d a : AReg) (s : State) : Res :=
  run (.amov d a) s (affBody d fun _ s => ((getA s a).base, (getA s a).stride.toInt))
def execAidx (d : AReg) (c : CReg) (s : State) : Res := run (.aidx d c) s (affBody d fun _ s => (getC s c, 1))
def execAaddA (d a b : AReg) (s : State) : Res :=
  run (.aaddA d a b) s (affBody d fun _ s =>
    ((getA s a).base + (getA s b).base, (getA s a).stride.toInt + (getA s b).stride.toInt))
def execAaddC (d a : AReg) (c : CReg) (s : State) : Res :=
  run (.aaddC d a c) s (affBody d fun m s => ((getA s a).base + uniB s m c, (getA s a).stride.toInt))
def execAsubA (d a b : AReg) (s : State) : Res :=
  run (.asubA d a b) s (affBody d fun _ s =>
    ((getA s a).base - (getA s b).base, (getA s a).stride.toInt - (getA s b).stride.toInt))
def execAsubC (d a : AReg) (c : CReg) (s : State) : Res :=
  run (.asubC d a c) s (affBody d fun m s => ((getA s a).base - uniB s m c, (getA s a).stride.toInt))
def execAmul (d a : AReg) (c : CReg) (s : State) : Res :=
  run (.amul d a c) s (affBody d fun m s =>
    ((getA s a).base * uniB s m c, (getA s a).stride.toInt * (uniB s m c).toInt))
def execAshl (d a : AReg) (c : CReg) (s : State) : Res :=
  run (.ashl d a c) s (affBody d fun m s =>
    let n := (uniB s m c).toNat % 64
    ((getA s a).base <<< n, (getA s a).stride.toInt * 2 ^ n))

/-! ## Lifts and lowering (R108 to R110) -/

def execLca (d : AReg) (a : CReg) (s : State) : Res := run (.lca d a) s (affBody d fun _ s => (getC s a, 0))
def execLcv (d : VReg) (a : CReg) (s : State) : Res :=
  run (.lcv d a) s fun m s => complete (setV s d (actOf s m) (mkLanes fun _ => getC s a))
def execLav (d : VReg) (a : AReg) (s : State) : Res :=
  run (.lav d a) s fun m s => complete (setV s d (actOf s m) (mkLanes (affineAt (getA s a))))

/-- The value of the lowest lane of a set, and the lanes that differ from it (R110). -/
def lowerLane (x : Lanes) (act : Mask) : Option (Word × Mask) :=
  match lanesOf act with
  | [] => none
  | l :: ls => some (laneAt x l, maskOf ((l :: ls).filter fun k => laneAt x k != laneAt x l))

/-- `lvc`, and `lvcx` when `x` (R110). -/
def lower (d : CReg) (a : VReg) (x : Bool) (m : Mods) (s : State) : State :=
  needFullFor s d fun s =>
    consuming s (actOf s m) [a.val] fun act s =>
      match lowerLane (getV s a) act with
      | none => complete s
      | some (v, dis) => if x && dis != 0 then raise s { cause := .nonunif, lanes := dis } else complete (setC s d v)

def execLvc (d : CReg) (a : VReg) (s : State) : Res := run (.lvc d a) s (lower d a false)
def execLvcx (d : CReg) (a : VReg) (s : State) : Res := run (.lvcx d a) s (lower d a true)

end Sys2Proof.Machine
end

