-- ==== Sys2Proof/Machine/Varying.lean ====
section
/-! DEFINITION. Varying, float, conversion and cross-lane instructions, and the mask group (R118 to R149). -/

namespace Sys2Proof.Machine

open Sys2Proof

/-! ## The common form -/

/-- A lane-by-lane effect: the windows named are popped, lanes whose sources hold poison die, the lanes of `act` get what `f`
gives them, any flag that `f` raises is set by `flag`, and a feed window is pushed (R119, R120, R123, R295, R296). -/
def laneOp (u : Uses) (d : VReg) (f : State → Nat → Word × Bool) (flag : State → Bool → State) (m : Mods) (s : State) : State :=
  let cid := s.cur.cid
  let s := popAll s u
  let t := consuming s (actOf s m) u.r fun act s =>
    let r := flag (setV s d act (mkLanes fun l => (f s l).1)) ((lanesOf act).any fun l => (f s l).2)
    complete r
  if t.cur.alive && t.cur.cid == cid then feedPush t u 0 else t

/-- No flag. -/
def noFlag (s : State) (_ : Bool) : State := s

/-- An element-wise V-format effect on integer elements; `f` takes a, b and the old destination (R123, R124). -/
def intOp (u : Uses) (d a : VReg) (b : Src) (w : Nat) (f : Mods → Nat → Nat → Nat → Nat × Bool) (m : Mods) (s : State) :
    State :=
  laneOp u d (fun s l =>
    let x := laneAt (getV s a) l
    let y := srcLane s m w none b l
    let z := laneAt (getV s d) l
    mapEl w fun i => f m (sub w x i) (sub w y i) (sub w z i)) setIsat m s

/-- An element-wise V-format effect on float elements (R123, R125). -/
def fltOp (u : Uses) (d a : VReg) (b : Src) (t : FltTy) (f : Fmt → Rnd → Nat → Nat → Nat → Nat) (m : Mods) (s : State) :
    State :=
  let w := FltTy.width t
  let fm := FltTy.fmt t
  laneOp u d (fun s l =>
    let x := laneAt (getV s a) l
    let y := srcLane s m w (some fm) b l
    let z := laneAt (getV s (m.av.getD d)) l
    mapEl w fun i => (f fm (rndOf .ne m.rnd) (sub w x i) (sub w y i) (sub w z i), false)) noFlag m s

/-- A one-operand effect on elements. -/
def elOp (u : Uses) (d a : VReg) (w : Nat) (f : Nat → Nat) (m : Mods) (s : State) : State :=
  laneOp u d (fun s l => mapEl w fun i => (f (sub w (laneAt (getV s a) l) i), false)) noFlag m s

/-- An integer form that names its instruction. -/
def vInt (i : Instr) (d a : VReg) (b : Src) (t : IntTy) (s : State) (f : Nat → Mods → Nat → Nat → Nat → Nat × Bool) : Res :=
  run i s (intOp (uses s i) d a b (IntTy.width t) (f (IntTy.width t)))

/-- A float form that names its instruction. -/
def vFlt (i : Instr) (d a : VReg) (b : Src) (t : FltTy) (s : State) (f : Fmt → Rnd → Nat → Nat → Nat → Nat) : Res :=
  run i s (fltOp (uses s i) d a b t f)

/-- A result that `SAT` 01 clamps (R78, R124). -/
def sat (w : Nat) (m : Mods) (z : Int) : Nat × Bool := fit w (m.sat == 1) z

/-! ## Two-operand arithmetic (R124 to R126) -/

def execVadd (d a : VReg) (b : Src) (t : IntTy) (s : State) : Res :=
  vInt (.vadd d a b t) d a b t s fun w m x y _ => sat w m (toS w x + toS w y)
def execVsub (d a : VReg) (b : Src) (t : IntTy) (s : State) : Res :=
  vInt (.vsub d a b t) d a b t s fun w m x y _ => sat w m (toS w x - toS w y)
def execVmul (d a : VReg) (b : Src) (t : IntTy) (s : State) : Res :=
  vInt (.vmul d a b t) d a b t s fun w m x y _ => sat w m (toS w x * toS w y)
def execVmulh (d a : VReg) (b : Src) (t : IntTy) (s : State) : Res :=
  vInt (.vmulh d a b t) d a b t s fun w _ x y _ => (wrap w (toS w x * toS w y / (2 ^ w : Nat)), false)
def execVmad (d a : VReg) (b : Src) (t : IntTy) (s : State) : Res :=
  vInt (.vmad d a b t) d a b t s fun w m x y z => sat w m (toS w z + toS w x * toS w y)
def execVand (d a : VReg) (b : Src) (t : IntTy) (s : State) : Res :=
  vInt (.vand d a b t) d a b t s fun _ _ x y _ => (x &&& y, false)
def execVor (d a : VReg) (b : Src) (t : IntTy) (s : State) : Res :=
  vInt (.vor d a b t) d a b t s fun _ _ x y _ => (x ||| y, false)
def execVxor (d a : VReg) (b : Src) (t : IntTy) (s : State) : Res :=
  vInt (.vxor d a b t) d a b t s fun _ _ x y _ => (x ^^^ y, false)
def execVshl (d a : VReg) (b : Src) (t : IntTy) (s : State) : Res :=
  vInt (.vshl d a b t) d a b t s fun w _ x y _ => (x * 2 ^ (y % w) % 2 ^ w, false)
def execVshr (d a : VReg) (b : Src) (t : IntTy) (s : State) : Res :=
  vInt (.vshr d a b t) d a b t s fun w _ x y _ => (x / 2 ^ (y % w), false)
def execVsar (d a : VReg) (b : Src) (t : IntTy) (s : State) : Res :=
  vInt (.vsar d a b t) d a b t s fun w _ x y _ => (wrap w (toS w x / (2 ^ (y % w) : Nat)), false)
def execVmin (d a : VReg) (b : Src) (t : IntTy) (s : State) : Res :=
  vInt (.vmin d a b t) d a b t s fun w _ x y _ => (if toS w y < toS w x then y else x, false)
def execVminu (d a : VReg) (b : Src) (t : IntTy) (s : State) : Res :=
  vInt (.vminu d a b t) d a b t s fun _ _ x y _ => (min x y, false)
def execVmax (d a : VReg) (b : Src) (t : IntTy) (s : State) : Res :=
  vInt (.vmax d a b t) d a b t s fun w _ x y _ => (if toS w x < toS w y then y else x, false)
def execVmaxu (d a : VReg) (b : Src) (t : IntTy) (s : State) : Res :=
  vInt (.vmaxu d a b t) d a b t s fun _ _ x y _ => (max x y, false)

/-- The type of `vbfe` and `vbfi` (R126). -/
def bfTy (t : Bit1) : IntTy := if t.val = 0 then .i64 else .i32x2
/-- Offset and length of a bit field (R126). -/
def bfField (w y : Nat) : Nat × Nat :=
  let o := y % w
  (o, min (y / 2 ^ 8 % (2 * w)) (w - o))

def execVbfe (d a : VReg) (b : Src) (t : Bit1) (s : State) : Res :=
  vInt (.vbfe d a b t) d a b (bfTy t) s fun w _ x y _ => (x / 2 ^ (bfField w y).1 % 2 ^ (bfField w y).2, false)
def execVbfi (d a : VReg) (b : Src) (t : Bit1) (s : State) : Res :=
  vInt (.vbfi d a b t) d a b (bfTy t) s fun w _ x y z =>
    let o := (bfField w y).1
    let n := (bfField w y).2
    (z - z / 2 ^ o % 2 ^ n * 2 ^ o + x % 2 ^ n * 2 ^ o, false)

def execFadd (d a : VReg) (b : Src) (t : FltTy) (s : State) : Res :=
  vFlt (.fadd d a b t) d a b t s fun f r x y _ => f.addV r (f.decode x) (f.decode y)
def execFsub (d a : VReg) (b : Src) (t : FltTy) (s : State) : Res :=
  vFlt (.fsub d a b t) d a b t s fun f r x y _ => f.addV r (f.decode x) (f.decode y).negate
def execFmul (d a : VReg) (b : Src) (t : FltTy) (s : State) : Res :=
  vFlt (.fmul d a b t) d a b t s fun f r x y _ => f.encode r ((f.decode x).mul (f.decode y))
def execFfma (d a : VReg) (b : Src) (t : FltTy) (s : State) : Res :=
  vFlt (.ffma d a b t) d a b t s fun f r x y z => f.addV r ((f.decode x).mul (f.decode y)) (f.decode z)
def execFmin (d a : VReg) (b : Src) (t : FltTy) (s : State) : Res :=
  vFlt (.fmin d a b t) d a b t s fun f _ x y _ => f.minMax false x y
def execFmax (d a : VReg) (b : Src) (t : FltTy) (s : State) : Res :=
  vFlt (.fmax d a b t) d a b t s fun f _ x y _ => f.minMax true x y

/-! ## One operand (R127, R130) -/

def execVnot (d a : VReg) (t : IntTy) (s : State) : Res :=
  run (.vnot d a t) s (elOp (uses1 d a) d a (IntTy.width t) fun x => 2 ^ IntTy.width t - 1 - x)
def execVabs (d a : VReg) (t : IntTy) (s : State) : Res :=
  run (.vabs d a t) s (elOp (uses1 d a) d a (IntTy.width t) fun x => (toS (IntTy.width t) x).natAbs)
def execVneg (d a : VReg) (t : IntTy) (s : State) : Res :=
  run (.vneg d a t) s (elOp (uses1 d a) d a (IntTy.width t) fun x => wrap (IntTy.width t) (-(x : Int)))
def execVpopc (d a : VReg) (t : IntTy) (s : State) : Res :=
  run (.vpopc d a t) s (elOp (uses1 d a) d a (IntTy.width t) fun x => popCount (IntTy.width t) x)
def execVclz (d a : VReg) (t : IntTy) (s : State) : Res :=
  run (.vclz d a t) s (elOp (uses1 d a) d a (IntTy.width t) fun x => clzN (IntTy.width t) x)

/-- A float element with its sign changed; a NaN becomes canonical (R77, R127). -/
def signOp (f : Fmt) (g : Nat → Nat) (x : Nat) : Nat := if (f.decode x).isNan then f.nanCode else g x

def execFabs (d a : VReg) (t : FltTy) (s : State) : Res :=
  run (.fabs d a t) s (elOp (uses1 d a) d a (FltTy.width t) (signOp (FltTy.fmt t) fun x => x % (FltTy.fmt t).signBit))
def execFneg (d a : VReg) (t : FltTy) (s : State) : Res :=
  run (.fneg d a t) s (elOp (uses1 d a) d a (FltTy.width t)
    (signOp (FltTy.fmt t) fun x => if x < (FltTy.fmt t).signBit then x + (FltTy.fmt t).signBit else x - (FltTy.fmt t).signBit))

/-- An element rounded to an integral value, its sign kept (R127). -/
def roundInt (f : Fmt) (r : Rnd) (x : Nat) : Nat :=
  match f.decode x with
  | .fin neg m e => f.encode r (.fin neg (FVal.toInt r (.fin neg m e)).natAbs 0)
  | v => f.encode r v

def execFrnd (d a : VReg) (t : FltTy) (s : State) : Res :=
  run (.frnd d a t) s fun m s => elOp (uses1 d a) d a (FltTy.width t) (roundInt (FltTy.fmt t) (rndOf .ne m.rnd)) m s

/-- The class bit of an encoding (R127). -/
def classOf (f : Fmt) (x : Nat) : Nat :=
  let neg := f.signBit ≤ x
  let mag := x % f.signBit
  let k :=
    if f.infCode < mag then (if mag % 2 ^ f.tb / 2 ^ (f.tb - 1) = 1 then 8 else 9)
    else if mag = f.infCode then (if neg then 0 else 7)
    else if mag = 0 then (if neg then 3 else 4)
    else if mag < 2 ^ f.tb then (if neg then 2 else 5)
    else (if neg then 1 else 6)
  2 ^ k

def execFclass (d a : VReg) (t : FltTy) (s : State) : Res :=
  run (.fclass d a t) s (elOp (uses1 d a) d a (FltTy.width t) (classOf (FltTy.fmt t)))

/-! ## Compare and select (R128, R129, R130) -/

/-- A compare of every element of each lane; lanes that die leave the mask also where the fragment dies with them (R120,
R128). -/
def cmpOp (u : Uses) (k : MReg) (a b : VReg) (w : Nat) (rel : Nat → Nat → Bool) (m : Mods) (s : State) : State :=
  let cid := s.cur.cid
  let fid := s.cur.fr.fid
  let s := popAll s u
  let t := consuming s (actOf s m) u.r fun act s =>
    let hit (l : Nat) : Bool := ((subs w (laneAt (getV s a) l)).zip (subs w (laneAt (getV s b) l))).all fun p => rel p.1 p.2
    complete (setM s k (cmpMask (getM s k) (liveXm s) s.cur.lm act (maskOf ((lanesOf act).filter hit))))
  let gone := t.cur.alive && t.cur.cid == cid && !(t.cur.all.any fun f => f.fid == fid)
  if gone then setM t k (cmpMask (getM t k) 0 t.cur.lm 0 0) else t

def execVcmp (k : MReg) (a b : VReg) (r : Rel) (t : IntTy) (s : State) : Res :=
  run (.vcmp k a b r t) s (cmpOp (usesCmp a b) k a b (IntTy.width t) (relInt r (IntTy.width t)))
def execFcmp (k : MReg) (a b : VReg) (r : Rel) (t : FltTy) (s : State) : Res :=
  run (.fcmp k a b r t) s (cmpOp (usesCmp a b) k a b (FltTy.width t) fun x y =>
    relFlt r ((FltTy.fmt t).decode x) ((FltTy.fmt t).decode y))
def execVcmpLtu (k : MReg) (a b : VReg) (t : IntTy) (s : State) : Res :=
  run (.vcmpLtu k a b t) s (cmpOp (usesCmp a b) k a b (IntTy.width t) fun x y => decide (x < y))
def execVcmpLeu (k : MReg) (a b : VReg) (t : IntTy) (s : State) : Res :=
  run (.vcmpLeu k a b t) s (cmpOp (usesCmp a b) k a b (IntTy.width t) fun x y => decide (x ≤ y))
def execFcmpUo (k : MReg) (a b : VReg) (t : FltTy) (s : State) : Res :=
  run (.fcmpUo k a b t) s (cmpOp (usesCmp a b) k a b (FltTy.width t) fun x y =>
    ((FltTy.fmt t).decode x).isNan || ((FltTy.fmt t).decode y).isNan)

/-- A byte of a lane. -/
def byteOf (x : Word) (j : Nat) : Nat := sub 8 x j

def execVperm (d a b : VReg) (s : State) : Res :=
  run (.vperm d a b) s (laneOp (uses s (.vperm d a b)) d (fun s l =>
    mapEl 8 fun j =>
      let sel := byteOf (laneAt (getV s b) l) j
      (if 128 ≤ sel then 0
       else if sel / 8 % 2 = 1 then byteOf (laneAt (getV s d) l) (sel % 8)
       else byteOf (laneAt (getV s a) l) (sel % 8), false)) noFlag)

/-- A copying effect: values and poison, lane by lane (R120). -/
def copyOp (u : Uses) (d : VReg) (eat : List Nat) (f : State → Nat → Word × Bool) (m : Mods) (s : State) : State :=
  let cid := s.cur.cid
  let s := popAll s u
  let t := consuming s (actOf s m) eat fun act s =>
    complete (modCur s fun c => c.putV d.val act (mkLanes fun l => (f s l).1)
      (maskOf ((lanesOf act).filter fun l => (f s l).2)))
  if t.cur.alive && t.cur.cid == cid then feedPush t u 0 else t

def execVsel (d a b : VReg) (k : MReg) (s : State) : Res :=
  run (.vsel d a b k) s (copyOp (uses2 d a b) d [] fun s l =>
    let r := if inMask (getM s k) l then a else b
    (laneAt (getV s r) l, inMask (s.cur.poisonOf r.val) l))

/-! ## Special functions (R131, R132) -/

/-- A special function by its number. -/
def sfuOp (i : Instr) (op : Nat) (d a : VReg) (t : SfuTy) (s : State) : Res :=
  run i s (elOp (uses1 d a) d a (SfuTy.fmt t).width (sfuEl op t))

def execFrcp (d a : VReg) (t : SfuTy) (s : State) : Res := sfuOp (.frcp d a t) 0 d a t s
def execFrsq (d a : VReg) (t : SfuTy) (s : State) : Res := sfuOp (.frsq d a t) 1 d a t s
def execFsqrt (d a : VReg) (t : SfuTy) (s : State) : Res := sfuOp (.fsqrt d a t) 2 d a t s
def execFexp2 (d a : VReg) (t : SfuTy) (s : State) : Res := sfuOp (.fexp2 d a t) 3 d a t s
def execFlog2 (d a : VReg) (t : SfuTy) (s : State) : Res := sfuOp (.flog2 d a t) 4 d a t s
def execFsin (d a : VReg) (t : SfuTy) (s : State) : Res := sfuOp (.fsin d a t) 5 d a t s
def execFcos (d a : VReg) (t : SfuTy) (s : State) : Res := sfuOp (.fcos d a t) 6 d a t s

/-! ## Conversions (R133 to R136) -/

/-- One element converted: its bits and whether it was clamped (R133). -/
def cvtEl (src dst : ElTy) (m : Mods) (x : Nat) : Nat × Bool :=
  match src, dst with
  | .flt f, .flt g => ((FltTy.fmt g).encode (rndOf .ne m.rnd) ((FltTy.fmt f).decode x), false)
  | .int f, .flt g => ((FltTy.fmt g).encode (rndOf .ne m.rnd) (FVal.ofInt (toS (IntTy.width f) x)), false)
  | .int f, .int g => sat (IntTy.width g) m (toS (IntTy.width f) x)
  | .flt f, .int g =>
    let w := IntTy.width g
    match (FltTy.fmt f).decode x with
    | .nan => (0, m.sat == 1)
    | .inf neg =>
      if m.sat == 1 then ((if neg then 2 ^ (w - 1) else 2 ^ (w - 1) - 1), true) else (0, false)
    | v => sat w m (v.toInt (rndOf .rz m.rnd))

def execCvt (d a : VReg) (src dst : ElTy) (s : State) : Res :=
  run (.cvt d a src dst) s fun m s =>
    laneOp (uses1 d a) d (fun s l =>
      let k := min (64 / ElTy.width src) (64 / ElTy.width dst)
      mapEl (ElTy.width dst) fun i =>
        if i < k then cvtEl src dst m (sub (ElTy.width src) (laneAt (getV s a) l) i) else (0, false)) setIsat m s

/-- Bytes from conversions into binary8, with their flags (R85). -/
def b8Lane (xs : List B8) : Word × Bool × Bool :=
  (pack 8 (xs.map fun b => b.byte), xs.any fun b => b.sat, xs.any fun b => b.ovf)

/-- An effect that writes binary8 bytes (R134, R136). -/
def b8Op (u : Uses) (d : VReg) (f : State → Nat → List B8) (m : Mods) (s : State) : State :=
  let cid := s.cur.cid
  let s := popAll s u
  let t := consuming s (actOf s m) u.r fun act s =>
    let r := (lanesOf act).map fun l => b8Lane (f s l)
    complete (setB8 (setV s d act (mkLanes fun l => (b8Lane (f s l)).1)) (r.any fun x => x.2.1) (r.any fun x => x.2.2))
  if t.cur.alive && t.cur.cid == cid then feedPush t u 0 else t

def execCvn (d a : VReg) (src : FltTy) (f : Fmt8) (s : State) : Res :=
  run (.cvn d a src f) s fun m s =>
    b8Op (uses1 d a) d (fun s l =>
      (subs (FltTy.width src) (laneAt (getV s a) l)).map fun x =>
        Fmt8.convert f (rndOf .ne m.rnd) (m.sat == 2) ((FltTy.fmt src).decode x)) m s

def execCvw (d a : VReg) (dst : FltTy) (f : Fmt8) (s : State) : Res :=
  run (.cvw d a dst f) s (laneOp (uses1 d a) d (fun s l =>
    mapEl (FltTy.width dst) fun i =>
      ((FltTy.fmt dst).encode .ne (Fmt8.decode f (byteOf (laneAt (getV s a) l) i)), false)) noFlag)

def execCvs (d a b : VReg) (f : Fmt8) (s : State) : Res :=
  run (.cvs d a b f) s fun m s =>
    b8Op (uses2 d a b) d (fun s l =>
      let e := byteOf (laneAt (getV s b) l) 0
      (subs 32 (laneAt (getV s a) l)).map fun x =>
        let y := if e = 255 then FVal.nan else (fp32.decode x).scale (127 - (e : Int))
        Fmt8.convert f (rndOf .ne m.rnd) (m.sat == 2) y) m s

/-! ## Dot products (R137) -/

/-- The low 32 bits of a lane, the rest 0. -/
def low32 (n : Nat) : Word := BitVec.ofNat 64 (n % 2 ^ 32)

/-- A float dot product (R91). -/
def dotF (u : Uses) (d a b : VReg) (w : Nat) (dec : Nat → FVal) (m : Mods) (s : State) : State :=
  laneOp u d (fun s l =>
    let x := fp32.decode (sub 32 (laneAt (getV s d) l) 0)
    let ps := ((subs w (laneAt (getV s a) l)).zip (subs w (laneAt (getV s b) l))).map fun p => (dec p.1).mul (dec p.2)
    (low32 (fp32.sum (rndOf .ne m.rnd) (x :: ps)), false)) noFlag m s

/-- An integer dot product (R91, R137). -/
def dotI (u : Uses) (d a b : VReg) (w : Nat) (m : Mods) (s : State) : State :=
  laneOp u d (fun s l =>
    let x := toS 32 (sub 32 (laneAt (getV s d) l) 0)
    let ps := ((subs w (laneAt (getV s a) l)).zip (subs w (laneAt (getV s b) l))).map fun p => toS w p.1 * toS w p.2
    let r := sat 32 m (x + ps.sum)
    (low32 r.1, r.2)) setIsat m s

/-- The lanes a dot product names. -/
def usesDot (d a b : VReg) : Uses := { uses2 d a b with r := [d.val, a.val, b.val] }

def execDot2F32x2 (d a b : VReg) (s : State) : Res :=
  run (.dot2F32x2 d a b) s (dotF (usesDot d a b) d a b 32 fp32.decode)
def execDot4F16x4 (d a b : VReg) (s : State) : Res :=
  run (.dot4F16x4 d a b) s (dotF (usesDot d a b) d a b 16 fp16.decode)
def execDot4Bf16x4 (d a b : VReg) (s : State) : Res :=
  run (.dot4Bf16x4 d a b) s (dotF (usesDot d a b) d a b 16 bf16.decode)
def execDot4I16x4 (d a b : VReg) (s : State) : Res := run (.dot4I16x4 d a b) s (dotI (usesDot d a b) d a b 16)
def execDot8I8x8 (d a b : VReg) (s : State) : Res := run (.dot8I8x8 d a b) s (dotI (usesDot d a b) d a b 8)

/-- `dot8` on binary8 under the crew's version (R91, R95). -/
def dot8F (u : Uses) (d a b : VReg) (f : Fmt8) (m : Mods) (s : State) : State :=
  if s.cur.nbv.toNat % 16 == 4 then
    laneOp u d (fun s l =>
      let x := fp32.decode (sub 32 (laneAt (getV s d) l) 0)
      let p (i : Nat) : FVal :=
        (Fmt8.decode f (byteOf (laneAt (getV s a) l) i)).mul (Fmt8.decode f (byteOf (laneAt (getV s b) l) i))
      let g0 := fp32.decode (fp32.sum .rz [p 0, p 1, p 2, p 3])
      let g1 := fp32.decode (fp32.sum .rz [p 4, p 5, p 6, p 7])
      (low32 (fp32.sum (rndOf .ne m.rnd) [x, g0, g1]), false)) noFlag m s
  else dotF u d a b 8 (Fmt8.decode f) m s

def execDot8Binary8 (d a b : VReg) (f : Fmt8) (s : State) : Res :=
  run (.dot8Binary8 d a b f) s (dot8F (usesDot d a b) d a b f)

/-! ## Welford statistics (R138 to R140) -/

/-- A triple (n, μ, M2) of encodings. -/
structure Triple where
  n : Nat
  mu : Nat
  m2 : Nat
  deriving DecidableEq, Repr, Inhabited

/-- The format of a Welford type. -/
def welfFmt (t : Bit1) : Fmt := if t.val = 0 then fp64 else fp32

/-- The triple of a lane in the group at `g` (R138). -/
def tripleAt (s : State) (g : Nat) (t : Bit1) (l : Nat) : Triple :=
  let r (k : Nat) : Word := laneAt (s.cur.vreg (g + k)) l
  if t.val = 0 then ⟨(r 0).toNat, (r 1).toNat, (r 2).toNat⟩ else ⟨sub 32 (r 0) 0, sub 32 (r 0) 1, sub 32 (r 1) 0⟩

/-- Register `k` of a group that holds a triple. -/
def tripleReg (x : Triple) (t : Bit1) (k : Nat) : Word :=
  if t.val = 0 then BitVec.ofNat 64 (if k = 0 then x.n else if k = 1 then x.mu else x.m2)
  else if k = 0 then pack 32 [x.n, x.mu] else pack 32 [x.m2, 0]

/-- The four operations, each rounded into a format. -/
def rAdd (f : Fmt) (r : Rnd) (x y : Nat) : Nat := f.addV r (f.decode x) (f.decode y)
def rSub (f : Fmt) (r : Rnd) (x y : Nat) : Nat := f.addV r (f.decode x) (f.decode y).negate
def rMul (f : Fmt) (r : Rnd) (x y : Nat) : Nat := f.encode r ((f.decode x).mul (f.decode y))
def rDiv (f : Fmt) (r : Rnd) (x y : Nat) : Nat := f.divV r (f.decode x) (f.decode y)

/-- A sample added (R139). -/
def welfStep (f : Fmt) (r : Rnd) (x : Nat) (t : Triple) : Triple :=
  let n := rAdd f r t.n (f.encode .ne (FVal.ofInt 1))
  let dl := rSub f r x t.mu
  let mu := rAdd f r t.mu (rDiv f r dl n)
  ⟨n, mu, rAdd f r t.m2 (rMul f r dl (rSub f r x mu))⟩

/-- An element as a floating result gives it: a NaN is canonical (R77). -/
def canonNan (f : Fmt) (x : Nat) : Nat := if (f.decode x).isNan then f.nanCode else x

/-- Two triples merged (R140); none when nothing changes. -/
def wmrgStep (f : Fmt) (r : Rnd) (a b : Triple) : Option Triple :=
  if (f.decode b.n).zero? then none
  else if (f.decode a.n).zero? then some ⟨canonNan f b.n, canonNan f b.mu, canonNan f b.m2⟩
  else
    let n := rAdd f r a.n b.n
    let dl := rSub f r b.mu a.mu
    let mu := rAdd f r a.mu (rMul f r dl (rDiv f r b.n n))
    let m2 := rAdd f r (rAdd f r a.m2 b.m2) (rMul f r (rMul f r dl dl) (rDiv f r (rMul f r a.n b.n) n))
    some ⟨n, mu, m2⟩

/-- A triple effect on each lane (R138). -/
def tripleOp (u : Uses) (d : VReg) (t : Bit1) (f : State → Nat → Option Triple) (m : Mods) (s : State) : State :=
  let cid := s.cur.cid
  let s := popAll s u
  let r := consuming s (actOf s m) u.r fun act s =>
    let hit := maskOf ((lanesOf act).filter fun l => (f s l).isSome)
    let regs := if t.val = 0 then [0, 1, 2] else [0, 1]
    complete (regs.foldl (fun x k =>
      modCur x fun c => c.putV (d.val + k) hit (mkLanes fun l => tripleReg ((f s l).getD default) t k) 0) s)
  if r.cur.alive && r.cur.cid == cid then feedPush r u 0 else r

def execWelf (d a : VReg) (t : Bit1) (s : State) : Res :=
  run (.welf d a t) s fun m s =>
    tripleOp (uses s (.welf d a t)) d t (fun s l =>
      let w := if t.val = 0 then 64 else 32
      some (welfStep (welfFmt t) (rndOf .ne m.rnd) (sub w (laneAt (getV s a) l) 0) (tripleAt s d.val t l))) m s

def execWmrg (d a : VReg) (t : Bit1) (s : State) : Res :=
  run (.wmrg d a t) s fun m s =>
    tripleOp (uses s (.wmrg d a t)) d t (fun s l =>
      wmrgStep (welfFmt t) (rndOf .ne m.rnd) (tripleAt s d.val t l) (tripleAt s a.val t l)) m s

/-! ## Cross-lane work (R141 to R146) -/

/-- A read of lane `j`: zero from a dead lane (R141). -/
def crossLane (s : State) (a : VReg) (j : Nat) : Word := if inMask s.cur.lm j then laneAt (getV s a) j else 0
/-- Is that lane dead, and does it hold poison? -/
def crossDead (s : State) (j : Nat) : Bool := !inMask s.cur.lm j
def crossBad (s : State) (a : VReg) (j : Nat) : Bool := inMask s.cur.lm j && inMask (s.cur.poisonOf a.val) j

/-- The byte numbers that a lane of `shfl` or `shflx` gathers (R143). -/
def shflIdx (s : State) (b : VReg) (x : Bool) (l : Nat) : List Nat :=
  (List.range 8).map fun j =>
    let i := byteOf (laneAt (getV s b) l) j
    if x then (8 * l + j) ^^^ i else i

/-- `shfl` and `shflx`. -/
def shflOp (u : Uses) (d a b : VReg) (x : Bool) (m : Mods) (s : State) : State :=
  let cid := s.cur.cid
  let s := popAll s u
  let t := consuming s (actOf s m) [b.val] fun act s =>
    let idx := shflIdx s b x
    let val (l : Nat) : Word := pack 8 ((idx l).map fun i => byteOf (crossLane s a (i / 8)) (i % 8))
    let bad := maskOf ((lanesOf act).filter fun l => (idx l).any fun i => crossBad s a (i / 8))
    let dead := (lanesOf act).any fun l => (idx l).any fun i => crossDead s (i / 8)
    complete (setDsrc (modCur s fun c => c.putV d.val act (mkLanes val) bad) dead)
  if t.cur.alive && t.cur.cid == cid then feedPush t u 0 else t

def execShfl (d a b : VReg) (s : State) : Res := run (.shfl d a b) s (shflOp (uses2 d a b) d a b false)
def execShflx (d a b : VReg) (s : State) : Res := run (.shflx d a b) s (shflOp (uses2 d a b) d a b true)

/-- `bcst`: a dead lane is read as a source, and sets `DSRC`, when some lane is active (R141, R144, log 65 DEDUCED unsafe). -/
def execBcst (d a : VReg) (j : Fin 32) (s : State) : Res :=
  run (.bcst d a j) s fun m s =>
    let s' := copyOp (uses1 d a) d [] (fun s _ => (crossLane s a j.val, crossBad s a j.val)) m s
    setDsrc s' (crossDead s j.val && actOf s m != 0)

/-- A vote: `f act p` is the value for every lane of `act` (R145). -/
def voteOp (u : Uses) (d a : VReg) (f : Mask → Mask → Word) (m : Mods) (s : State) : State :=
  let cid := s.cur.cid
  let s := popAll s u
  let t := consuming s (actOf s m) [a.val] fun act s =>
    let p := maskOf ((lanesOf act).filter fun l => laneAt (getV s a) l != 0)
    complete (setV s d act (mkLanes fun _ => f act p))
  if t.cur.alive && t.cur.cid == cid then feedPush t u 0 else t

def execVoteAny (d a : VReg) (s : State) : Res :=
  run (.voteAny d a) s (voteOp (uses1 d a) d a fun _ p => one (p != 0))
def execVoteAll (d a : VReg) (s : State) : Res :=
  run (.voteAll d a) s (voteOp (uses1 d a) d a fun act p => one (p == act))
def execVoteBal (d a : VReg) (s : State) : Res :=
  run (.voteBal d a) s (voteOp (uses1 d a) d a fun _ p => p.setWidth 64)

/-- A reduction of elements (R146). -/
def reduceEl (o : RedOp) (e : ElTy) (r : Rnd) (xs : List Nat) : Nat :=
  match e, xs with
  | _, [] => 0
  | .int t, x :: rest =>
    let w := IntTy.width t
    match o with
    | .add => (x + rest.sum) % 2 ^ w
    | .min => rest.foldl (fun a b => if toS w b < toS w a then b else a) x
    | .max => rest.foldl (fun a b => if toS w a < toS w b then b else a) x
    | .minu => rest.foldl min x
  | .flt t, x :: rest =>
    let f := FltTy.fmt t
    match o with
    | .add => f.sum r ((x :: rest).map f.decode)
    | .max => rest.foldl (f.minMax true) (f.minMax true x x)
    | _ => rest.foldl (f.minMax false) (f.minMax false x x)

/-- `rdc`, or `scan` when `up` (R146). -/
def reduceOp (u : Uses) (d a : VReg) (o : RedOp) (e : ElTy) (up : Bool) (m : Mods) (s : State) : State :=
  let cid := s.cur.cid
  let s := popAll s u
  let w := ElTy.width e
  let t := consuming s (actOf s m) [a.val] fun act s =>
    let lane (l : Nat) : Word :=
      let js := (lanesOf act).filter fun j => !up || decide (j ≤ l)
      pack w ((List.range (64 / w)).map fun i =>
        reduceEl o e (rndOf .ne m.rnd) (js.map fun j => sub w (laneAt (getV s a) j) i))
    complete (setV s d act (mkLanes lane))
  if t.cur.alive && t.cur.cid == cid then feedPush t u 0 else t

def execRdc (d a : VReg) (o : RedOp) (e : ElTy) (s : State) : Res :=
  run (.rdc d a o e) s (reduceOp (uses1 d a) d a o e false)
def execScan (d a : VReg) (o : RedOp) (e : ElTy) (s : State) : Res :=
  run (.scan d a o e) s (reduceOp (uses1 d a) d a o e true)

/-! ## Masks (R147, R148) -/

/-- A mask source. -/
def maskSrc (s : State) : MaskSel → Mask
  | .m k => getM s k
  | .xm => s.cur.fr.xm
  | .lm => s.cur.lm
/-- A mask destination; `xm` within the fragment's lanes (R148). -/
def maskDst (s : State) (d : MaskSel) (x : Mask) : State :=
  match d with
  | .m k => setM s k x
  | .xm => setXm s x
  | .lm => s

def execMmov (d a : MaskSel) (s : State) : Res := run (.mmov d a) s fun _ s => complete (maskDst s d (maskSrc s a))
def execMand (d a b : MaskSel) (s : State) : Res :=
  run (.mand d a b) s fun _ s => complete (maskDst s d (maskSrc s a &&& maskSrc s b))
def execMor (d a b : MaskSel) (s : State) : Res :=
  run (.mor d a b) s fun _ s => complete (maskDst s d (maskSrc s a ||| maskSrc s b))
def execMxor (d a b : MaskSel) (s : State) : Res :=
  run (.mxor d a b) s fun _ s => complete (maskDst s d (maskSrc s a ^^^ maskSrc s b))
def execMnot (d a : MaskSel) (s : State) : Res := run (.mnot d a) s fun _ s => complete (maskDst s d (~~~(maskSrc s a)))
def execMpop (d : CReg) (a : MaskSel) (s : State) : Res :=
  run (.mpop d a) s fun _ s => needFullFor s d fun s =>
    complete (setC s d (BitVec.ofNat 64 (popCount 32 (maskSrc s a).toNat)))
def execMfirst (d a : MaskSel) (s : State) : Res :=
  run (.mfirst d a) s fun _ s => complete (maskDst s d (lowestBit (maskSrc s a)))

end Sys2Proof.Machine
end

