-- ==== Sys2Proof/Machine/Memory.lean ====
section
/-! DEFINITION. Memory, atomic and fence instructions, and what happens to their accesses in flight (R222 to R245). -/

namespace Sys2Proof.Machine

open Sys2Proof

/-! ## Checks before any access (R229) -/

/-- An address per lane of `act`. -/
def laneAddrs (s : State) (m : Mods) (op : MOp) (n : Nat) (act : Mask) : List (Nat × Nat) :=
  (lanesOf act).map fun l => (l, addrOf s m op n l)

/-- A cause met by some lanes: the lowest lane's address, every such lane. -/
def laneTrap (c : Cause) (ls : List (Nat × Nat)) : Trap :=
  { cause := c, addr := (ls.headD (0, 0)).2, lanes := maskOf (ls.map fun x => x.1) }

/-- Misaligned lanes. -/
def misaligned (n : Nat) (ls : List (Nat × Nat)) : List (Nat × Nat) := ls.filter fun x => x.2 % n != 0

/-- The bytes of the block's scratchpad allocation. -/
def scratchOf (s : State) : Nat := match blockAt? s s.cur.block with | some b => b.scratchSize | none => 0

/-- What the translation of every lane answers. -/
inductive Lanes? where
  | ok (ls : List LaneAcc)
  | trap (t : Trap)
  | wait
  deriving DecidableEq, Repr, Inhabited

/-- Every lane translated for an access of one kind, before any is made: PGNP, then PGPERM (R229, R232). The lowest faulting lane's
page decides where a PGNP goes; of the others the batched path takes those whose own page goes there (R347). -/
def translateLanes (s : State) (acc : Acc) (kind : Nat) (ls : List (Nat × Nat × Nat)) : Lanes? × State :=
  let t := xlateLanes s s.cur.pair acc ls
  let rs := t.1
  let absent := rs.filter fun r => match r.2.2.2 with | .absent .. => true | _ => false
  let denied := rs.filter fun r => r.2.2.2 == .denied
  if rs.any fun r => r.2.2.2 == .migrating then (.wait, t.2)
  else match absent, denied with
    | a :: as, _ =>
      let first := a.2.2.2 == .absent true false
      let tr := laneTrap .pgnp ((a :: as).map fun r => (r.1, r.2.1))
      let batched := (a :: as).filter fun r => !(r.2.2.2 == .absent true false && supRoute t.2)
      (.trap { tr with info := first.toNat, sup := first, kind := kind, faulted := batched.map fun r => (r.1, r.2.1) }, t.2)
    | [], d :: ds => (.trap (laneTrap .pgperm ((d :: ds).map fun r => (r.1, r.2.1))), t.2)
    | [], [] =>
      (.ok (rs.filterMap fun r => match r.2.2.2 with
        | .ok pa perm => some ⟨r.1, r.2.1, pa, perm, r.2.2.1⟩
        | _ => none), t.2)

/-- A new access in flight behind a register, or behind none. -/
def addFut (s : State) (dest : Dest) (kind : FutKind) (bytes : List (PA × Nat)) (rel : Bool) : State :=
  let n := fresh s
  let f := n.2.cur.fr
  modCur n.2 fun c => { c with
    futs := c.futs ++ [⟨n.1, f.fid, f.po, depsFor n.2 c f.po bytes rel, dest, kind, []⟩] }

/-- The name of the youngest future. -/
def lastFut (s : State) : Nat := match s.cur.futs.getLast? with | some f => f.id | none => 0

/-- The default scope: `d` without ordering, device with it (R211). -/
def memScope (m : Mods) (d : Scope) : Scope := scopeOf (if m.ord = 0 then d else .device) m.scp

/-! ## Loads (R231 to R233) -/

/-- A load whose destination is a feed window pushes it once the load returns, or at once when no lane reads (R296). -/
def pushLoad (s : State) (u : Uses) (reads : Bool) : State := feedPush s u (if reads then lastFut s else 0)

/-- A global load's lanes accepted, faulting or waiting. -/
def issueLoad (s : State) (m : Mods) (ls : List (Nat × Nat)) (n : Nat) (x : Bool) (dest : Dest) (u : Uses) : State :=
  match misaligned n ls with
  | b :: bs => raise s (laneTrap .misalign (b :: bs))
  | [] =>
    let r := translateLanes s .read 0 (ls.map fun l => (l.1, l.2, 0))
    match r.1 with
    | .trap t => raise r.2 t
    | .wait => parkAs r.2 .migrate
    | .ok [] => complete (pushLoad r.2 u false)
    | .ok (l :: ls) =>
      let sc := memScope m .block
      complete (pushLoad (addFut r.2 dest (.load n x (l :: ls) sc (ordAcq m.ord)) (bytesOf (l :: ls) n) false) u true)

/-- The count of registers of a size. -/
def regsOf (z : Size) : Nat := if z == .b128 then 2 else 1

def execLd (d : VReg) (op : MOp) (z : Size) (x : Bool) (s : State) : Res :=
  run (.ld d op z x) s fun m s =>
    consuming s (actOf s m) (mopV op) fun act s =>
      issueLoad s m (laneAddrs s m op z.bytes act) z.bytes x (.v d.val (regsOf z)) (usesLd d op z)

/-- Scratchpad lanes: MISALIGN, then SPBOUND (R229). -/
def spadTrap (s : State) (n : Nat) (ls : List (Nat × Nat)) : Option Trap :=
  match misaligned n ls with
  | b :: bs => some (laneTrap .misalign (b :: bs))
  | [] => match ls.filter fun x => decide (scratchOf s < x.2 + n) with
    | b :: bs => some (laneTrap .spbound (b :: bs))
    | [] => none

/-- A scratchpad lane as an access. -/
def spadLane (s : State) (l : Nat × Nat) (data : Nat) : LaneAcc :=
  ⟨l.1, l.2, ⟨.spad s.cur.block, l.2⟩, ⟨true, true, false⟩, data⟩

def execLds (d : VReg) (op : MOp) (z : Size) (x : Bool) (s : State) : Res :=
  run (.lds d op z x) s fun m s =>
    consuming s (actOf s m) (mopV op) fun act s =>
      let ls := laneAddrs s m op z.bytes act
      match spadTrap s z.bytes ls with
      | some t => raise s t
      | none =>
        let la := ls.map fun l => spadLane s l 0
        if la.isEmpty then complete (pushLoad s (usesLd d op z) false)
        else complete (pushLoad (addFut s (.v d.val (regsOf z)) (.load z.bytes x la (scopeOf .block m.scp) false)
          (bytesOf la z.bytes) false) (usesLd d op z) true)

/-- `ldc`: a fault of it concerns no lane, so `tlanes` is 0 (R229, log 53 DEDUCED unsafe). -/
def execLdc (d : CReg) (op : MOp) (z : Size) (x : Bool) (s : State) : Res :=
  run (.ldc d op z x) s fun m s => needFullFor s d fun s =>
    let a := addrOf s m op z.bytes 0
    if a % z.bytes != 0 then raise s { cause := .misalign, addr := a }
    else
      let r := translateLanes s .read 0 [(0, a, 0)]
      match r.1 with
      | .trap t => raise r.2 { t with lanes := 0 }
      | .wait => parkAs r.2 .migrate
      | .ok ls =>
        complete (addFut r.2 (.c d.val (regsOf z)) (.load z.bytes x ls (memScope m .block) (ordAcq m.ord))
          (bytesOf ls z.bytes) false)

/-- A loaded element in a register (R231). -/
def loadVal (n : Nat) (x : Bool) (v : Nat) : Word :=
  if x then BitVec.ofInt 64 (toS (8 * n) v) else BitVec.ofNat 64 v

/-- A crew's future leaves it. -/
def dropFut (s : State) (cid id : Nat) : State :=
  modCrew s cid fun c => { c with futs := c.futs.filter fun f => f.id != id }

/-- A feed push gets the value of the load it waits for (R296). -/
def fillFeed (s : State) (c : Crew) (id : Nat) : State :=
  modCore s c.pair fun q => { q with feeds := q.feeds.map fun f =>
    if f.fut == id && f.cid == c.cid then
      { f with fut := 0, item := c.vreg (winOf (c.qregs.getD f.k default)) }
    else f }

/-- Values for a future's destination, lane by lane, with the lanes that receive poison. -/
def putDest (s : State) (cid : Nat) (dest : Dest) (lanes : Mask) (f : Nat → Nat → Word) (bad : Mask) : State :=
  match dest with
  | .v r n => modCrew s cid fun c =>
      (List.range n).foldl (fun c k => c.putV (r + k) lanes (mkLanes fun l => f k l) bad) c
  | .c r n => modCrew s cid fun c =>
      (List.range n).foldl (fun c k => if 63 ≤ r + k then c else { c with c := c.c.setIfInBounds (r + k) (f k 0) }) c
  | .none => s

/-- Every lane of a load read, in turn. -/
def readLanes (s : State) (p launch : Nat) (sc : Scope) (n : Nat) : List LaneAcc → List (Nat × Nat) × State
  | [] => ([], s)
  | l :: ls =>
    let r := laneRead s p launch sc l n
    let t := readLanes r.2 p launch sc n ls
    ((l.lane, r.1) :: t.1, t.2)

/-- The elements of lane accesses, by number: a lane of 128 bits is two of 8 bytes (R207). -/
def loadElems (n : Nat) (ls : List LaneAcc) : List (Nat × LaneAcc) :=
  ls.flatMap fun l =>
    if n = 16 then [(2 * l.lane, l), (2 * l.lane + 1, { l with va := l.va + 8, pa := l.pa.off 8 })] else [(2 * l.lane, l)]

/-- The elements of a load, those that have been read among them, the others read in turn (R207, R208). -/
def readElems (s : State) (p launch : Nat) (sc : Scope) (n : Nat) (got : List (Nat × Nat)) :
    List (Nat × LaneAcc) → List (Nat × Nat) × State
  | [] => ([], s)
  | e :: es =>
    let r := match kget got e.1 with
      | some v => (v, s)
      | none => laneRead s p launch sc e.2 (min n 8)
    let t := readElems r.2 p launch sc n got es
    ((e.1, r.1) :: t.1, t.2)

/-- What register `k` of a load's destination receives in a lane, from the elements (R231). -/
def loadedLane (n : Nat) (x : Bool) (es : List (Nat × Nat)) (k l : Nat) : Word :=
  let e := kgetD es (2 * l + k) 0
  if n = 16 then BitVec.ofNat 64 e else loadVal n x e

/-- Element `k` of load `id` of crew `cid` is read before the others (R207, R208). -/
def loadElement (s : State) (cid id k : Nat) : State :=
  match crew? s cid with
  | none => s
  | some c => match c.futs.find? fun f => f.id == id with
    | none => s
    | some f => match f.kind with
      | .load n _ ls sc _ =>
        (match (loadElems n ls).find? fun e => e.1 == k with
         | some e =>
           if !depsDone s cid f.deps || laneHeld s c.pair sc (min n 8) e.2 || laneBad s c.pair sc (min n 8) e.2 ||
               (kget f.got k).isSome then s
           else
             let r := laneRead s c.pair c.launch sc e.2 (min n 8)
             modCrew r.2 cid fun c => { c with futs := c.futs.map fun g =>
               if g.id == id then { g with got := (k, r.1) :: g.got } else g }
         | none => s)
      | _ => s

/-- A load returns: it reads, and its destination receives the data, or poison where it is uncorrectable, with a value of 0 there, which
no instruction reads; an `ldc` then replays the launch (R231, R232, R390). -/
def finishLoad (s : State) (c : Crew) (f : Fut) (bad : Mask) : State :=
  match f.kind with
  | .load n x ls sc acq =>
    if !depsDone s c.cid f.deps || ls.any (laneHeld s c.pair sc n) then s
    else
      let els := loadElems n ls
      let bad := badLanes s c.pair sc (min n 8) ((els.filter fun e => (kget f.got e.1).isNone).map fun e => e.2) bad
      let s := countUncorr s ((ls.filter fun l => inMask bad l.lane).map fun l => l.pa)
      let isC := match f.dest with | .c .. => true | _ => false
      let r := readElems s c.pair c.launch sc n f.got (els.filter fun e => !inMask bad e.2.lane)
      let s := if acq then acquireAt r.2 c.pair sc else r.2
      let v := loadedLane n x r.1
      if isC && bad != 0 then replayLaunch (dropFut s c.cid f.id) c.launch .uncorr
      else
        let s := dropFut (putDest s c.cid f.dest (maskOf (ls.map fun l => l.lane)) v bad) c.cid f.id
        match crew? s c.cid with
        | some c' => fillFeed s c' f.id
        | none => s
  | _ => s

/-! ## Stores (R234) -/

/-- The data of a lane of a store. -/
def storeData (s : State) (v : VReg) (z : Size) (l : Nat) : Nat :=
  if z == .b128 then (laneAt (getV s v) l).toNat + 2 ^ 64 * (laneAt (s.cur.vreg (v.val + 1)) l).toNat
  else (laneAt (getV s v) l).toNat % 2 ^ (8 * z.bytes)

/-- A trap of an instruction that popped: the queues and their windows are as before (R295, R229). -/
def unpop (old s : State) (u : Uses) : State :=
  modCur s fun c => { (popped old.cur u).foldl (fun c k =>
      let w := winOf (old.cur.qregs.getD k default)
      { c with v := c.v.setIfInBounds w (old.cur.v.getD w Lanes.zero),
               poison := c.poison.setIfInBounds w (old.cur.poison.getD w 0) }) c with
    qregs := old.cur.qregs }

def execSt (v : VReg) (op : MOp) (z : Size) (s : State) : Res :=
  run (.st v op z) s fun m s0 =>
    let u := usesSt v op z
    let s := popAll s0 u
    consuming s (actOf s m) u.r fun act s =>
      let ls := laneAddrs s m op z.bytes act
      match misaligned z.bytes ls with
      | b :: bs => raise (unpop s0 s u) (laneTrap .misalign (b :: bs))
      | [] =>
        if ls.isEmpty then complete s
        else
          let n := fresh s
          let f := n.2.cur.fr
          let x : StoreReq :=
            { id := n.1, fid := f.fid, pc := (tpcOf f).toNat, po := f.po, size := z.bytes, act := act,
              lanes := ls.map fun l => (l.1, l.2, storeData s v z l.1), scope := memScope m .block,
              rel := ordRel m.ord, ord := m.ord, scp := m.scp, skid := 0, hnd := f.handler }
          complete (modCur n.2 fun c => { c with stores := c.stores ++ [x] })

/-- Scratchpad elements of a store: a lane of 128 bits is two of 8 bytes (R207). -/
def spadElems (s : State) (v : VReg) (z : Size) (ls : List (Nat × Nat)) : List LaneAcc :=
  ls.flatMap fun l =>
    let d := storeData s v z l.1
    if z == .b128 then [spadLane s l (d % 2 ^ 64), spadLane s (l.1, l.2 + 8) (d / 2 ^ 64)] else [spadLane s l d]

def execSts (v : VReg) (op : MOp) (z : Size) (s : State) : Res :=
  run (.sts v op z) s fun m s0 =>
    let u := usesSt v op z
    let s := popAll s0 u
    consuming s (actOf s m) u.r fun act s =>
      let ls := laneAddrs s m op z.bytes act
      match spadTrap s z.bytes ls with
      | some t => raise (unpop s0 s u) t
      | none =>
        if ls.isEmpty then complete s
        else
          let w := pickWinners s (spadElems s v z ls)
          let n := fresh w.2
          let k := n.2.cur
          let sz := min z.bytes 8
          let deps := depsFor n.2 k k.fr.po (bytesOf w.1 sz) (ordRel m.ord)
          let mk (l : List LaneAcc) : StoreT :=
            ⟨n.1, k.cid, k.fr.fid, k.launch, k.pair, k.block, deps, sz, l, scopeOf .block m.scp, ordRel m.ord, none⟩
          complete { n.2 with storeQ := n.2.storeQ ++ (if ordRel m.ord then [mk w.1] else w.1.map fun l => mk [l]) }

def execDrain (s : State) : Res :=
  run .drain s fun _ s =>
    let s := translateAll s
    match dueImprec s .drain {} with
    | some t => raise s t
    | none => if s.cur.stores.isEmpty then complete s else parkAs s .drain

/-! ## Atomic operations (R237 to R240) -/

/-- The new element of an operation on an element of `w` bits. -/
def atomVal (op : AtomOp) (w e c x : Nat) : Nat :=
  let f := if w = 32 then fp32 else fp64
  match op with
  | .add => (e + x) % 2 ^ w
  | .and => e &&& x
  | .or => e ||| x
  | .xor => e ^^^ x
  | .min => if toS w x < toS w e then x else e
  | .max => if toS w e < toS w x then x else e
  | .minu => min e x
  | .maxu => max e x
  | .exch => x
  | .fadd => f.addV .ne (f.decode e) (f.decode x)
  | .fmin => f.minMax false e x
  | .fmax => f.minMax true e x
  | .cas => if e = c then x else e

/-- Is a home slice the site of a request (R238)? -/
def AtomReq.atHome (r : AtomReq) : Bool := r.at_.pa.sp == .loc && r.scope == .device

/-- The queue of a line at its home slice, its head first (R239). -/
def lineQueue (s : State) (line : Nat) : List AtomReq :=
  s.atoms.filter fun q => q.queued && q.atHome && q.at_.pa.a / 128 == line

/-- A line becomes hot when an operation arrives at its home slice while two or more are queued for it there and a tracker is
free (R239). -/
def noteHot (s : State) (r : AtomReq) : State :=
  let line := r.at_.pa.a / 128
  if r.atHome && decide (2 ≤ (lineQueue s line).length) && !s.hot.contains line &&
      decide ((s.hot.filter fun h => sliceOf h == sliceOf line).length < 16) then
    { s with hot := s.hot ++ [line] }
  else s

/-- Request `i` in flight reaches the queue of its site, behind those that stand there (R239). -/
def arriveAtom (s : State) (i : Nat) : State :=
  match s.atoms[i]? with
  | some q =>
    if q.queued || !depsDone s q.cid q.deps || linkHeld s (corePort q.pair) q.at_.pa then s
    else { noteHot s q with atoms := dropAt s.atoms i ++ [{ q with queued := true }] }
  | none => s

/-- `atom` and `cas` at issue: checks, translation for writing, then a request for each lane (R229, R237). -/
def issueAtom (op : AtomOp) (d : VReg) (mo : MOp) (w : Bool) (m : Mods) (s : State) : State :=
  let even := d.val % 2 == 0
  let srcs := if op == .cas then [d.val, d.val + 1] else if even then [d.val + 1] else [d.val]
  consuming s (actOf s m) (srcs ++ mopV mo) fun act s =>
    let n := if w then 8 else 4
    let ls := laneAddrs s m mo n act
    match misaligned n ls with
    | b :: bs => raise s (laneTrap .misalign (b :: bs))
    | [] =>
      let src := if even then d.val + 1 else d.val
      let low (r l : Nat) : Nat := (laneAt (s.cur.vreg r) l).toNat % 2 ^ (8 * n)
      let r := translateLanes s .write 3 (ls.map fun l => (l.1, l.2, low src l.1))
      match r.1 with
      | .trap t => raise r.2 t
      | .wait => parkAs r.2 .migrate
      | .ok [] => complete r.2
      | .ok (a :: as) =>
        let las := a :: as
        let sc := memScope m .device
        let rel := ordRel m.ord
        let dest := if even then Dest.v d.val 1 else .none
        let t := addFut r.2 dest (.atom w las las.length (ordAcq m.ord) rel) (bytesOf las n) rel
        let k := t.cur
        let id := lastFut t
        let deps := match k.futs.getLast? with | some f => f.deps | none => []
        complete { t with atoms := t.atoms ++ las.map fun l =>
          { fut := id, cid := k.cid, launch := k.launch, pair := k.pair, deps := deps, lane := l.lane, at_ := l, wide := w,
            op := op, cmp := if op == .cas then low d.val l.lane else 0, src := l.data, scope := sc, acq := ordAcq m.ord,
            rel := rel, ver := k.nbv.toNat % 16, reply := if even then some d.val else none,
            queued := false, logged := none } }

def execAtomAdd (d : VReg) (mo : MOp) (w : Bool) (s : State) : Res := run (.atomAdd d mo w) s (issueAtom .add d mo w)
def execAtomAnd (d : VReg) (mo : MOp) (w : Bool) (s : State) : Res := run (.atomAnd d mo w) s (issueAtom .and d mo w)
def execAtomOr (d : VReg) (mo : MOp) (w : Bool) (s : State) : Res := run (.atomOr d mo w) s (issueAtom .or d mo w)
def execAtomXor (d : VReg) (mo : MOp) (w : Bool) (s : State) : Res := run (.atomXor d mo w) s (issueAtom .xor d mo w)
def execAtomMin (d : VReg) (mo : MOp) (w : Bool) (s : State) : Res := run (.atomMin d mo w) s (issueAtom .min d mo w)
def execAtomMax (d : VReg) (mo : MOp) (w : Bool) (s : State) : Res := run (.atomMax d mo w) s (issueAtom .max d mo w)
def execAtomMinu (d : VReg) (mo : MOp) (w : Bool) (s : State) : Res := run (.atomMinu d mo w) s (issueAtom .minu d mo w)
def execAtomMaxu (d : VReg) (mo : MOp) (w : Bool) (s : State) : Res := run (.atomMaxu d mo w) s (issueAtom .maxu d mo w)
def execAtomExch (d : VReg) (mo : MOp) (w : Bool) (s : State) : Res := run (.atomExch d mo w) s (issueAtom .exch d mo w)
def execAtomFadd (d : VReg) (mo : MOp) (w : Bool) (s : State) : Res := run (.atomFadd d mo w) s (issueAtom .fadd d mo w)
def execAtomFmin (d : VReg) (mo : MOp) (w : Bool) (s : State) : Res := run (.atomFmin d mo w) s (issueAtom .fmin d mo w)
def execAtomFmax (d : VReg) (mo : MOp) (w : Bool) (s : State) : Res := run (.atomFmax d mo w) s (issueAtom .fmax d mo w)
def execCas (d : VReg) (mo : MOp) (w : Bool) (s : State) : Res := run (.cas d mo w) s (issueAtom .cas d mo w)

/-- The element's bytes at the site of a scope (R238): the core's L1, the cluster's unit, or the home, which what the cluster
holds of the line reaches before an operation there, so that no morally strong update is missed (R213). -/
def siteRead (s : State) (q : AtomReq) : Nat × State :=
  let n := if q.wide then 8 else 4
  let s := claimAt s q.launch q.at_.pa
  match q.at_.pa.sp with
  | .loc =>
    let s := noteRead s q.launch q.at_.pa.a
    (match q.scope with
     | .crew | .block =>
       let s := readReady s q.pair .block n q.at_
       (leNat ((List.range n).map fun i => readAt s q.pair .block (q.at_.pa.a + i)), s)
     | .cluster => (leNat ((List.range n).map fun i => readAt s q.pair .cluster (q.at_.pa.a + i)), s)
     | _ =>
       let s := settleLine s q.pair (q.at_.pa.a / 128)
       (leNat ((List.range n).map fun i => homeRead s (q.at_.pa.a + i)), s))
  | _ => (paNat s q.at_.pa n, s)

/-- The element written at its site. -/
def siteWrite (s : State) (q : AtomReq) (v : Nat) : State :=
  capStamp (laneWrite s q.pair q.launch q.scope q.at_ (if q.wide then 8 else 4) v) q.pair q.logged [q.at_]

/-- One lane's reply, and the future's end with its last lane (R237). -/
def atomReply (s : State) (q : AtomReq) (v : Nat) (bad : Bool) : State :=
  let m : Mask := maskOf [q.lane]
  let s := match q.reply with
    | some r => modCrew s q.cid fun c => c.putV r m (mkLanes fun _ => BitVec.ofNat 64 v) (if bad then m else 0)
    | none => s
  let s := match launchAt? s q.launch with | some l => progressRegion s l.lr.regn | none => s
  let dec (f : Fut) : Fut := if f.id == q.fut then
      (match f.kind with
       | .atom w ls n a r => { f with kind := .atom w ls (n - 1) a r }
       | _ => f)
    else f
  let s := modCrew s q.cid fun c => { c with futs := c.futs.map dec }
  let done (f : Fut) : Bool := f.id == q.fut && (match f.kind with | .atom _ _ n _ _ => n == 0 | _ => false)
  let last := match crew? s q.cid with | some c => c.futs.any done | none => false
  let s := modCrew s q.cid fun c => { c with futs := c.futs.filter fun f => !done f }
  if last && q.acq then acquireAt s q.pair q.scope else s

/-- The lanes of a request's instruction. -/
def atomLanes (s : State) (q : AtomReq) : List LaneAcc :=
  match (crew? s q.cid).bind fun c => c.futs.find? fun f => f.id == q.fut with
  | some f => (match f.kind with | .atom _ ls _ _ _ => ls | _ => [q.at_])
  | none => [q.at_]

/-- A release that an atomic carries is made once, with its first lane, and enters the promotion log with its one stamp (R214,
R223). -/
def atomRelease (s : State) (q : AtomReq) : AtomReq × State :=
  if !q.rel || q.logged.isSome then (q, s)
  else
    let s := logRelease (releaseAt s q.pair q.scope) q.pair q.scope (atomLanes s q)
    let n := some (coreAt s q.pair).stamp
    ({ q with logged := n }, { s with atoms := s.atoms.map fun r =>
      if r.cid == q.cid && r.fut == q.fut then { r with logged := n } else r })

/-- A line stops being hot when its queue empties (R239). -/
def coolLines (s : State) : State := { s with hot := s.hot.filter fun h => !(lineQueue s h).isEmpty }

/-- A request taken from the queue and applied. -/
def applyAtom (s : State) (q : AtomReq) (bad : Bool) : State :=
  let t := atomRelease s q
  let r := siteRead t.2 q
  let w := if q.wide then 64 else 32
  atomReply (siteWrite r.2 t.1 (atomVal q.op w r.1 q.cmp q.src)) q r.1 bad

/-- Do two queued operations combine (R239)? -/
def sameGroup (a b : AtomReq) : Bool :=
  a.at_.pa == b.at_.pa && a.wide == b.wide && a.op == b.op && (a.op == .add || a.op == .fadd) &&
    (a.op != .fadd || (a.ver == b.ver && a.ver != 4))

/-- May request `q` retire: nothing holds it, its release finds room in the log and its write-backs a way home, and no queued operation
stands before it in its line's queue (R223, R239, R345, R393)? -/
def mayRetire (s : State) (q : AtomReq) : Bool :=
  depsDone s q.cid q.deps && !laneHeld s q.pair q.scope (if q.wide then 8 else 4) q.at_ && !stalled s q.fut &&
    !(q.rel && q.logged.isNone && (logWaits s q.pair q.scope (atomLanes s q) || releaseHeld s q.pair q.scope)) &&
    (!q.atHome || match lineQueue s (q.at_.pa.a / 128) with
      | [] => true
      | h :: _ => h == q)

/-- The group of up to `n` that retires with `q`: of a hot line's queue the head and those that combine with it (R239). -/
def retireGroup (s : State) (q : AtomReq) (n : Nat) : List AtomReq :=
  if q.queued && q.atHome && s.hot.contains (q.at_.pa.a / 128) then
    ((lineQueue s (q.at_.pa.a / 128)).takeWhile fun r => r == q || sameGroup q r).take (max 1 (min n 8))
  else [q]

/-- The sum of a group's operands before its member `k`, added to M (R93, R239). -/
def groupVal (op : AtomOp) (w m : Nat) (xs : List Nat) : Nat :=
  match op with
  | .fadd =>
    let f := if w = 32 then fp32 else fp64
    let vs := xs.map f.decode
    match vs with
    | [] => m
    | _ => f.addV .ne (f.decode m) (exactSum (vs.all (FVal.isZero true)) vs)
  | _ => (m + xs.sum) % 2 ^ w

/-- A group of one element retires together (R239). -/
def applyGroup (s : State) (g : List AtomReq) : State :=
  match g with
  | [] => s
  | q :: rest =>
    if rest.isEmpty then applyAtom s q false
    else
      let s := g.foldl (fun s q => (atomRelease s q).2) s
      let r := siteRead s q
      let w := if q.wide then 64 else 32
      let xs := g.map fun x => x.src
      let s := siteWrite r.2 q (groupVal q.op w r.1 xs)
      (g.zipIdx).foldl (fun s x => atomReply s x.1 (groupVal q.op w r.1 (xs.take x.2)) false) s

/-- The site retires request `i`, or a group of which it is the head; an uncorrectable line is left as it is (R239, R240). -/
def retireAtom (s : State) (i n : Nat) (bad : Bool) : State :=
  match s.atoms[i]? with
  | none => s
  | some q =>
    if !mayRetire s q then s
    else if claimMoves s q.launch q.at_.pa then stall s q.fut
    else if bad || laneBad s q.pair q.scope (if q.wide then 8 else 4) q.at_ then
      let s := { s with atoms := dropAt s.atoms i }
      let s := countUncorr s [q.at_.pa]
      (match q.reply with
       | some _ => coolLines (atomReply s q 0 true)
       | none => replayLaunch (coolLines (atomReply s q 0 false)) q.launch .uncorr)
    else
      let g := retireGroup s q n
      let s := { s with atoms := s.atoms.filter fun x => !g.contains x }
      coolLines (applyGroup s g)

/-- Request `i` is applied and its response arrives in error (R240). -/
def atomError (s : State) (i : Nat) : State :=
  match s.atoms[i]? with
  | none => s
  | some q =>
    if !mayRetire s q || laneBad s q.pair q.scope (if q.wide then 8 else 4) q.at_ then s
    else if claimMoves s q.launch q.at_.pa then stall s q.fut
    else
      let s := { s with atoms := dropAt s.atoms i }
      report (coolLines (applyAtom s q true)) "ATOMERR" [q.at_.va, q.pair]

/-! ## `pacq` (R222 to R225, R241) -/

/-- One sequence at its home slice for each line of the lanes. -/
def startSeqs (s : State) (fut cid : Nat) (deps : List Nat) (ls : List LaneAcc) : State :=
  (distinct (ls.map fun l => l.pa.a / 128)).foldl (fun s pln =>
    let n := fresh s
    { n.2 with pacqs := n.2.pacqs ++
        [⟨n.1, fut, cid, pln, ls.filter fun l => l.pa.a / 128 == pln, deps, false, false, [], 0⟩] }) s

/-- `pacq` at issue: its lanes in local memory take the home-slice sequence of their line, the others are acquire loads at
device scope (R241). -/
def issuePacq (s : State) (ls : List (Nat × Nat)) (n : Nat) (x : Bool) (dest : Dest) : State :=
  match misaligned n ls with
  | b :: bs => raise s (laneTrap .misalign (b :: bs))
  | [] =>
    let r := translateLanes s .read 0 (ls.map fun l => (l.1, l.2, 0))
    match r.1 with
    | .trap t => raise r.2 t
    | .wait => parkAs r.2 .migrate
    | .ok las =>
      let near := las.filter fun l => l.pa.sp == .loc
      let far := las.filter fun l => l.pa.sp != .loc
      let s := if far.isEmpty then r.2
        else addFut r.2 dest (.load n x far .device true) (bytesOf far n) false
      let s := if near.isEmpty then s
        else
          let s := addFut s dest (.pacq n x near) (bytesOf near n) false
          let deps := match s.cur.futs.getLast? with | some f => f.deps | none => []
          startSeqs s (lastFut s) s.cur.cid deps near
      complete s

def execPacq (d : VReg) (op : MOp) (z : Size) (x : Bool) (s : State) : Res :=
  run (.pacq d op z x) s fun m s =>
    consuming s (actOf s m) (mopV op) fun act s =>
      issuePacq s (laneAddrs s m op z.bytes act) z.bytes x (.v d.val (regsOf z))

/-- A sequence changed. -/
def modSeq (s : State) (id : Nat) (f : PacqSeq → PacqSeq) : State :=
  { s with pacqs := s.pacqs.map fun q => if q.id == id then f q else q }

/-- The bytes of a line at its home. -/
def homeLine (s : State) (pln : Nat) : BitVec 1024 := lineOf ((List.range 128).map fun i => homeRead s (pln * 128 + i))

/-- A line with the bytes of a mask taken from another. -/
def mergeLine (old new : BitVec 1024) (m : BitVec 128) : BitVec 1024 :=
  lineOf ((List.range 128).map fun i => if m.getLsbD i then lineByte new i else lineByte old i)

/-- Sequence `i` takes its snapshot and sends its requests, once no earlier `pacq` or eviction of its line is in progress and no
hint of its line waits for an eviction (R224, R225). What the crew's own cluster has of the line goes home first, behind its hints
(R213, R223). The line is kept as it then stands: a write that reaches the home later without a request of this sequence is not read by it. -/
def snapshot (s : State) (i : Nat) : State :=
  match s.pacqs[i]? with
  | none => s
  | some q =>
    let before := s.pacqs.any (fun r => r.snap && r.pln == q.pln) || ((s.pacqs.take i).any fun r => r.evict && r.pln == q.pln)
    let home : PA := ⟨.loc, q.pln * 128⟩
    let p := match crew? s q.cid with | some c => c.pair | none => 0
    if q.snap || before || !depsDone s q.cid q.deps || (!q.evict && linkHeld s (corePort p) home) then s
    else
      let s := if q.evict then s else settleLine s p q.pln
      if s.hintQ.any fun h => h.2 == q.pln then s else
      let t := relTable s q.pln
      let targets := match t.find? fun e => e.pln == q.pln with
        | some e => e.targets
        | none => []
      let left := if q.evict then t.map fun e => if e.pln == q.pln then { e with cores := [], overflow := false } else e
        else t.filter fun e => e.pln != q.pln
      let s := { s with releasers := kset s.releasers (sliceOf q.pln) left }
      let s := modSeq s q.id fun r => { r with snap := true, acks := targets, img := homeLine s q.pln }
      { s with requests := s.requests ++ targets.map fun p => (q.id, p) }

/-- Is an eviction's sequence at its end? Its entry is free again unless a later hint has joined it, and the hints that waited
for it reach the slice (R224). -/
def evictDone (s : State) (q : PacqSeq) : State :=
  let t := (relTable s q.pln).filter fun e => !(e.pln == q.pln && e.cores.isEmpty && !e.overflow)
  retryHints { s with releasers := kset s.releasers (sliceOf q.pln) t } (sliceOf q.pln)

/-- Promote request `i` reaches its core, which promotes its entries for the line and acknowledges; the sequence sees what
that writes back of its line. It does not reach the core between the elements of a release to the line (R223, R225). -/
def promoteRequestAt (s : State) (i : Nat) : State :=
  match s.requests[i]? with
  | none => s
  | some (id, p) =>
    let t := { s with requests := dropAt s.requests i }
    match s.pacqs.find? fun q => q.id == id with
    | none => t
    | some q =>
      let due := ((coreAt s p).plog.filter fun e => !e.pro && e.pln == q.pln).map fun e => e.stmp
      if linkHeld s (corePort p) ⟨.loc, q.pln * 128⟩ || releasing s p (fun l => l == q.pln) ||
          wbHeld s p (fun l => due.any fun n => decide (l.stamp ≤ n)) then s
      else
        let old := l1Line? (coreAt t p) q.pln
        let t := promoteWhere (modCore t p fun c => countEvt c 0x0C 1) p fun e => e.pln == q.pln
        let wrote (img : BitVec 1024) : BitVec 1024 := match old, l1Line? (coreAt t p) q.pln with
          | some o, some n => mergeLine img o.data (o.dirty &&& ~~~n.dirty)
          | _, _ => img
        modSeq t id fun r => { r with acks := r.acks.filter (fun c => c != p), img := wrote r.img }

/-- Sequence `i` has its acknowledgements: it reads its lanes and its future ends with its last line (R225, R232). -/
def finishPacq (s : State) (i : Nat) (bad : Mask) : State :=
  match s.pacqs[i]? with
  | none => s
  | some q =>
    if !q.snap || !q.acks.isEmpty then s
    else
      let s := { s with pacqs := dropAt s.pacqs i }
      if q.evict then evictDone s q
      else match crew? s q.cid with
      | none => s
      | some c => match c.futs.find? fun f => f.id == q.fut with
        | none => s
        | some f => match f.kind with
          | .pacq n x left =>
            let bad := badLanes s c.pair .device n q.lanes bad
            let s := countUncorr s ((q.lanes.filter fun l => inMask bad l.lane).map fun l => l.pa)
            let s := forgetClean (q.lanes.foldl (fun s l => noteRead s c.launch l.pa.a) s) c.pair q.pln
            let es := (loadElems n q.lanes).map fun e =>
              (e.1, leNat ((List.range (min n 8)).map fun i => lineByte q.img ((e.2.pa.a + i) % 128)))
            let s := putDest s c.cid f.dest (maskOf (q.lanes.map fun l => l.lane)) (loadedLane n x es) bad
            let rest := left.filter fun l => l.pa.a / 128 != q.pln
            if rest.isEmpty then acquireAt (dropFut s c.cid f.id) c.pair .device
            else modCrew s c.cid fun c => { c with futs := c.futs.map fun g =>
              if g.id == f.id then { g with kind := .pacq n x rest } else g }
          | _ => s

/-! ## Fences, prefetch, cache control and location (R242 to R245) -/

/-- What a fence waits for: the crew's writes when it releases, with a link that holds their way to its scope, and the accesses that
precede it (R242, R393, log 26 DEDUCED safe). -/
def fenceClear (s : State) (c : Crew) (f : Frag) (rel : Bool) (sc : Scope) : Bool :=
  !(rel && releaseHeld s c.pair sc) && c.stores.isEmpty && !((s.storeQ.filter fun x => x.cid == c.cid).any fun x => rel || f.po.contains x.fid) &&
    !((barPending s c.cid).any fun o => rel || f.po.contains o.fid) && !(c.futs.any fun x => x.pend?.isSome && (f.po.contains x.fid ||
      (rel && match x.kind with | .atom .. => true | _ => false)))

/-- A fence takes effect (R242). -/
def fenceDone (s : State) (acq rel : Bool) (sc : Scope) : State :=
  let s := if rel then releaseAt s s.cur.pair sc else s
  if acq then acquireAt s s.cur.pair sc else s

def execFence (s : State) : Res :=
  run .fence s fun m s =>
    let acq := m.ord == 0 || ordAcq m.ord
    let rel := m.ord == 0 || ordRel m.ord
    let sc := scopeOf .device m.scp
    let s := translateAll s
    match dueImprec s .fence {} with
    | some t => raise s t
    | none => if fenceClear s s.cur s.cur.fr rel sc then complete (fenceDone s acq rel sc) else parkAs s (.fence acq rel sc)

def execPref (op : MOp) (z : Size) (s : State) : Res :=
  run (.pref op z) s fun m s =>
    consuming s (actOf s m) (mopV op) fun act s =>
      let ls := (laneAddrs s m op z.bytes act).filter fun x => x.2 % z.bytes == 0
      complete (ls.foldl (fun s l =>
        let r := xlate s s.cur.pair .read l.2
        match r.1 with
        | .ok pa perm => (match pa.sp with
          | .loc =>
            if linkHeld s (corePort s.cur.pair) pa || fillHeld r.2 s.cur.pair (l.2 / 128) (pa.a / 128) then r.2
            else fillLine r.2 s.cur.pair (l.2 / 128) (pa.a / 128) perm
          | _ => r.2)
        | _ => r.2) s)

def execCctlWb (a b : CReg) (s : State) : Res :=
  run (.cctlWb a b) s fun _ s =>
    complete (writeBackAll s s.cur.pair fun l => inRange (getC s a).toNat (ctlLen s b) l.vln)

def execCctlInv (a b : CReg) (s : State) : Res :=
  run (.cctlInv a b) s fun _ s =>
    let hit := (coreAt s s.cur.pair).l1.filter fun l => inRange (getC s a).toNat (ctlLen s b) l.vln
    complete (hit.foldl (fun s l => dropLine s s.cur.pair l) s)

def execCctlIinv (a b : CReg) (s : State) : Res :=
  run (.cctlIinv a b) s fun _ s =>
    if ctlLen s b = 0 then complete s else parkAs s (.iinv (getC s a).toNat (ctlLen s b))

/-- Every core has acknowledged: its cached lines of the range are gone, and so is the crew's buffer (R244). -/
def iinvDone (s : State) : State :=
  match s.cur.fr.park with
  | .iinv a n =>
    let s := { s with cores := s.cores.map fun (x : Nat × Core) =>
      (x.1, { x.2 with icache := x.2.icache.filter fun l => !inRange a n l.vln }) }
    completeParked (modCur s fun c => { c with ibuf := [] })
  | _ => s

/-- `locq` of an address (R245). -/
def locqAddr (s : State) (va : Nat) : Nat :=
  if !canonical va then 0xC000
  else match walk s va with
    | .malformed => 0xC000
    | .leaf e bits _ =>
      if !pteV e && !pteMG e then 0xC000
      else
        let pa := leafPA e bits va
        match pa.sp with
        | .loc =>
          let h := Config.homeSlice (pa.a / 128) % 192
          256 * (h / 48) + h % 48
        | .sys => 0x8000
        | _ => 0x4000

/-- `locq` of the crew (R245). -/
def locqSelf (k : Crew) : Nat :=
  k.pair + 256 * dieOf k.pair + 1024 * (k.pair % 48 / 8) + 2 ^ 16 * (k.slot % 4) + 2 ^ 24 * k.slot

def execLocq (d a : CReg) (k : Bit1) (s : State) : Res :=
  run (.locq d a k) s fun _ s => needFullFor s d fun s =>
    complete (setC s d (BitVec.ofNat 64 (if k.val = 0 then locqAddr s (getC s a).toNat else locqSelf s.cur)))

end Sys2Proof.Machine
end

