-- ==== Sys2Proof/Machine/Issue.lean ====
section
/-! DEFINITION. Which fragment issues (R26 to R29, R57, R235, R335), what else a fragment's turn changes, and the events of
fragments: fusion, reload, promotion, yield holds, retirement, PREEMPT, budgets and fetch. -/

namespace Sys2Proof.Machine

open Sys2Proof

/-! ## Readiness (R26) -/

/-- The hint in a word, if it is one. -/
def hintOf (w : Nat) : Option Hint :=
  match decode w with
  | .ok (.hintLo p) => some (.lo p)
  | .ok (.hintHi p) => some (.hi p)
  | .ok (.hintMod p) => some (.mod p)
  | .ok (.hintJoin p) => some (.join p)
  | _ => none

/-- The rest of a run from an address with the word that ends it: its consumer, or a hint that breaks it. None while a word
of it is not in the buffer. -/
def aheadGo (ibuf : List (Nat × BitVec 32)) : Nat → List Hint → Nat → Option (List Hint × Nat)
  | 0, _, _ => none
  | n + 1, run, pc =>
    match kget ibuf pc with
    | none => none
    | some w => match hintOf w.toNat with
      | some h => if runBreaks run h || !runAdmits run h then some (run, w.toNat) else aheadGo ibuf n (run ++ [h]) (pc + 4)
      | none => some (run, w.toNat)

/-- The whole run of a fragment's next instruction, and the word that ends it, all in the buffer before the first of them issues
(R26, R57, log 57 DEDUCED unsafe). -/
def ahead (c : Crew) (f : Frag) : Option (List Hint × Nat) := aheadGo c.ibuf 8 f.run f.pc.toNat

/-- A fragment with its whole run behind it, at the word that ends it. -/
def withRun (f : Frag) (run : List Hint) : Frag :=
  { f with run := run, pc := f.pc + BitVec.ofNat 57 (4 * (run.length - f.run.length)) }

/-- May a fragment issue at all: resident, not parked, not held by `yield`, not suspended by a handler, a save or a trap that
waits to be delivered (R26, R183, R193)? -/
def runnable (c : Crew) (f : Frag) : Bool :=
  f.entry.isSome && (match f.park with | .none => true | .failed .. => true | .cont => true | _ => false) && f.hold.isNone &&
    c.saving == 0 && (c.cst.lvl == .none || f.handler) && !(c.cst.lvl == .preempt && c.hbud == 0) && c.entering.isNone

/-- Does no store of the crew wait at its sixteenth instruction, when `n` more issue (R235)? -/
def skidOk (c : Crew) (n : Nat) : Bool := c.stores.all fun x => decide (x.skid + n ≤ 15)

/-- A fault that a batch or a latch left with the fragment, which its next issue delivers, word or no word (R166, R352). -/
def hasFailed (f : Frag) : Bool := (failedTrap f).isSome

/-- A crew with a fragment of its own, changed, as the issuing one. -/
def focused (c : Crew) (f : Frag) : Crew := { c with fr := f, frags := c.all.filter fun x => x.fid != f.fid }

/-- Is a fragment ready (R26)? -/
def ready (s : State) (c : Crew) (f : Frag) : Bool :=
  runnable c f &&
    match ahead c f with
    | none => hasFailed f
    | some (run, w) =>
      skidOk c (run.length - f.run.length + 1) &&
        match decode w with
        | .ok i => !held { s with cur := focused c (withRun f run) } i
        | .error _ => true

/-! ## The choice of R27 -/

/-- The priority of a crew's region. -/
def priOf (s : State) (c : Crew) : Nat := match regionAt? s c.region with | some r => r.pri | none => 0

/-- The fragments of a quarter. -/
def quarterFrags (s : State) (p q : Nat) : List (Crew × Frag) :=
  ((crewsOn s p).filter fun c => c.slot % 4 == q).flatMap fun c => c.all.map fun f => (c, f)

/-- Does `x` go before `y` among fragments that are not promoted? -/
def goesBefore (s : State) (x y : Crew × Frag) : Bool :=
  let px := priOf s x.1
  let py := priOf s y.1
  if px != py then decide (py < px)
  else if x.2.stamp != y.2.stamp then decide (x.2.stamp < y.2.stamp)
  else decide (x.2.entry.getD 0 < y.2.entry.getD 0)

/-- The first of a list under `goesBefore`. -/
def firstOf (s : State) : List (Crew × Frag) → Option (Crew × Frag)
  | [] => none
  | x :: l => match firstOf s l with
    | some y => if goesBefore s y x then some y else some x
    | none => some x

/-- A quarter of a core. -/
def quarterAt (s : State) (p q : Nat) : Quarter := (coreAt s p).quarters.getD q Quarter.zero
/-- A quarter changed. -/
def modQuarter (s : State) (p q : Nat) (f : Quarter → Quarter) : State :=
  modCore s p fun c => { c with quarters := c.quarters.setIfInBounds q (f (c.quarters.getD q Quarter.zero)) }

/-- The name of a fragment of a crew. -/
def nameOf (x : Crew × Frag) : Nat × Nat := (x.1.cid, x.2.fid)

/-- A fragment whose run is in progress, but whose consumer has meanwhile come to wait, gives the quarter up: its hints issue again
later (R29, R57, log 62 DEDUCED unsafe). -/
def releaseTurn (s : State) (p q : Nat) : State :=
  match (quarterAt s p q).turn with
  | none => s
  | some t =>
    match (quarterFrags s p q).find? fun x => nameOf x == t with
    | some x =>
      if 0 < (quarterAt s p q).busy || !runnable x.1 x.2 || ready s x.1 x.2 then s
      else
        let s := modCrew s t.1 fun c => c.modFrag t.2 fun f => { f with pc := tpcOf f, run := [] }
        modQuarter s p q fun k => { k with turn := none }
    | none => s

/-- The fragment that issues: one whose run is in progress, else a promoted one, else by priority and age (R27, R57). -/
def pick (s : State) (p q : Nat) : Option (Crew × Frag) :=
  let all := quarterFrags s p q
  let k := quarterAt s p q
  let inTurn := match k.turn with
    | some t => all.find? fun x => nameOf x == t && runnable x.1 x.2
    | none => none
  match inTurn with
  | some x => some x
  | none =>
    let rs := all.filter fun x => ready s x.1 x.2
    match k.promo.findSome? fun t => rs.find? fun x => nameOf x == t with
    | some x => some x
    | none => firstOf s rs

/-! ## Promotion and holds (R28, R183) -/

/-- A fragment whose count is 64 joins its quarter's promotion list (R28). -/
def promote (s : State) (p sl fid : Nat) : State :=
  match (crewsOn s p).find? fun c => c.slot == sl with
  | none => s
  | some c => match c.frag? fid with
    | none => s
    | some f =>
      if f.passed < 64 || f.entry.isNone || (quarterAt s p (sl % 4)).promo.contains (c.cid, fid) then s
      else modQuarter s p (sl % 4) fun k => { k with promo := k.promo ++ [(c.cid, fid)] }

def execPromotion (p sl fid : Nat) (s : State) : Res := .next (promote s p sl fid)

/-- Fragments that reach 64 together, in the order of R27 (R28). -/
def promoteAll (s : State) (p : Nat) : Nat → List (Crew × Frag) → State
  | 0, _ => s
  | n + 1, l =>
    match firstOf s l with
    | none => s
    | some x => promoteAll (promote s p x.1.slot x.2.fid) p n (l.filter fun y => nameOf y != nameOf x)

/-- A yield hold that has stood for 16 idle issue cycles clears (R183). -/
def expireHold (s : State) (p sl fid : Nat) : State :=
  match (crewsOn s p).find? fun c => c.slot == sl with
  | none => s
  | some c => modCrew s c.cid fun c => c.modFrag fid fun f =>
      match f.hold with
      | some n => if 16 ≤ n then { f with hold := none } else f
      | none => f

def execYieldHoldExpiry (p sl fid : Nat) (s : State) : Res := .next (expireHold s p sl fid)

/-- An issue cycle of a quarter in which nothing issues: holds age, and end at 16 (R183). -/
def idleCycle (s : State) (p q : Nat) : State :=
  (quarterFrags s p q).foldl (fun s x =>
    if x.2.hold.isNone then s
    else
      let s := modCrew s x.1.cid fun c => c.modFrag x.2.fid fun f => { f with hold := f.hold.map (· + 1) }
      expireHold s p x.1.slot x.2.fid) s

/-- What an issue by `who` does to the other fragments of its quarter: those that were ready are passed over, holds clear,
and counts of 64 promote (R28, R183). -/
def passOver (s : State) (p q : Nat) (who : Nat × Nat) (waiting : List (Nat × Nat)) : State :=
  let s := (quarterFrags s p q).foldl (fun s x =>
    if nameOf x == who then s
    else modCrew s x.1.cid fun c => c.modFrag x.2.fid fun f =>
      { f with hold := none, passed := if waiting.contains (nameOf x) then min 64 (f.passed + 1) else f.passed }) s
  let due := (quarterFrags s p q).filter fun x => decide (64 ≤ x.2.passed)
  promoteAll s p due.length due

/-! ## Costs and budgets (R122, R322) -/

/-- The issue cycles of an instruction (R122). -/
def issueCost : Instr → Nat
  | .fadd _ _ _ t | .fsub _ _ _ t | .fmul _ _ _ t | .ffma _ _ _ t | .fmin _ _ _ t | .fmax _ _ _ t | .fcmp _ _ _ _ t
  | .fcmpUo _ _ _ t => if t == .f64 then 2 else 1
  | .frcp _ _ t | .frsq _ _ t | .fsqrt _ _ t | .fexp2 _ _ t | .flog2 _ _ t | .fsin _ _ t | .fcos _ _ t =>
    if t == .f32x2 then 2 else 4
  | .welf .. | .wmrg .. => 4
  | .dot8Binary8 .. | .rdc .. | .scan .. => 2
  | _ => 1

/-- Core `p` debits instance `i` with 4,096 counted cycles (R322). -/
def debit (s : State) (p i : Nat) : State :=
  let n := kgetD (coreAt s p).debit i 0
  if n < 4096 then s
  else debitBudget (modCore s p fun c => { c with debit := kset c.debit i (n - 4096) }) i 4096

def execBudgetDebit (p i : Nat) (s : State) : Res := .next (debit s p i)

/-- One issue cycle of a crew's fragment counted (R322, R369). -/
def countCycle (s : State) (p : Nat) (region : Nat) : State :=
  let s := modCore s p fun c => countEvt c 0x01 1
  match regionAt? s region with
  | some r => debit (modCore s p fun c => { c with debit := kmod c.debit r.instS (· + 1) }) p r.instS
  | none => s

/-! ## Events of fragments -/

/-- An event of a fragment: nothing when there is no such fragment. -/
def onFrag (s : State) (p sl fid : Nat) (k : State → State) : Res :=
  .next (match focus s p sl with
    | some t => match focusFrag t fid with
      | some u => k u
      | none => s
    | none => s)

/-- An event of a crew. -/
def onCrew (s : State) (p sl : Nat) (k : State → State) : Res :=
  .next (match focus s p sl with
    | some t => k t
    | none => s)

/-- The record that names `j` is around a link. -/
def underJoin (js : List JoinRec) (j : Nat) : Nat → Option Nat → Bool
  | 0, _ => false
  | _, none => false
  | n + 1, some l =>
    l == j || match js.find? fun r => r.jid == l with
      | some r => underJoin js j n r.outer
      | none => false

/-- Fragments that carry record `j`, itself or around their own. -/
def carriers (c : Crew) (j : Nat) : List Frag := c.all.filter fun f => underJoin c.joins j (c.joins.length + 1) f.join

/-- The arrived fragments of a complete record become one (R179, R180, R334, R335). -/
def fuse (s : State) (r : JoinRec) (fs : List Frag) : State :=
  let n := fresh s
  let st := stampNow n.2
  let s := st.2
  let fl := fs.foldl (fun m f => m ||| f.fl) 0
  let res := (fs.filterMap fun f => f.entry).foldl (fun (m : Option Nat) e => some (match m with | some x => min x e | none => e)) none
  let names := fs.map fun f => (s.cur.cid, f.fid)
  let s := modCore s s.cur.pair fun c => { c with quarters := c.quarters.map fun q =>
    { q with promo := q.promo.filter fun x => !names.contains x } }
  let h : Frag := { Frag.zero with
    fid := n.1, pc := r.j, fl := fl, xm := fl, dmk := crcWord 0xFFFFFFFF 3, join := r.outer, entry := res, order := n.1,
    stamp := st.1, handler := fs.any fun f => f.handler, preds := predsOf s fs }
  let rest := s.cur.all.filter fun f => !(fs.any fun x => x.fid == f.fid)
  modCur s fun c => { c with
    fr := h, frags := rest, joins := c.joins.filter fun x => x.jid != r.jid,
    trapped := if fs.any fun f => f.fid == c.trapped then h.fid else c.trapped }

/-- Record `j` of the crew at issue, when it is complete: fusion, SIGMISS, or its deletion (R179). The fragment that a trap
suspended fuses after its return, which sets its address and mask (R198, log 63 DESIGN CHOICE unsafe). -/
def joinStep (s : State) (j : Nat) : State :=
  match s.cur.joins.find? fun r => r.jid == j with
  | none => s
  | some r =>
    let cs := carriers s.cur j
    match cs with
    | [] => modCur s fun c => { c with joins := c.joins.filter fun x => x.jid != j }
    | f :: fs =>
      if !((f :: fs).all fun f => f.park == .join && f.join == some j) ||
          (s.cur.cst.lvl != .none && (f :: fs).any fun f => f.fid == s.cur.trapped) then s
      else
        let fl := cs.foldl (fun m f => m ||| f.fl) 0
        let n := (cs.map fun f => (lanesOf f.fl).length).sum
        if fl == r.p &&& s.cur.lm && n == (lanesOf fl).length then fuse s r cs
        else replayLaunch (report s "SIGMISS" [r.jid]) s.cur.launch .sigmiss

def execJoinFusion (p sl j : Nat) (s : State) : Res := onCrew s p sl fun s => joinStep s j

/-- The oldest spilled fragment takes an entry when there is one (R180, R333, R334). -/
def reload (s : State) : State :=
  let spilled := s.cur.all.filter fun f => f.entry.isNone
  match spilled with
  | [] => s
  | f :: fs =>
    let old := fs.foldl (fun (m : Frag) x => if x.order < m.order then x else m) f
    match freeEntry? s s.cur.pair s.cur.slot with
    | none => s
    | some e =>
      let st := stampNow s
      modCur st.2 fun c => c.modFrag old.fid fun x => { x with entry := some e, stamp := st.1 }

def execFragmentReload (p sl : Nat) (s : State) : Res := onCrew s p sl reload

def execEndRetire (p sl fid : Nat) (s : State) : Res :=
  onFrag s p sl fid fun t => if t.cur.fr.park == .ending then endStep { t with ir := t.cur.fr.word } else s

/-- PREEMPT delivered to a crew none of whose fragments is about to issue, where the causes of an instruction would go first: of
those only a recorded store fault is due, and one whose pages take the batched path traps no more than a wait does (R33, R195, R196,
R350). -/
def preemptIdle (s : State) : State :=
  if s.cur.all.any fun f => ready s s.cur f then s
  else match firstIdx Imprec.isStore s.cur.imprec with
    | some k => (s.cur.imprec[k]?).elim s fun e =>
        let t := imprecTrap s k e
        let u := focusLowest s
        if takesBatch s t then takePreempt s else takeTrap u t (tpcOf u.cur.fr)
    | none => takePreempt s

def execTrapDelivery (p sl : Nat) (s : State) : Res :=
  onCrew s p sl fun t => if t.cur.preDue.isSome && t.cur.cst.lvl == .none && t.cur.saving == 0 && t.cur.entering.isNone then preemptIdle t else s

/-- Is the handler budget of a crew spent (R33, R199)? -/
def budgetSpent (s : State) (c : Crew) : Bool :=
  (c.cst.lvl == .preempt && c.hbud == 0) ||
    (c.cst.lvl != .preempt && match c.preDue, regionAt? s c.region with
      | some n, some r => decide (r.hbg ≤ n)
      | _, _ => false)

def execHbudExpiry (p sl : Nat) (s : State) : Res :=
  onCrew s p sl fun t => if budgetSpent t t.cur && t.cur.saving == 0 then trySave (startSave t 2) else s

/-! ## Fetch (R36) -/

/-- A word of an instruction line. -/
def ilineWord (l : ILine) (va : Nat) : BitVec 32 := l.data.extractLsb' (32 * (va % 128 / 4)) 32

/-- A word enters the crew's buffer of 8. -/
def bufferWord (c : Crew) (va : Nat) (w : BitVec 32) : Crew :=
  let rest := c.ibuf.filter fun x => x.1 != va
  { c with ibuf := (if rest.length < 8 then rest else rest.drop 1) ++ [(va, w)] }

/-- Is the word at `va` one that the fragment's next instruction or its run still needs? -/
def needed (c : Crew) (f : Frag) (va : Nat) : Bool := (ahead { c with ibuf := c.ibuf ++ [(va, 0#32)] } f).isSome && (ahead c f).isNone

/-- The word at `va` is fetched for the issuing fragment: from the instruction cache, else through translation. A fault is
taken only for a word that is needed (R36, R177, R192, R347); whether the line is cached or not, the launch reads it (R356). -/
def fetchWord (s : State) (va : Nat) : State :=
  let p := s.cur.pair
  if stalled s s.cur.fr.fid || hasFailed s.cur.fr then s else
  match (coreAt s p).icache.find? fun l => l.vln == va / 128 with
  | some l =>
    let s := match xlateFresh s .fetch va with
      | .ok pa _ => (match pa.sp with | .loc => noteRead s s.cur.launch pa.a | _ => s)
      | _ => s
    modCur s fun c => bufferWord c va (ilineWord l va)
  | none =>
    let r := xlate s p .fetch va
    let s := r.2
    match r.1 with
    | .ok pa _ =>
      if linkHeld s (corePort p) pa then s else
      let base : PA := { pa with a := pa.a / 128 * 128 }
      let s := match pa.sp with | .loc => noteRead s s.cur.launch pa.a | _ => s
      let l : ILine := ⟨va / 128, lineOf (paBytes s base 128)⟩
      let s := modCore s p fun c => { c with icache := c.icache ++ [l] }
      modCur s fun c => bufferWord c va (ilineWord l va)
    | .migrating => stall s s.cur.fr.fid
    | .denied =>
      if needed s.cur s.cur.fr va then raise s { cause := .ifperm, addr := va, lanes := 0 } else s
    | .absent first gone =>
      if needed s.cur s.cur.fr va then
        raise s { cause := .pgnp, addr := va, info := 2 + first.toNat, sup := first || gone, kind := 2, faulted := [(32, va)] }
      else s

def execInstructionFetch (p sl fid k : Nat) (s : State) : Res :=
  onFrag s p sl fid fun t => if runnable t.cur t.cur.fr && decide (k < 8) then fetchWord t (t.cur.fr.pc.toNat + 4 * k) else s

/-! ## Memory events (R223 to R225, R231, R234, R239, R240) -/

def execLoadComplete (p sl id : Nat) (bad : BitVec 32) (s : State) : Res :=
  .next (match (crewsOn s p).find? fun c => c.slot == sl with
    | some c => match c.futs.find? fun f => f.id == id with
      | some f => finishLoad s c f bad
      | none => s
    | none => s)

def execStoreTranslate (p sl : Nat) (s : State) : Res :=
  onCrew s p sl fun t => (translateHead t).getD s

def execStorePerformed (i : Nat) (s : State) : Res := .next (performAt s i)
def execAtomicRetire (i n : Nat) (bad : Bool) (s : State) : Res := .next (retireAtom s i n bad)
def execAtomErr (i : Nat) (s : State) : Res := .next (atomError s i)

/-- A promotion hint reaches its home slice (R224, log 26 DEDUCED safe). -/
def execPromotionHint (i : Nat) (s : State) : Res :=
  .next (match s.hints[i]? with
    | some h => if linkHeld s (corePort h.1) ⟨.loc, h.2 * 128⟩ then s else hintAt { s with hints := dropAt s.hints i } h.1 h.2
    | none => s)

def execPacqSnapshot (i : Nat) (s : State) : Res := .next (snapshot s i)
def execPromoteRequest (i : Nat) (s : State) : Res := .next (promoteRequestAt s i)
def execPacqComplete (i : Nat) (bad : BitVec 32) (s : State) : Res := .next (finishPacq s i bad)

def execIinvAcknowledged (p sl fid : Nat) (s : State) : Res :=
  onFrag s p sl fid fun t => match t.cur.fr.park with
    | .iinv .. => iinvDone t
    | _ => s

end Sys2Proof.Machine
end

