-- ==== Sys2Proof/Machine/Allot.lean ====
section
/-! DEFINITION. The register allotment: `grow` and `shrink` (R111 to R117). -/

namespace Sys2Proof.Machine

open Sys2Proof

/-- A legal request (R113). -/
def legalReq (tile grow : Bool) (n : Nat) : Bool :=
  if tile then decide (n ≤ 32) else n % 8 == 0 && decide (n ≤ 128) && (grow || n != 0)

/-- The allotment that a form names. -/
def allotOf (c : Crew) (tile : Bool) : Nat := if tile then c.tn else c.vn

/-- The units or tiles between two allotments. -/
def unitsOf (tile : Bool) (n m : Nat) : Nat := if tile then n - m else (n - m) / 8

/-- `grow` at issue: complete at once, or parked on its pool's list (R114). -/
def growStep (tile : Bool) (d a : CReg) (s : State) : State :=
  needFull s fun s =>
    let n := (getC s a).toNat
    let x := allotOf s.cur tile
    if !legalReq tile true n then raise s { cause := .allot, info := n }
    else if n ≤ x then complete (setC s d (BitVec.ofNat 64 x))
    else
      let e := (s.cur.cid, s.cur.fr.fid, n)
      let s := modCore s s.cur.pair fun c =>
        if tile then { c with growT := c.growT ++ [e] } else { c with growV := c.growV ++ [e] }
      parkAs s (.grow tile n)

def execGrowV (d a : CReg) (s : State) : Res := run (.growV d a) s fun _ s => growStep false d a s
def execGrowT (d a : CReg) (s : State) : Res := run (.growT d a) s fun _ s => growStep true d a s

/-- The uniform destination of the parked word. -/
def parkedDest (s : State) : CReg :=
  match decode s.cur.fr.word with
  | .ok (.growV d _) | .ok (.growT d _) | .ok (.shrinkV d _) | .ok (.shrinkT d _) => d
  | _ => 63

/-- The park is left: its fragment becomes the youngest (R334). -/
def restamp (s : State) : State :=
  let st := stampNow s
  modFr st.2 fun f => { f with stamp := st.1 }

/-- A crew's registers from `x` to `n - 1`, or tiles, become zero and allotted (R114). -/
def widen (c : Crew) (tile : Bool) (n : Nat) : Crew :=
  if tile then
    { c with tn := n,
             tiles := Vector.ofFn fun i => if c.tn ≤ i.val && i.val < n then [] else c.tiles.get i,
             ft := (List.range n).foldl (fun f i => if c.tn ≤ i then f &&& ~~~(BitVec.ofNat 32 (2 ^ i)) else f) c.ft }
  else
    { c with vn := n,
             v := Vector.ofFn fun i => if c.vn ≤ i.val && i.val < n then Lanes.zero else c.v.get i,
             poison := Vector.ofFn fun i => if c.vn ≤ i.val && i.val < n then 0 else c.poison.get i }

/-- The pool's oldest request is granted when it can be met in full (R114, R116). -/
def grant (s : State) (p : Nat) (tile : Bool) : State :=
  let c := coreAt s p
  match if tile then c.growT else c.growV with
  | [] => s
  | (cid, fid, n) :: rest =>
    match (focusCid s cid).bind fun t => focusFrag t fid with
    | none => s
    | some t =>
      let x := allotOf t.cur tile
      let need := unitsOf tile n x
      if (if tile then c.tfree else c.vfree) < need then s
      else
        let t := modCore t p fun c =>
          if tile then { c with growT := rest, tfree := c.tfree - need }
          else { c with growV := rest, vfree := c.vfree - need }
        completeParked (setC (restamp (modCur t fun c => widen c tile n)) (parkedDest t) (BitVec.ofNat 64 x))

def execGrowGrant (p : Nat) (tile : Bool) (s : State) : Res := .next (grant s p tile)

/-- The tiles of crew `cid` that a command of its own names (R115). -/
def EngCmd.tilesOf (cid : Nat) : EngCmd → List Nat
  | .arith _ _ mem _ _ => (mem.filter fun x => x.1 == cid).map fun x => x.2.1
  | .mzero c t _ | .mdrnTs c t _ _ _ _ _ | .mdrnQ c t _ _ _ _ _ _ | .mdrnPeer c t _ _ _ _ _ _ | .mrow c t _ _ _ =>
    if c == cid then [t] else []
  | .mldw .. | .mcfg .. | .gang .. | .feed .. | .nrq .. => []

/-- Is nothing of the crew at issue pending on registers or tiles from `n` (R115)? -/
def shrinkClear (s : State) (tile : Bool) (n : Nat) : Bool :=
  if tile then
    !((coreAt s s.cur.pair).opq.any fun k => (k.tilesOf s.cur.cid).any fun t => decide (n ≤ t))
  else !((pendingV s.cur).any fun r => decide (n ≤ r))

/-- The release of what lies from `n` (R115). -/
def narrow (s : State) (tile : Bool) (n : Nat) : State :=
  let x := allotOf s.cur tile
  let k := unitsOf tile x n
  let s := modCore s s.cur.pair fun c => if tile then { c with tfree := c.tfree + k } else { c with vfree := c.vfree + k }
  modCur s fun c => if tile then { c with tn := n } else { c with vn := n }

/-- `shrink` at issue (R115). -/
def shrinkStep (tile : Bool) (d a : CReg) (s : State) : State :=
  needFull s fun s =>
    let n := (getC s a).toNat
    let x := allotOf s.cur tile
    if !legalReq tile false n then raise s { cause := .allot, info := n }
    else if x ≤ n then complete (setC s d (BitVec.ofNat 64 x))
    else if shrinkClear s tile n then complete (setC (narrow s tile n) d (BitVec.ofNat 64 x))
    else parkAs s (.shrink tile n)

def execShrinkV (d a : CReg) (s : State) : Res := run (.shrinkV d a) s fun _ s => shrinkStep false d a s
def execShrinkT (d a : CReg) (s : State) : Res := run (.shrinkT d a) s fun _ s => shrinkStep true d a s

/-- A waiting shrink whose registers or tiles are free of pending work completes (R115). -/
def shrinkDone (s : State) : State :=
  match s.cur.fr.park with
  | .shrink tile n =>
    let x := allotOf s.cur tile
    if shrinkClear s tile n then
      completeParked (setC (restamp (narrow s tile n)) (parkedDest s) (BitVec.ofNat 64 x))
    else s
  | _ => s

def execShrinkComplete (p sl fid : Nat) (s : State) : Res := onFrag s p sl fid shrinkDone

end Sys2Proof.Machine
end

