-- ==== Sys2Proof/Machine/Barrier.lean ====
section
/-! DEFINITION. Named barriers and completion counters (R371 to R380). -/

namespace Sys2Proof.Machine

open Sys2Proof

/-! ## The object and its operations (R371, R374) -/

/-- A barrier's fields. -/
structure Bar where
  arv : Nat
  exc : Nat
  phs : Nat
  pb : Nat
  rest : Nat
  deriving DecidableEq, Repr, Inhabited

/-- The fields of sixteen bytes. -/
def Bar.ofNat (n : Nat) : Bar :=
  ⟨n % 2 ^ 16, n / 2 ^ 16 % 2 ^ 16, n / 2 ^ 32 % 2 ^ 32, n / 2 ^ 64 % 2 ^ 36, n / 2 ^ 100 % 2 ^ 28⟩
/-- And back. -/
def Bar.toNat (b : Bar) : Nat := b.arv + 2 ^ 16 * b.exc + 2 ^ 32 * b.phs + 2 ^ 64 * b.pb + 2 ^ 100 * b.rest

/-- The phases that complete after an operation (R374). -/
def Bar.settle (b : Bar) (e : Nat) : Bar :=
  if b.pb = 0 then { b with phs := (b.phs + b.arv / e) % 2 ^ 32, arv := b.arv % e } else b

/-- Has a phase passed a token (R374)? -/
def Bar.passed (b : Bar) (token : Nat) : Bool :=
  let d := (b.phs + 2 ^ 32 - token % 2 ^ 32) % 2 ^ 32
  decide (1 ≤ d) && decide (d < 2 ^ 31)

/-- The effective expected count (R371). -/
def expected (s : State) (p : PA) (b : Bar) : Nat :=
  if b.exc != 0 then b.exc
  else match p.sp with
    | .spad k => max 1 (match blockAt? s k with | some x => x.crews | none => 1)
    | _ => 1

/-- The object as a crew or engine of core `p` finds it at its site. -/
def barAt (s : State) (p : Nat) (at_ : PA) : Bar :=
  match at_.sp with
  | .loc => Bar.ofNat (leNat ((List.range 16).map fun i => readAt s p .device (at_.a + i)))
  | _ => Bar.ofNat (paNat s at_ 16)

/-- The object written at its site. -/
def barPut (s : State) (p launch : Nat) (at_ : PA) (b : Bar) : State :=
  let s := claimAt s launch at_
  match at_.sp with
  | .loc => ((leBytes 16 b.toNat).zipIdx).foldl (fun s x => writeThrough s p (at_.a + x.2) x.1) s
  | _ => paWrites s at_ (leBytes 16 b.toNat)

/-- An operation `f` at the site, then the phases that complete; arrivals that passed are progress of their instances (R374, R381), and a phase of block scope is counted (R369). -/
def barOpAt (s : State) (p launch : Nat) (at_ : PA) (f : Bar → Bar) : State :=
  let b := f (barAt s p at_)
  let t := b.settle (expected s at_ b)
  let s := barPut s p launch at_ t
  let n := (t.phs + 2 ^ 32 - b.phs) % 2 ^ 32
  if n = 0 then s
  else
    let s := match at_.sp with | .spad _ => modCore s p fun c => countEvt c 0x0A n | _ => s
    let done := s.arrived.filter fun x => x.1 == at_ && t.passed x.2.1
    let s := done.foldl (fun s x => progressRegion s x.2.2) s
    { s with arrived := s.arrived.filter fun x => !done.contains x }

/-- `x` modulo 2^36, from a signed number. -/
def pend36 (x : Int) : Nat := (x % (2 ^ 36 : Nat)).toNat

/-- An engine's subtraction of bytes at the site (R379). -/
def barSub (s : State) (p launch : Nat) (at_ : PA) (n : Nat) : State :=
  barOpAt s p launch at_ fun b => { b with pb := pend36 ((b.pb : Int) - n) }

/-- The scope of an object (R220). -/
def objScope (p : PA) : Scope :=
  match p.sp with
  | .spad _ => .block
  | .loc => .device
  | _ => .system

/-- The die of a pair's V combiner (R378). -/
def combinerDie (p : Nat) : Nat := p / 48

/-- The token of the arrival that finds the object as it stands, and the object after it (R374). -/
def Bar.arrive (e : Nat) (b : Bar) : Nat × Bar := ((b.phs + b.arv / e) % 2 ^ 32, { b with arv := (b.arv + 1) % 2 ^ 16 })

/-- The tokens of `n` arrivals in turn, and the object after them. -/
def Bar.arrivals (e : Nat) : Nat → Bar → List Nat × Bar
  | 0, b => ([], b)
  | n + 1, b =>
    let x := b.arrive e
    let r := Bar.arrivals e n x.2
    (x.1 :: r.1, r.2)

/-- The reply to an arrival: its token, to the future of a `bara` or to the fragment parked in `bar` (R374, R375). -/
def barReply (s : State) (o : BarOp) (token : Nat) : State :=
  match o.fut with
  | some id =>
    let dest := match crew? s o.cid with
      | some c => (match c.futs.find? fun f => f.id == id with | some f => f.dest | none => .none)
      | none => .none
    dropFut (putDest s o.cid dest 0 (fun _ _ => BitVec.ofNat 64 token) 0) o.cid id
  | none => modCrew s o.cid fun c => c.mapFrags fun f =>
      if f.park == .barArr o.id then { f with park := .barTok o.at_ token } else f

/-- Arrivals at one object in one message: their tokens in the order in which they joined, then the phases that complete, once,
and their replies (R374, R378). -/
def applyArrivals (s : State) (os : List BarOp) : State :=
  match os with
  | [] => s
  | o :: _ =>
    let b := barAt s o.pair o.at_
    let ts := (Bar.arrivals (expected s o.at_ b) os.length b).1
    let s := { s with arrived := s.arrived ++ (os.zip ts).map fun x => (x.1.at_, x.2, x.1.region) }
    let s := barOpAt s o.pair o.launch o.at_ fun b => (Bar.arrivals (expected s o.at_ b) os.length b).2
    (os.zip ts).foldl (fun s x => barReply s x.1 x.2) s

/-- The return of `barw` or `bar`: an acquire, and progress (R220, R381). -/
def barReturn (s : State) (at_ : PA) : State :=
  progressRegion (acquireAt s s.cur.pair (objScope at_)) s.cur.region

/-- A `bar` whose phase has passed returns: an acquire (R220, R334, R375). -/
def barDone (s : State) (at_ : PA) : State := completeParked (barReturn (restamp s) at_)

/-- A withdrawal reaches its site, after the arrival it follows: the arrival is taken back, or the `bar` counts as completed
(R376). -/
def withdrawNow (s : State) (cid fid : Nat) : State :=
  match (focusCid s cid).bind fun t => focusFrag t fid with
  | none => s
  | some t => match t.cur.fr.park with
    | .barTok at_ token =>
      if (barAt t t.cur.pair at_).passed token then barDone t at_
      else
        let t := { t with arrived := t.arrived.erase (at_, token, t.cur.region) }
        let t := barOpAt t t.cur.pair t.cur.launch at_ fun b => { b with arv := (b.arv + 2 ^ 16 - 1) % 2 ^ 16 }
        modFr (restamp t) fun f => { f with park := .none }
    | _ => s

/-- An operation that is no arrival applied at the site (R374, R376). -/
def applyOther (s : State) (o : BarOp) : State :=
  if o.kind = 2 then withdrawNow s o.cid o.fid
  else barOpAt s o.pair o.launch o.at_ fun b => { b with pb := pend36 ((b.pb : Int) + toS 36 o.arg) }

/-- One operation alone. -/
def applyBar (s : State) (o : BarOp) : State := if o.kind = 0 then applyArrivals s [o] else applyOther s o

/-- Has every earlier operation of the crew on the object been applied (R213)? An arrival may join its own earlier one in the
die's combiner (R378). -/
def barInOrder (s : State) (o : BarOp) : Bool :=
  !(s.barOps.any fun x => x.cid == o.cid && x.at_ == o.at_ && decide (x.id < o.id)) &&
    (o.kind == 0 || !(s.combiner.any fun e => e.ops.any fun x => x.cid == o.cid && x.at_ == o.at_))

/-- A message of a device-scope barrier leaves die `d` (R370). -/
def barMessage (s : State) (d : Nat) : State := addDie s d 4

/-- An arrival or withdrawal at a global barrier joins its die's open entry of the line, opens one, or goes alone when none is
free (R378). -/
def combine (s : State) (o : BarOp) : State :=
  let d := combinerDie o.pair
  let line := o.at_.a / 128
  if s.combiner.any fun e => e.die == d && e.line == line then
    { s with combiner := s.combiner.map fun e =>
        if e.die == d && e.line == line then { e with ops := e.ops ++ [o] } else e }
  else if (s.combiner.filter fun e => e.die == d).length < 16 then
    { s with combiner := s.combiner ++ [⟨d, line, 0, [o]⟩] }
  else applyBar (barMessage s d) o

/-- The release that an arrival makes before it leaves its core, once what precedes it has been performed (R214, R220). -/
def arrivalRelease (s : State) (o : BarOp) : State :=
  if o.kind = 0 then releaseAt s o.pair (objScope o.at_) else s

/-- Operation `i` in flight reaches its site, or its die's combiner when it is an arrival at a global barrier (R374, R378, log
24 DEDUCED safe). -/
def barArrive (s : State) (i : Nat) : State :=
  match s.barOps[i]? with
  | none => s
  | some o =>
    if !depsDone s o.cid o.deps || !barInOrder s o || linkHeld s (corePort o.pair) o.at_ || stalled s o.id then s
    else if o.kind = 0 && releaseHeld s o.pair (objScope o.at_) then s
    else if claimMoves s o.launch o.at_ then stall s o.id
    else
      let s := arrivalRelease { s with barOps := dropAt s.barOps i } o
      if o.at_.sp != .loc then applyBar s o
      else if o.kind = 0 then combine s o
      else applyBar (barMessage s (combinerDie o.pair)) o

def execBarrierOperation (i : Nat) (s : State) : Res := .next (barArrive s i)

/-- The arrivals of a message apply object by object, each object's together (R374, R378); then its withdrawals. -/
def applyMessage (s : State) (ops : List BarOp) : State :=
  let arr := ops.filter fun o => o.kind == 0
  let objs := distinct (arr.map fun o => o.at_.a)
  let s := objs.foldl (fun s a => applyArrivals s (arr.filter fun o => o.at_.a == a)) s
  (ops.filter fun o => o.kind != 0).foldl applyOther s

/-- Entry `i` of die `d`'s combiner is sent 32 cycles after it opened (R378). -/
def combinerSend (s : State) (d i : Nat) : State :=
  match (s.combiner.filter fun e => e.die == d)[i]? with
  | none => s
  | some e =>
    if e.age < 32 || linkHeld s (.v d) ⟨.loc, e.line * 128⟩ then s
    else
      applyMessage (barMessage { s with combiner := s.combiner.filter fun x => !(x.die == d && x.line == e.line) } d) e.ops

def execBarrierCombinerSend (d i : Nat) (s : State) : Res := .next (combinerSend s d i)

/-- Withdrawal `i` leaves for its site once the arrival has its token: to the die's combiner for a global barrier (R376,
R378). -/
def withdrawAt (s : State) (i : Nat) : State :=
  match s.withdrawals[i]? with
  | none => s
  | some (cid, fid) =>
    match (focusCid s cid).bind fun t => focusFrag t fid with
    | none => { s with withdrawals := dropAt s.withdrawals i }
    | some t => match t.cur.fr.park with
      | .barTok at_ _ =>
        if s.combiner.any fun e => e.ops.any fun o => o.kind == 2 && o.cid == cid && o.fid == fid then s
        else if at_.sp != .loc then withdrawNow { s with withdrawals := dropAt s.withdrawals i } cid fid
        else
          let n := fresh { s with withdrawals := dropAt s.withdrawals i }
          combine n.2 ⟨n.1, cid, fid, none, t.cur.pair, at_, t.cur.launch, t.cur.region, 2, 0, []⟩
      | .barArr _ => s
      | _ => { s with withdrawals := dropAt s.withdrawals i }

def execBarrierWithdrawal (i : Nat) (s : State) : Res := .next (withdrawAt s i)

/-! ## The barrier word (R372) -/

/-- What the checks of a barrier word answer. -/
inductive BarRef where
  | ok (at_ : PA)
  | trap (t : Trap)
  | wait
  deriving DecidableEq, Repr, Inhabited

/-- One address translated for reading, and for writing too when `w`. -/
def translateAt (s : State) (va : Nat) (w : Bool) : BarRef × State :=
  let r := xlate s s.cur.pair .read va
  match r.1 with
  | .migrating => (.wait, r.2)
  | .absent first _ =>
    (.trap { cause := .pgnp, addr := va, info := first.toNat, sup := first, kind := if w then 3 else 0,
             faulted := [(32, va)] }, r.2)
  | .denied => (.trap { cause := .pgperm, addr := va }, r.2)
  | .ok pa perm => if w && !perm.w then (.trap { cause := .pgperm, addr := va }, r.2) else (.ok pa, r.2)

/-- A barrier word's object, or its first cause (R372). -/
def barRef (s : State) (w : Word) (write : Bool) : BarRef × State :=
  let a := w.toNat % 2 ^ 57
  let spc := w.toNat / 2 ^ 57 % 4
  if 2 ≤ spc then (.trap { cause := .pgperm, addr := w.toNat }, s)
  else if a % 16 != 0 then (.trap { cause := .misalign, addr := a }, s)
  else if spc = 1 then
    (if scratchOf s < a + 16 then (.trap { cause := .spbound, addr := a }, s) else (.ok ⟨.spad s.cur.block, a⟩, s))
  else
    let r := translateAt s a write
    match r.1 with
    | .ok pa => if pa.sp == .loc then r else (.trap { cause := .pgperm, addr := a }, r.2)
    | _ => r

/-- A barrier instruction past its checks. -/
def onBar (s : State) (w : Word) (write : Bool) (k : State → PA → State) : State :=
  let r := barRef s w write
  match r.1 with
  | .trap t => raise r.2 t
  | .wait => parkAs r.2 .migrate
  | .ok pa => k r.2 pa

/-- An operation of the crew at issue sets out for its site; an arrival is a release, which waits for what precedes it
(R214, R220). -/
def sendBar (s : State) (at_ : PA) (kind arg : Nat) (fut : Option Nat) : Nat × State :=
  let n := fresh s
  let c := n.2.cur
  let deps := depsFor n.2 c c.fr.po [(at_, 16)] (kind == 0)
  (n.1, { n.2 with
    barOps := n.2.barOps ++ [⟨n.1, c.cid, c.fr.fid, fut, c.pair, at_, c.launch, c.region, kind, arg, deps⟩] })

/-- UPARTIAL of a barrier instruction, which names no lane (R372). -/
def needWhole (s : State) (k : State → State) : State := if fullMask s then k s else raise s { cause := .upartial }

def execBar (a : CReg) (s : State) : Res :=
  run (.bar a) s fun _ s => needWhole s fun s =>
    let w := getC s a
    onBar s w true fun s at_ =>
      let r := sendBar s at_ 0 0 none
      parkAs r.2 (.barArr r.1)

def execBara (d a : CReg) (s : State) : Res :=
  run (.bara d a) s fun _ s => needWhole s fun s =>
    let w := getC s a
    onBar s w true fun s at_ =>
      let n := fresh s
      let s := (sendBar n.2 at_ 0 0 (some n.1)).2
      let f := s.cur.fr
      complete (modCur s fun c => { c with futs := c.futs ++ [⟨n.1, f.fid, f.po, [], .c d.val 1, .bara, []⟩] })

def execBare (a b : CReg) (s : State) : Res :=
  run (.bare a b) s fun _ s => needWhole s fun s =>
    let w := getC s a
    onBar s w true fun s at_ => complete (sendBar s at_ 1 ((getC s b).toNat % 2 ^ 36) none).2

/-- Does a `bar` or `barw` return? A `barw` does not overtake its crew's own arrival on the barrier (R375, R378). -/
def barMet (s : State) (c : Crew) (at_ : PA) (token : Nat) : Bool :=
  (barAt s c.pair at_).passed token && !(s.barOps.any fun o => o.cid == c.cid && o.at_ == at_) &&
    !(s.combiner.any fun e => e.ops.any fun o => o.cid == c.cid && o.at_ == at_)

def execBarw (a b : CReg) (s : State) : Res :=
  run (.barw a b) s fun _ s =>
    onBar s (getC s a) false fun s at_ =>
      let token := (getC s b).toNat % 2 ^ 32
      if barMet s s.cur at_ token then complete (barReturn s at_) else parkAs s (.barw at_ token)

/-! ## Completion counters (R380) -/

/-- A counter as core `p` reads it. -/
def counterAt (s : State) (p : Nat) (at_ : PA) : Nat :=
  match at_.sp with
  | .loc => leNat ((List.range 8).map fun i => readAt s p .device (at_.a + i))
  | _ => paNat s at_ 8

/-- Has a counter reached its target? -/
def reached (m : Nat) (target : Word) : Bool := decide ((BitVec.ofNat 64 m - target).toNat < 2 ^ 63)

/-- Does core `p` find a counter at its target? A retraining link between them holds the read (R380, R393). -/
def found (s : State) (p : Nat) (at_ : PA) (target : Word) : Bool :=
  !linkHeld s (corePort p) at_ && reached (counterAt s p at_) target

/-- The return of a wait. -/
def waitReturn (s : State) (at_ : PA) : State :=
  progressRegion (acquireAt s s.cur.pair (objScope at_)) s.cur.region

/-- `wait` and `wait.ext` at issue. -/
def waitStep (ext : Bool) (a b : CReg) (s : State) : State :=
  let va := (getC s a).toNat
  if va % 8 != 0 then raise s { cause := .misalign, addr := va }
  else
    let r := translateAt s va false
    match r.1 with
    | .trap t => raise r.2 t
    | .wait => parkAs r.2 .migrate
    | .ok pa =>
      let s := r.2
      let target := getC s b
      if found s s.cur.pair pa target then complete (waitReturn s pa)
      else parkAs s (.wait pa va target ext s.now)

def execWait (a b : CReg) (s : State) : Res := run (.wait a b) s fun _ s => waitStep false a b s
def execWaitExt (a b : CReg) (s : State) : Res := run (.waitExt a b) s fun _ s => waitStep true a b s

/-- A parked wait whose counter is found at its target returns. -/
def waitDone (s : State) : State :=
  match s.cur.fr.park with
  | .wait at_ _ target _ _ =>
    if found s s.cur.pair at_ target then completeParked (waitReturn (restamp s) at_) else s
  | _ => s

/-- The counter that a saved crew waits on (R31). -/
def SavedCrew.waitsOn (k : SavedCrew) : Option (PA × Word) :=
  k.kept.findSome? fun x => match x.2 with
    | .wait at_ _ target _ _ => some (at_, target)
    | _ => none

/-- A saved crew whose counter is found at its target comes onto the swap-in list (R31, R323). -/
def wakeSaved (s : State) (k : SavedCrew) : SavedCrew :=
  match k.waitsOn with
  | some (at_, target) =>
    if k.ready.isNone && !linkHeld s .h at_ && reached (paNat s at_ 8) target then
      { k with met := true, ready := if crewStopped s k.region then none else some s.now }
    else k
  | none => k

/-- The fabric port's poll of a counter in a peer window or in system memory, every 1,400 cycles (R380, log 33 DEDUCED safe). -/
def execWaitPoll (cid fid : Nat) (s : State) : Res :=
  .next (match (focusCid s cid).bind fun t => focusFrag t fid with
    | some t => match t.cur.fr.park with
      | .wait _ _ _ _ since => if since + 1400 ≤ t.now then waitDone t else s
      | _ => s
    | none => { s with saved := s.saved.map fun k => if k.cid == cid then wakeSaved s k else k })

end Sys2Proof.Machine
end

