-- ==== Sys2Proof/Machine/Exact.lean ====
section
/-! DEFINITION. Exact rational numbers, and their one rounding into a format (R79): what the render units compute with. -/

namespace Sys2Proof.Machine

open Sys2Proof

/-- A rational number n / d, d positive. -/
structure Q where
  n : Int
  d : Nat
  deriving DecidableEq, Repr, Inhabited

/-- In lowest terms. -/
def Q.reduce (n : Int) (d : Nat) : Q :=
  let g := Nat.gcd n.natAbs d
  if g ≤ 1 then ⟨n, d⟩ else ⟨n / (g : Int), d / g⟩

def Q.int (z : Int) : Q := ⟨z, 1⟩
def Q.add (a b : Q) : Q := Q.reduce (a.n * b.d + b.n * a.d) (a.d * b.d)
def Q.neg (a : Q) : Q := ⟨-a.n, a.d⟩
def Q.sub (a b : Q) : Q := a.add b.neg
def Q.mul (a b : Q) : Q := Q.reduce (a.n * b.n) (a.d * b.d)
/-- The quotient; 0 by 0 in place of an undefined one, which no caller asks for. -/
def Q.div (a b : Q) : Q :=
  if b.n = 0 then ⟨0, 1⟩ else Q.reduce (if b.n < 0 then -(a.n * b.d) else a.n * b.d) (a.d * b.n.natAbs)
def Q.lt (a b : Q) : Bool := decide (a.n * b.d < b.n * a.d)
def Q.le (a b : Q) : Bool := decide (a.n * b.d ≤ b.n * a.d)
def Q.min (a b : Q) : Q := if b.lt a then b else a
def Q.max (a b : Q) : Q := if a.lt b then b else a
def Q.abs (a : Q) : Q := ⟨a.n.natAbs, a.d⟩
/-- The least integer not below a rational. -/
def Q.ceil (a : Q) : Int := -((-a.n) / (a.d : Int))
def Q.sum (l : List Q) : Q := l.foldl Q.add (Q.int 0)
def Q.minOf (l : List Q) : Q := (l.drop 1).foldl Q.min (l.headD (Q.int 0))
def Q.maxOf (l : List Q) : Q := (l.drop 1).foldl Q.max (l.headD (Q.int 0))
/-- 2 to a power. -/
def Q.pow2 (e : Int) : Q := if 0 ≤ e then ⟨(2 ^ e.toNat : Nat), 1⟩ else ⟨1, 2 ^ (-e).toNat⟩

/-- A finite value as a rational; 0 for the others. -/
def FVal.toQ : FVal → Q
  | .fin neg m e => (Q.int (if neg then -(m : Int) else m)).mul (Q.pow2 e)
  | _ => Q.int 0
def FVal.isFin : FVal → Bool
  | .fin .. => true
  | _ => false

/-- A rational rounded once into a format (R79, R80); an exact zero is +0. -/
def Fmt.ofQ (f : Fmt) (r : Rnd) (q : Q) : Nat := f.ofRat r (decide (q.n < 0)) q.n.natAbs q.d 0

/-- An FP32 encoding as a rational, and whether it is finite. -/
def q32 (x : Nat) : Q := (fp32.decode x).toQ
def fin32 (x : Nat) : Bool := (fp32.decode x).isFin

/-- Rounded outward into FP32; a value past the format's range keeps its exact value. -/
def Q.out (up : Bool) (q : Q) : Q :=
  let x := fp32.ofQ (if up then .ru else .rd) q
  if fin32 x then q32 x else q

/-- A square root, exact or with a sticky bit. -/
def Q.sqrt (q : Q) : FVal :=
  let k := 80 + q.d.log2
  let n := q.n.natAbs * 2 ^ (2 * k)
  let r := isqrt (n / q.d)
  sticky false r (r * r * q.d == n) (-(k : Int))

/-! ## FP32 operations on encodings, each rounded to nearest even -/

def add32 (x y : Nat) : Nat := fp32.addV .ne (fp32.decode x) (fp32.decode y)
def sub32 (x y : Nat) : Nat := fp32.addV .ne (fp32.decode x) (fp32.decode y).negate
def mul32 (x y : Nat) : Nat := fp32.encode .ne ((fp32.decode x).mul (fp32.decode y))
def div32 (x y : Nat) : Nat := fp32.divV .ne (fp32.decode x) (fp32.decode y)
/-- a × b + c, rounded once. -/
def fma32 (a b : FVal) (c : Nat) : Nat :=
  let p := a.mul b
  let z := fp32.decode c
  fp32.encode .ne (exactSum (addZeroSign .ne p z) [p, z])
/-- |x|. -/
def abs32 (x : Nat) : Nat := x % 2 ^ 31
/-- 1 in FP32. -/
def one32 : Nat := 0x3F800000
/-- +∞ in FP32. -/
def inf32 : Nat := 0x7F800000

end Sys2Proof.Machine
end

