-- ==== Sys2Proof/Machine/Geometry.lean ====
section
/-! DEFINITION. The render units' arithmetic: camera, patches, bounds, dicing, the sample pattern, coverage and resolve (R248 to
R257, R262 to R269). -/

namespace Sys2Proof.Machine

open Sys2Proof

/-! ## The camera block (R248, R249) -/

/-- A camera block's fields; FP32 fields are encodings. -/
structure Cam where
  b : Nat
  rcr : Bool
  det : Bool
  iw : Nat
  ih : Nat
  spp : Nat
  ofmt : Nat
  seed : Nat
  fx : Nat
  fy : Nat
  cx : Nat
  cy : Nat
  near : Nat
  lens : Nat
  focus : Nat
  rate : Nat
  img : Nat
  pitch : Nat
  spill : Nat
  spsz : Nat
  deriving DecidableEq, Repr, Inhabited

def Cam.ofBytes (m : List Byte) : Cam :=
  let cfl := recNat m 2 2
  { b := match cfl / 4 % 4 with | 0 => 64 | 1 => 32 | _ => 128, rcr := cfl / 2 % 2 == 1, det := cfl % 2 == 1,
    iw := recNat m 4 2, ih := recNat m 6 2, spp := recNat m 8 1, ofmt := recNat m 9 1, seed := recNat m 0x0C 4,
    fx := recNat m 0x10 4, fy := recNat m 0x14 4, cx := recNat m 0x18 4, cy := recNat m 0x1C 4,
    near := recNat m 0x20 4, lens := recNat m 0x24 4, focus := recNat m 0x28 4, rate := recNat m 0x2C 4,
    img := recNat m 0x30 8, pitch := recNat m 0x38 4, spill := recNat m 0x40 8, spsz := recNat m 0x48 8 }

/-- Bytes of a pixel. -/
def Cam.size (c : Cam) : Nat := if c.ofmt = 0 then 8 else 4

/-- Does a camera block keep every limit of R248? -/
def camOk (m : List Byte) : Bool :=
  let c := Cam.ofBytes m
  let cfl := recNat m 2 2
  let pos (x : Nat) : Bool := decide (0 < (q32 x).n)
  recNat m 0 2 == 5 && cfl / 16 == 0 && cfl / 4 % 4 != 3 && decide (1 ≤ c.iw) && decide (c.iw ≤ 16384) && decide (1 ≤ c.ih) &&
    decide (c.ih ≤ 16384) && [1, 2, 4, 8, 16, 32, 64].contains c.spp && decide (c.ofmt ≤ 1) && recNat m 0x0A 2 == 0 &&
    [c.fx, c.fy, c.cx, c.cy, c.near, c.lens, c.focus, c.rate].all fin32 && pos c.near && pos c.focus &&
    decide (0 ≤ (q32 c.lens).n) && (⟨1, 4⟩ : Q).le (q32 c.rate) && (q32 c.rate).le (Q.int 16) &&
    c.img % c.size == 0 && c.pitch % c.size == 0 && decide (c.iw * c.size ≤ c.pitch) && recNat m 0x3C 4 == 0 &&
    c.spill % 4096 == 0 && c.spsz != 0 && c.spsz % 65536 == 0 && recNat m 0x58 40 == 0

/-- Buckets along x and in all (R253). -/
def Cam.cols (c : Cam) : Nat := (c.iw + c.b - 1) / c.b
def Cam.count (c : Cam) : Nat := c.cols * ((c.ih + c.b - 1) / c.b)

/-- Slices of bucket memory that a bucket takes, and its grid share (R254). -/
def Cam.slices (c : Cam) : Nat :=
  let n := c.b * c.b * c.spp * 12 + 2 ^ 20
  if n ≤ 2 ^ 22 then 1 else if n ≤ 2 ^ 23 then 2 else 4
def Cam.share (c : Cam) : Nat := c.slices * 2 ^ 22 - c.b * c.b * c.spp * 12

/-! ## Patches (R251) -/

def v3At (m : List Byte) (a : Nat) : V3 := (recNat m a 4, recNat m (a + 4) 4, recNat m (a + 8) 4)
/-- A component. -/
def V3.at_ (v : V3) (k : Nat) : Nat := match k with | 0 => v.1 | 1 => v.2.1 | _ => v.2.2
/-- A vector from its components. -/
def V3.of (f : Nat → Nat) : V3 := (f 0, f 1, f 2)
def V3.all (v : V3) (f : Nat → Bool) : Bool := f v.1 && f v.2.1 && f v.2.2

/-- A patch as its whole parameter square, none when it is culled as it stands. -/
def pieceOf (p : Nat) (m : List Byte) : Option Piece :=
  let pts (a : Nat) : List V3 := (List.range 16).map fun i => v3At m (a + 12 * i)
  let db := recNat m 4 4
  let x : Piece :=
    { patch := p, depth := 0, s0 := 0, t0 := 0, pid := recNat m 0 4, attr := recNat m 0x0C 4, db := db,
      open_ := pts 0x20, close_ := pts 0xE0 }
  if recNat m 8 4 != 0 || recNat m 0x10 16 != 0 || !fin32 db || decide ((q32 db).n < 0) ||
      !(x.open_ ++ x.close_).all (fun v => V3.all v fin32) then none
  else some x

/-! ## Bounds (R252, R253) -/

/-- A patch's bound on the screen. -/
inductive Bound where
  | culled
  | whole
  | box (x0 x1 y0 y1 : Q)
  deriving DecidableEq, Repr, Inhabited

/-- A patch's bound on the screen, each step rounded outward (R252, log 45 DEDUCED unsafe). -/
def boundOf (c : Cam) (p : Piece) : Bound :=
  let pts := p.open_ ++ p.close_
  let db := q32 p.db
  let lo (k : Nat) : Q := ((Q.minOf (pts.map fun v => q32 (v.at_ k))).sub db).out false
  let hi (k : Nat) : Q := ((Q.maxOf (pts.map fun v => q32 (v.at_ k))).add db).out true
  let zl := lo 2
  let zh := hi 2
  let near := q32 c.near
  if zh.le near then .culled
  else if zl.le near then .whole
  else
    let away (z : Q) : Q := ((Q.int 1).sub ((q32 c.focus).div z)).abs
    let wide := ((q32 c.lens).mul ((away zl).max (away zh))).add (Q.int 1)
    let range (k f o : Nat) : Q × Q :=
      let at_ (x z : Q) : Q := (q32 o).add (((q32 f).mul x).div z)
      let l := [at_ (lo k) zl, at_ (lo k) zh, at_ (hi k) zl, at_ (hi k) zh]
      ((((Q.minOf l).out false).sub wide).out false, (((Q.maxOf l).out true).add wide).out true)
    let x := range 0 c.fx c.cx
    let y := range 1 c.fy c.cy
    .box x.1 x.2 y.1 y.2

/-- Does a bound meet a bucket's closed square? -/
def Bound.meets (c : Cam) (b : Nat) : Bound → Bool
  | .culled => false
  | .whole => true
  | .box x0 x1 y0 y1 =>
    let bx := b % c.cols
    let by_ := b / c.cols
    let q (n : Nat) : Q := Q.int n
    x0.le (q (min (bx * c.b + c.b) c.iw)) && (q (bx * c.b)).le x1 && y0.le (q (min (by_ * c.b + c.b) c.ih)) &&
      (q (by_ * c.b)).le y1

/-! ## Splitting and dicing (R255 to R257) -/

/-- The screen position of a point (R249). -/
def screen (c : Cam) (v : V3) : Q × Q :=
  let z := q32 (v.at_ 2)
  ((q32 c.cx).add (((q32 c.fx).mul (q32 (v.at_ 0))).div z), (q32 c.cy).add (((q32 c.fy).mul (q32 (v.at_ 1))).div z))

/-- The distance of two positions, rounded into FP32. -/
def dist32 (a b : Q × Q) : Nat :=
  let x := b.1.sub a.1
  let y := b.2.sub a.2
  fp32.encode .ne ((x.mul x).add (y.mul y)).sqrt

/-- Micropolygons along s or along t: 17 stands for more than 16. -/
def diceRate (c : Cam) (p : Piece) (along : Bool) : Nat :=
  let line (pts : List V3) (j : Nat) : Nat :=
    let at_ (i : Nat) : Q × Q := screen c (pts.getD (if along then 4 * j + i else 4 * i + j) (0, 0, 0))
    add32 (add32 (dist32 (at_ 0) (at_ 1)) (dist32 (at_ 1) (at_ 2))) (dist32 (at_ 2) (at_ 3))
  let ls := [p.open_, p.close_].flatMap fun pts => (List.range 4).map (line pts)
  if ls.all fin32 then
    let n := ((Q.maxOf (ls.map q32)).div (q32 c.rate)).ceil
    if n ≤ 1 then 1 else if 16 < n then 17 else n.toNat
  else 17

/-- Does a piece meet the near plane? -/
def meetsNear (c : Cam) (p : Piece) : Bool := (p.open_ ++ p.close_).any fun v => (q32 (v.at_ 2)).le (q32 c.near)

/-- The weights, in eighths, of de Casteljau's point `i` of the low or high half. -/
def halfRow (high : Bool) (i : Nat) : List Nat :=
  let row := match (if high then 3 - i else i) with
    | 0 => [8, 0, 0, 0]
    | 1 => [4, 4, 0, 0]
    | 2 => [2, 4, 2, 0]
    | _ => [1, 3, 3, 1]
  if high then row.reverse else row

/-- A child's control points at one shutter end. -/
def childPts (hs ht : Bool) (pts : List V3) : List V3 :=
  (List.range 16).map fun k => V3.of fun c =>
    let ws := halfRow hs (k % 4)
    let wt := halfRow ht (k / 4)
    let terms := (List.range 16).map fun e =>
      (Q.int ((ws.getD (e % 4) 0 * wt.getD (e / 4) 0 : Nat))).mul (q32 ((pts.getD e (0, 0, 0)).at_ c))
    fp32.ofQ .ne ((Q.sum terms).mul ⟨1, 64⟩)

/-- A piece's four children, in their order. -/
def children (p : Piece) : List Piece :=
  [(false, false), (true, false), (false, true), (true, true)].map fun h =>
    { p with depth := p.depth + 1, s0 := 2 * p.s0 + h.1.toNat, t0 := 2 * p.t0 + h.2.toNat,
             open_ := childPts h.1 h.2 p.open_, close_ := childPts h.1 h.2 p.close_ }

/-- What becomes of a piece. -/
inductive Dice where
  | split
  | cull
  | grid (nu nv : Nat)
  deriving DecidableEq, Repr, Inhabited

def diceOf (c : Cam) (p : Piece) : Dice :=
  if meetsNear c p then (if p.depth < 10 then .split else .cull)
  else
    let nu := diceRate c p true
    let nv := diceRate c p false
    if nu ≤ 16 && nv ≤ 16 then .grid nu nv
    else if p.depth < 10 then .split
    else .grid (min nu 16) (min nv 16)

/-- Bernstein weights at u, and those of the derivative on differences. -/
def bern (u : Q) : List Q :=
  let w := (Q.int 1).sub u
  [(w.mul w).mul w, (Q.int 3).mul ((u.mul w).mul w), (Q.int 3).mul ((u.mul u).mul w), (u.mul u).mul u]
def bernD (u : Q) : List Q :=
  let w := (Q.int 1).sub u
  [(Q.int 3).mul (w.mul w), (Q.int 6).mul (u.mul w), (Q.int 3).mul (u.mul u)]

/-- Σ over the two directions of weight × weight × term. -/
def surface (ws wt : List Q) (f : Nat → Nat → Q) : Q :=
  Q.sum ((List.range wt.length).map fun j => (wt.getD j (Q.int 0)).mul
    (Q.sum ((List.range ws.length).map fun i => (ws.getD i (Q.int 0)).mul (f i j))))

/-- A point of the surface, correctly rounded. -/
def pointAt (pts : List V3) (ws wt : List Q) : V3 :=
  V3.of fun k => fp32.ofQ .ne (surface ws wt fun i j => q32 ((pts.getD (4 * j + i) (0, 0, 0)).at_ k))

/-- The difference of two control points in a component. -/
def diff (pts : List V3) (a b k : Nat) : Q := (q32 ((pts.getD a (0, 0, 0)).at_ k)).sub (q32 ((pts.getD b (0, 0, 0)).at_ k))

/-- The normalised cross product of rounded derivatives. -/
def normalOf (u v : V3) : V3 :=
  if !(V3.all u fin32 && V3.all v fin32) then (0, 0, 0)
  else
    let x (i j : Nat) : Q := ((q32 (u.at_ i)).mul (q32 (v.at_ j))).sub ((q32 (u.at_ j)).mul (q32 (v.at_ i)))
    let n := [x 1 2, x 2 0, x 0 1]
    let sq := Q.sum (n.map fun a => a.mul a)
    if sq.n = 0 then (0, 0, 0)
    else V3.of fun k =>
      let a := n.getD k (Q.int 0)
      if a.n = 0 then 0
      else fp32.encode .ne ((a.mul a).div sq).sqrt + (if a.n < 0 then 2 ^ 31 else 0)

/-- The vertex at (a / nu, b / nv) of a piece (R257). -/
def vertexOf (p : Piece) (nu nv a b : Nat) : Vert :=
  let u : Q := ⟨a, nu⟩
  let v : Q := ⟨b, nv⟩
  let ws := bern u
  let wt := bern v
  let d0 := pointAt p.open_ ws wt
  let d1 := pointAt p.close_ ws wt
  let ds := V3.of fun k => fp32.ofQ .ne (surface (bernD u) wt fun i j => diff p.open_ (4 * j + i + 1) (4 * j + i) k)
  let dt := V3.of fun k => fp32.ofQ .ne (surface ws (bernD v) fun i j => diff p.open_ (4 * j + i + 4) (4 * j + i) k)
  let par (o : Nat) (x : Q) : Nat := fp32.ofQ .ne (((Q.int o).add x).mul (Q.pow2 (-(p.depth : Int))))
  { d0 := d0, d1 := d1, p0 := d0, p1 := d1, ds := ds, dt := dt, n := normalOf ds dt, s := par p.s0 u, t := par p.t0 v,
    col := 0 }

/-- A piece diced. -/
def gridOf (p : Piece) (num nu nv : Nat) : Grid :=
  { num := num, pid := p.pid, attr := p.attr, db := p.db, nu := nu, nv := nv,
    verts := (List.range ((nu + 1) * (nv + 1))).map fun x => vertexOf p nu nv (x % (nu + 1)) (x / (nu + 1)),
    spilled := none, st := .diced }

/-- Vertices, crews and bytes of a grid (R257, R259, R246). -/
def Grid.vertices (g : Grid) : Nat := (g.nu + 1) * (g.nv + 1)
def Grid.crews (g : Grid) : Nat := (g.vertices + 31) / 32
def Grid.bytes (g : Grid) : Nat := (64 + 96 * g.vertices + 255) / 256 * 256

/-- A displaced component: clamped about the diced one, bounds rounded outward (R262). -/
def clampTo (db diced x : Nat) : Nat :=
  if !fin32 diced then diced
  else
    let v := fp32.decode x
    let lo := fp32.ofQ .rd ((q32 diced).sub (q32 db))
    let hi := fp32.ofQ .ru ((q32 diced).add (q32 db))
    if v.isNan then diced
    else if v.lt (fp32.decode lo) then lo
    else if (fp32.decode hi).lt v then hi
    else x

/-! ## The sample pattern (R264, R265) -/

/-- A number's low `m` bits reversed. -/
def revBits : Nat → Nat → Nat
  | 0, _ => 0
  | m + 1, k => k % 2 * 2 ^ m + revBits m (k / 2)

/-- `U` or `V` of entry k of n. -/
def lensOf (n rev k : Nat) (cos : Bool) : Int :=
  let r := isqrt ((2 * rev + 1) * 2 ^ 400 / (2 * n))
  let w := trigFix cos (halfPi320 * (2 * (2 * k + 1)) / n)
  let z := roundQuot .ne (decide (w < 0)) 0 (128 * r * w.natAbs) (2 ^ 400)
  if w < 0 then -(z : Int) else z

/-- An entry of the base table. -/
structure Entry where
  x : Nat
  y : Nat
  u : Int
  v : Int
  t : Nat
  deriving DecidableEq, Repr, Inhabited

def entryAt (n k : Nat) : Entry :=
  let rev := revBits n.log2 k
  { x := (256 * k + 128) / n, y := (256 * rev + 128) / n, u := lensOf n rev k true, v := lensOf n rev k false,
    t := (256 * ((rev + n / 2) % n) + 128) / n }

/-- A sample: fixed-point position, lens position, time and threshold, each exact. -/
structure Sample where
  x : Int
  y : Int
  u : FVal
  v : FVal
  t : FVal
  tau : FVal
  deriving DecidableEq, Repr, Inhabited

/-- An integer over a power of two. -/
def dyadic (z : Int) (e : Int) : FVal := .fin (decide (z < 0)) z.natAbs e

/-- Sample k of a pixel. -/
def sampleOf (c : Cam) (px py k : Nat) : Sample :=
  let n := c.spp
  let h := ((crcBytes 0xFFFFFFFF (leBytes 2 px ++ leBytes 2 py ++ leBytes 4 c.seed)) ^^^ 0xFFFFFFFF).toNat
  let pick (lo : Nat) : Nat := if c.det then 0 else h / 2 ^ lo % 64 % n
  let e := entryAt n k
  let l := entryAt n (k ^^^ pick 0)
  let m := entryAt n (k ^^^ pick 6)
  let d := if c.det then 0 else h / 2 ^ 18 % 256
  { x := (256 * px + e.x : Nat), y := (256 * py + e.y : Nat), u := dyadic l.u (-7), v := dyadic l.v (-7),
    t := dyadic (2 * ((m.t + d) % 256) + 1 : Nat) (-9),
    tau := dyadic (2 * (k ^^^ pick 12) + 1 : Nat) (-((n.log2 + 1 : Nat) : Int)) }

/-! ## Rasterising (R263, R266 to R268) -/

/-- A vertex at one shutter end on the screen: x, y, circle of confusion and depth. -/
structure Proj where
  x : Nat
  y : Nat
  c : Nat
  z : Nat
  deriving DecidableEq, Repr, Inhabited

/-- A vertex projected; none where it discards its micropolygons. -/
def project (c : Cam) (v : V3) : Option Proj :=
  let z := v.at_ 2
  let nan (k : Nat) : Bool := (fp32.decode (v.at_ k)).isNan
  if nan 0 || nan 1 || nan 2 || !(fp32.decode c.near).lt (fp32.decode z) then none
  else
    let at_ (k f o : Nat) : Nat := fma32 (fp32.decode f) (fp32.decode (div32 (v.at_ k) z)) o
    some { x := at_ 0 c.fx c.cx, y := at_ 1 c.fy c.cy, c := mul32 c.lens (abs32 (sub32 one32 (div32 c.focus z))), z := z }

/-- A corner at a sample: its fixed-point position and depth; none where it covers nothing. -/
def cornerAt (a b : Proj) (s : Sample) : Option (Int × Int × Nat) :=
  let mid (p q : Nat) : Nat := fma32 s.t (fp32.decode (sub32 q p)) p
  let c := fp32.decode (mid a.c b.c)
  let x := fp32.decode (fma32 c s.u (mid a.x b.x))
  let y := fp32.decode (fma32 c s.v (mid a.y b.y))
  let far (w : FVal) : Bool := !w.isFin || (Q.int 32768).le w.toQ.abs
  if far x || far y then none else some ((x.scale 8).toInt .ne, (y.scale 8).toInt .ne, mid a.z b.z)

/-- The edge function (R267). -/
def edge (a b p : Int × Int) : Int := (b.1 - a.1) * (p.2 - a.2) - (b.2 - a.2) * (p.1 - a.1)
/-- Is an edge top-left? -/
def topLeft (a b : Int × Int) : Bool := decide (b.2 - a.2 < 0) || (b.2 - a.2 == 0 && decide (0 < b.1 - a.1))

/-- A corner of a triangle: position, depth, colour. -/
structure Corner where
  at_ : Int × Int
  z : Nat
  col : Word
  deriving DecidableEq, Repr, Inhabited

/-- A triangle's effect on a sample: colour and depth stored so far to those after it. -/
def triangle (c : Cam) (s : Sample) (a b d : Corner) (old : Nat × Nat) : Nat × Nat :=
  let p := (s.x, s.y)
  let w0 := edge a.at_ b.at_ d.at_
  let e := if w0 < 0 then d else b
  let f := if w0 < 0 then b else d
  let w := w0.natAbs
  let inside (x y : Corner) : Bool :=
    let k := edge x.at_ y.at_ p
    decide (0 < k) || (k == 0 && topLeft x.at_ y.at_)
  if w = 0 || !(inside a e && inside e f && inside f a) then old
  else
    let lam (x y : Corner) : FVal := fp32.decode (fp32.ofRat .ne false (edge x.at_ y.at_ p).natAbs w 0)
    let la := lam e f
    let lb := lam f a
    let lc := lam a e
    let mix (x y z : FVal) : List FVal := [la.mul x, lb.mul y, lc.mul z]
    let ds := mix (fp32.decode a.z) (fp32.decode e.z) (fp32.decode f.z)
    let depth := fp32.encode .ne (exactSum (sumZeroSign .ne ds) ds)
    let chan (k : Nat) : FVal :=
      let h (x : Corner) : FVal := fp16.decode (sub 16 x.col k)
      let l := mix (h a) (h e) (h f)
      exactSum (sumZeroSign .ne l) l
    let alpha := chan 3
    let dv := fp32.decode depth
    if !alpha.isNan && s.tau.lt alpha && !dv.isNan && !dv.lt (fp32.decode c.near) && dv.lt (fp32.decode old.2) then
      (packN 16 ((List.range 4).map fun k => fp16.encode .ne (chan k)), depth)
    else old

/-- A micropolygon's effect on a sample (R267, R268). -/
def micropolygon (c : Cam) (s : Sample) (vs : List (Option (Proj × Proj) × Word)) (old : Nat × Nat) : Nat × Nat :=
  let corner (x : Option (Proj × Proj) × Word) : Option Corner :=
    x.1.bind fun p => (cornerAt p.1 p.2 s).map fun k => ⟨(k.1, k.2.1), k.2.2, x.2⟩
  match vs.map corner with
  | [some a, some b, some d, some e] => triangle c s a d e (triangle c s a b d old)
  | _ => old

/-- The micropolygons of a grid in their order: corners v00, v10, v11, v01, by vertex index. -/
def gridQuads (g : Grid) : List (List Nat) :=
  (List.range g.nv).flatMap fun b => (List.range g.nu).map fun a =>
    let v := b * (g.nu + 1) + a
    [v, v + 1, v + g.nu + 2, v + g.nu + 1]

/-- A sample that nothing has covered: colour +0, depth +∞ (R246). -/
def blankSample : Nat × Nat := (0, inf32)

/-- A bucket's sample by index. -/
def sampleAt (l : List (Nat × Nat × Nat)) (i : Nat) : Nat × Nat := kgetD l i blankSample

/-- The pixels of a bucket inside the image, with their index in the bucket. -/
def bucketPixels (c : Cam) (b : Nat) : List (Nat × Nat × Nat) :=
  (List.range (c.b * c.b)).filterMap fun p =>
    let px := b % c.cols * c.b + p % c.b
    let py := b / c.cols * c.b + p / c.b
    if px < c.iw && py < c.ih then some (p, px, py) else none

/-- A grid sampled into a bucket (R268). -/
def sampleGrid (c : Cam) (b : Nat) (g : Grid) (samples : List (Nat × Nat × Nat)) : List (Nat × Nat × Nat) :=
  let vs : List (Option (Proj × Proj) × Word) := g.verts.map fun v =>
    ((project c v.p0).bind fun a => (project c v.p1).map fun e => (a, e), v.col)
  let quads := (gridQuads g).map fun q => q.map fun i => vs.getD i (none, 0)
  let quads := quads.filter fun q => q.all fun v => v.1.isSome
  (bucketPixels c b).foldl (fun l x => (List.range c.spp).foldl (fun l k =>
    let s := sampleOf c x.2.1 x.2.2 k
    let i := x.1 * c.spp + k
    let old := sampleAt l i
    let new := quads.foldl (fun o q => micropolygon c s q o) old
    if new == old then l else kset l i new) l) samples

/-! ## The box filter (R269) -/

/-- A channel's mean of a pixel. -/
def meanOf (c : Cam) (l : List (Nat × Nat × Nat)) (p k : Nat) : FVal :=
  let xs := (List.range c.spp).map fun n => fp16.decode (BitVec.ofNat 64 (sampleAt l (p * c.spp + n)).1 |> fun w => sub 16 w k)
  (exactSum (sumZeroSign .ne xs) xs).scale (-(c.spp.log2 : Int))

/-- A value as an 8-bit unorm. -/
def unorm (v : FVal) : Nat :=
  match v with
  | .nan => 0
  | .inf neg => if neg then 0 else 255
  | .fin neg m e => if neg then 0 else if (FVal.fin false 1 0).lt (.fin false m e) then 255
    else ((FVal.fin false (255 * m) e).toInt .ne).toNat

/-- The bytes of a pixel. -/
def pixelBytes (c : Cam) (l : List (Nat × Nat × Nat)) (p : Nat) : List Byte :=
  (List.range 4).flatMap fun k =>
    let v := meanOf c l p k
    if c.ofmt = 0 then leBytes 2 (fp16.encode .ne v) else leBytes 1 (unorm v)

end Sys2Proof.Machine
end

