-- ==== Sys2Proof/Machine/Queues.lean ====
section
/-! DEFINITION. Queue registers (R293 to R298) and copies (R299 to R305). -/

namespace Sys2Proof.Machine

open Sys2Proof

/-! ## `qbind` and `qstat` (R293, R294, R297) -/

/-- What is wrong with a binding word for queue register `k` of the crew at issue (R294). -/
def bindBad (s : State) (k : Nat) (w : Word) : Bool :=
  let n := w.toNat
  let qk := n % 4
  let win := n / 4 % 128
  let off := n / 2 ^ 10 % 2 ^ 18
  let fin := off + 256 * (n / 2 ^ 28 % 64 + 2)
  match blockAt? s s.cur.block with
  | none => true
  | some b =>
    let row := b.qtab.getD 0
    let taken := (List.range 8).any fun j =>
      let q := s.cur.qregs.getD j default
      j != k && q.word.getLsbD 63 && winOf q == win
    n / 2 ^ 9 % 2 == 1 || taken || decide (s.cur.vn ≤ win) || win == 127 ||
      (if qk = 1 then
        n / 2 ^ 34 != 0 || off % 256 != 0 || decide (b.scratchSize < fin) ||
          (decide (off < row + 64 * b.crews) && decide (row < fin))
       else if qk = 2 then
        n / 2 ^ 31 != 0 || n / 2 ^ 10 % 2 ^ 21 % 256 != 0 || decide (b.winSize ≤ n / 2 ^ 10 % 2 ^ 21)
       else true)

/-- Does an outstanding drain or `mrow` of the crew name queue register `k`, or a feed push of it still wait (R294)? -/
def bindWaits (s : State) (k : Nat) : Bool :=
  let c := coreAt s s.cur.pair
  let cid := s.cur.cid
  (c.feeds.any fun f => f.cid == cid) || c.opq.any fun e => match e with
    | .mdrnQ i _ q _ _ _ _ _ => i == cid && q == k
    | .mrow i _ q _ _ => i == cid && q == k
    | _ => false

/-- Pushes of the crew's register `k` in the operand queue keep the offsets that their binding gives them when it is
replaced (log 19 DEDUCED unsafe). -/
def fixFeeds (cid k : Nat) : Nat → List EngCmd → List EngCmd
  | _, [] => []
  | t, .feed i q x none :: l =>
    if i == cid && q == k then .feed i q x (some t) :: fixFeeds cid k ((t + 256) % 2 ^ 21) l else .feed i q x none :: fixFeeds cid k t l
  | t, e :: l => e :: fixFeeds cid k t l

/-- The new binding is written, `none` to unbind: the items left are gone, and a result queue's header is zero. -/
def bindNow (s : State) (k : Nat) (w : Option Word) : State :=
  let old := s.cur.qregs.getD k default
  let word : Word := match w with | some x => x ||| (1 <<< 63) | none => 0
  let q : QReg := ⟨word, 0, 0⟩
  let cid := s.cur.cid
  let idx := s.cur.idx
  let s := modCore s s.cur.pair fun c => { c with opq := if isFeedQ old then fixFeeds cid k (tsoOf old) c.opq else c.opq }
  let s := modBlock s s.cur.block fun b =>
    let m := b.scratch.writes (b.qtab.getD 0 + 64 * idx + 8 * k) (leBytes 8 word.toNat)
    { b with scratch := if isResultQ q then m.writes (soffOf q) (List.replicate 256 0) else m }
  modCur s fun c => { c with qregs := c.qregs.setIfInBounds k q }

/-- `qbind` from its first wait on: the crew at issue, with the value read from its register (log 28 DEDUCED unsafe). -/
def bindStep (s : State) (k : MReg) (a : CReg) : State :=
  if bindWaits s k.val then parkAs s (.qbind k.val)
  else complete (bindNow s k.val (if a.val = 63 then none else some (getC s a)))

def execQbind (k : MReg) (a : CReg) (s : State) : Res :=
  run (.qbind k a) s fun _ s => needFull s fun s =>
    let enabled := match blockAt? s s.cur.block with | some b => b.qtab.isSome | none => false
    if !enabled || (a.val != 63 && bindBad s k.val (getC s a)) then raise s { cause := .qreg, info := k.val }
    else bindStep s k a

/-- A parked `qbind` whose wait is over. -/
def bindDone (s : State) : State :=
  match s.cur.fr.park with
  | .qbind k =>
    (match decode s.cur.fr.word with
     | .ok (.qbind _ a) => bindNow s k (if a.val = 63 then none else some (getC s a))
     | _ => s)
  | _ => s

def execQstat (d : CReg) (k : MReg) (s : State) : Res :=
  run (.qstat d k) s fun _ s => needFullFor s d fun s =>
    let q := s.cur.qregs.get k
    let v := if isFeedQ q then 2 ^ 63 + tsoOf q * 2 ^ 32 + winOf q * 2 ^ 18 + 2 * 2 ^ 16
      else if isResultQ q then 2 ^ 63 + winOf q * 2 ^ 18 + 2 ^ 16 + depthOf q * 2 ^ 8 + q.count
      else 0
    complete (setC s d (BitVec.ofNat 64 v))

/-! ## Issue of copies (R299, R302, R303) -/

/-- `n` registers from one on. -/
def groupWords (s : State) (a : CReg) (n : Nat) : List Word := (List.range n).map fun i => getC s (Fin.ofNat 64 (a.val + i))

/-- The bits `CHN`, `FIN` and `CRC`, and `EXP`, of a copy's control word. -/
def chnOf (w : Word) : Bool := w.getLsbD 25
def finOf (w : Word) : Bool := w.getLsbD 26
def crcOf (w : Word) : Bool := w.getLsbD 27
def expOf (w : Word) : Nat := w.toNat / 2 ^ 32

/-- A copy enters the device: what its chain says of it is settled now, in program order (R302, R305). -/
def startCopy (s : State) (m : Mods) (sub : Nat) (ws : List Word) : Nat × State :=
  let sc := scopeOf .device m.scp
  let s := if ordAcq m.ord then releaseAt s s.cur.pair sc else s
  let n := fresh s
  let s := n.2
  let k := s.cur
  let w := ws.getD 2 0
  let chn := chnOf w
  let fin := finOf w
  let crc := crcOf w
  let isOpen := k.chain.isSome
  let inChain := sub != 2 && (chn || !fin)
  let noChain := inChain && (chn != isOpen)
  let expBad := sub != 2 && expOf w != 0 && !(fin && crc)
  let bad := (inChain && chn && crc != k.chainCrc) || expBad
  let pre : Option (Nat × Nat) := if bad && !noChain then some (3, 0) else if noChain then some (if expBad then 3 else 6, 0) else none
  let cont := inChain && chn && !noChain
  let after := if cont then k.chainSeq else []
  let x : Copy :=
    { id := n.1, cid := k.cid, launch := k.launch, pair := k.pair, block := k.block, region := k.region, sub := sub,
      words := ws, ord := m.ord, scope := sc, started := after.isEmpty, after := after,
      crc := if cont then k.chain.getD 0xFFFFFFFF else 0xFFFFFFFF, waits := [], pre := pre, got := [], put := [] }
  let s := { s with copies := s.copies ++ [x] }
  let s := if !inChain || noChain then s
    else if fin then modCur s fun c => { c with chain := none, chainSeq := [] }
    else modCur s fun c => { c with
      chain := some (c.chain.getD 0xFFFFFFFF), chainCrc := if chn then c.chainCrc else crc,
      chainSeq := if chn then c.chainSeq ++ [n.1] else [n.1] }
  (n.1, s)

def execCpy (a : CReg) (s : State) : Res :=
  run (.cpy a) s fun m s => complete (startCopy s m 0 (groupWords s a 4)).2

def execTcpy (a : CReg) (s : State) : Res :=
  run (.tcpy a) s fun m s => complete (startCopy s m 2 (groupWords s a 6)).2

def execCpyw (a b : CReg) (s : State) : Res :=
  run (.cpyw a b) s fun m s => needFull s fun s =>
    let t := getC s b
    if badPc t then raise s { cause := .badpc, addr := t.toNat }
    else
      let r := startCopy s m 1 (groupWords s a 4)
      let s := completeAt r.2 (t.setWidth 57)
      modFr s fun f => { f with park := .cpyw r.1 s.now }

/-! ## Ends (R300, R301) -/

/-- A piece of an end within one page: its distance from the start, its length, and its translation. -/
structure EndPiece where
  off : Nat
  len : Nat
  va : Nat
  at_ : Xl
  deriving DecidableEq, Repr, Inhabited

/-- The scratchpad of a copy's block. -/
def copyScratch (s : State) (c : Copy) : Nat := match blockAt? s c.block with | some b => b.scratchSize | none => 0

/-- The pieces of an end of `n` bytes. -/
def endPieces (s : State) (c : Copy) (acc : Acc) (w : Word) (n : Nat) : List EndPiece :=
  let a := w.toNat % 2 ^ 57
  if w.toNat / 2 ^ 57 % 4 = 1 then [⟨0, n, a, .ok ⟨.spad c.block, a⟩ ⟨true, true, false⟩⟩]
  else (List.range ((a % 4096 + n + 4095) / 4096)).map fun k =>
    let lo := if k = 0 then 0 else 4096 * k - a % 4096
    let hi := min n (4096 * (k + 1) - a % 4096)
    ⟨lo, hi - lo, a + lo, xlateFresh s acc (a + lo)⟩

/-- Bytes of an end that lie past its block's scratchpad. -/
def endOut (s : State) (c : Copy) (w : Word) (n : Nat) : Bool :=
  w.toNat / 2 ^ 57 % 4 == 1 && decide (copyScratch s c < w.toNat % 2 ^ 57 + n)

/-- An end's reserved bits, with its `SPC`. -/
def endRsvd (w : Word) : Bool := w.toNat / 2 ^ 58 != 0

/-- The place of each byte of an end. -/
def endBytes (ps : List EndPiece) : List PA := ps.flatMap fun p => match p.at_ with
  | .ok pa _ => (List.range p.len).map pa.off
  | _ => []

/-- The place of each byte of an end, none where its page is not mapped. -/
def endMap (ps : List EndPiece) : List (Option PA) := ps.flatMap fun p => match p.at_ with
  | .ok pa _ => (List.range p.len).map fun i => some (pa.off i)
  | _ => List.replicate p.len none

/-- Source and destination places of the bytes that are mapped at both ends. -/
def bothMapped (src dst : List EndPiece) : List (PA × PA) :=
  ((endMap src).zip (endMap dst)).filterMap fun x => match x.1, x.2 with
    | some a, some b => some (a, b)
    | _, _ => none

/-- The first address of an end that lacks its permission, with its distance. -/
def endDenied (ps : List EndPiece) : Option (Nat × Nat) :=
  (ps.find? fun p => p.at_ == .denied).map fun p => (p.off, p.va)

/-- The first address of an end in each of its pages that is absent. -/
def endAbsent (ps : List EndPiece) : List Nat := ps.filterMap fun p => match p.at_ with
  | .absent .. => some p.va
  | _ => none

/-- Does an end meet a migrating page? -/
def endMoves (ps : List EndPiece) : Bool := ps.any fun p => p.at_ == .migrating

/-- Where a copy's accesses come from: its core, or, of a tensor copy, the paired engine (R12, R299). -/
def Copy.port (c : Copy) : Port := if c.sub = 2 then enginePort c.pair else corePort c.pair

/-- Does an end cross a link that is retraining (R393)? -/
def endHeld (s : State) (c : Copy) (ps : List EndPiece) : Bool :=
  !s.dev.retraining.isEmpty && ps.any fun p => match p.at_ with
    | .ok pa _ => (List.range ((pa.a % 128 + p.len + 127) / 128)).any fun i =>
        linkHeld s c.port { pa with a := pa.a / 128 * 128 + 128 * i }
    | _ => false

/-- Does one hold the release that a copy's completion makes (R219, R393)? -/
def copyReleaseHeld (s : State) (c : Copy) : Bool := ordRel c.ord && releaseHeld s c.pair c.scope

/-- One byte as a copy's source gives it. Without an acquire flag it is the home's, or the one that the issuing core holds for it,
as `old` says (R219, R356). -/
def copyByte (s : State) (c : Copy) (old : Bool) (p : PA) : Byte × State :=
  match p.sp with
  | .loc =>
    let b := if ordAcq c.ord then readAt s c.pair c.scope p.a
      else if old then homeRead s p.a else readAt s c.pair .device p.a
    (b, noteRead s c.launch p.a)
  | _ => (paRead s p, s)

/-- The bytes of places from distance `i` on: those that have been read, and the others as they are now; what an element without
an acquire flag sees is one free choice for each, `key` naming its element (R219, R301, log 6 DESIGN CHOICE safe). -/
def copyBytes (s : State) (c : Copy) (key : Nat → Nat) : Nat → List PA → List Byte × State
  | _, [] => ([], s)
  | i, p :: l =>
    let r := match kget c.got i with
      | some b => (b, s)
      | none => copyByte s c (Config.choice (s.tick + key i) % 2 == 1) p
    let t := copyBytes r.2 c key (i + 1) l
    (r.1 :: t.1, t.2)

/-- The element of a copy of `n` bytes from `sa` to `da` that holds the byte at distance `i`: where it begins, and its size, the
most that is aligned at both ends and lies in the range (R301). -/
def elementAt (da sa n i : Nat) : Nat × Nat :=
  let fits (e : Nat) : Bool := da % e == sa % e && decide (da ≤ (da + i) / e * e) && decide ((da + i) / e * e + e ≤ da + n)
  let e := if fits 8 then 8 else if fits 4 then 4 else if fits 2 then 2 else 1
  ((da + i) / e * e - da, e)

/-- One byte written at a copy's destination, local memory at its home: what the core's own L1 holds of it stays until an acquire (R219,
R301, R354). -/
def copyPut (s : State) (c : Copy) (p : PA) (b : Byte) : State :=
  let s := claimAt s c.launch p
  match p.sp with
  | .loc => homeWrite s p.a b
  | _ => paWrite s p b

/-- A copy changed. -/
def modCopy (s : State) (id : Nat) (f : Copy → Copy) : State :=
  { s with copies := s.copies.map fun x => if x.id == id then f x else x }

/-- An element of a copy is read, or, once it has been read, written: `ix` are its bytes' distances, with their places at both
ends; the accesses of one copy come in any order (R219, R301). -/
def moveElement (s : State) (x : Copy) (ix : List (Nat × PA × PA)) : State :=
  let ids := ix.map fun y => y.1
  if ids.any x.put.contains then s
  else if ids.all fun k => (kget x.got k).isSome then
    modCopy (ix.foldl (fun s y => copyPut s x y.2.2 ((kget x.got y.1).getD 0)) s) x.id fun y => { y with put := y.put ++ ids }
  else if ix.any fun y => badAt s y.2.1 then s
  else
    let s := if ordAcq x.ord then acquireAt s x.pair x.scope else s
    let old := choose s 2
    let r := ix.foldl (fun (acc : List (Nat × Byte) × State) y =>
      let b := copyByte acc.2 x (old.1 == 1) y.2.1
      (acc.1 ++ [(y.1, b.1)], b.2)) ([], old.2)
    modCopy r.2 x.id fun y => { y with got := y.got ++ r.1 }

/-- The size of element that is aligned at both ends of a copy. -/
def atomSize (d : Nat) : Nat := if d % 8 = 0 then 8 else if d % 4 = 0 then 4 else if d % 2 = 0 then 2 else 1

/-- The bytes that an overlapping copy writes: where its source lies under its own destination, an element comes before or
after the copy's own write to it, a free choice for each (R301). `dst` and `src` are the starts (log 27 DEDUCED unsafe). -/
def overlapped (s : State) (dst src : Nat) (old : List Byte) : List Byte × State :=
  let n := old.length
  let pick (i : Nat) : Bool := Config.choice (s.tick + (dst + i) / atomSize (max dst src - min dst src)) % 2 == 1
  let down := if src < dst then
      (List.range n).foldl (fun (acc : Array Byte) i =>
        let b := old.getD i 0
        acc.push (if dst - src ≤ i && pick i then acc.getD (i - (dst - src)) b else b)) #[] |>.toList
    else
      ((List.range n).foldl (fun (acc : Array Byte) j =>
        let i := n - 1 - j
        let b := old.getD i 0
        acc.push (if i + (src - dst) < n && pick i then acc.getD (j - (src - dst)) b else b)) #[] |>.toList).reverse
  (down, { s with tick := s.tick + n + 8 })

/-! ## Completion (R301 to R305) -/

/-- The reserved bits of a `cpy` group (R300, R305). -/
def copyRsvd (ws : List Word) : Bool :=
  let w := ws.getD 2 0
  let len := w.toNat % 2 ^ 25
  endRsvd (ws.getD 0 0) || endRsvd (ws.getD 1 0) || w.toNat / 2 ^ 28 % 16 != 0 || len == 0 || decide (2 ^ 24 < len) ||
    (ws.getD 3 0).toNat / 2 ^ 60 != 0 || (ws.getD 3 0).getLsbD 58

/-- The barrier that a command names, when it can be reached (R171, R305, R379). -/
def engBar (s : State) (block : Nat) (w : Word) : Option PA :=
  let a := w.toNat % 2 ^ 57
  let spc := w.toNat / 2 ^ 57 % 4
  if 2 ≤ spc || a % 16 != 0 then none
  else if spc = 1 then
    (match blockAt? s block with
     | some b => if a + 16 ≤ b.scratchSize then some ⟨.spad b.bid, a⟩ else none
     | none => none)
  else match xlateFresh s .read a, xlateFresh s .write a with
    | .ok pa _, .ok _ _ => if pa.sp == .loc then some pa else none
    | _, _ => none

/-- Is the page of a global barrier migrating? -/
def barMoves (s : State) (w : Word) : Bool := w.toNat / 2 ^ 57 % 4 == 0 && moving s (w.toNat % 2 ^ 57) 16

/-- Must a command's subtraction wait for `MMRL`: for the barrier's page, or for the pool of a shadow that it needs (R345, R354)? -/
def barStalls (s : State) (block launch : Nat) (w : Word) : Bool :=
  barMoves s w || (engBar s block w).any (claimMoves s launch)

/-- Does a barrier that a command names lie behind a retraining link (R393)? -/
def barBehind (s : State) (from_ : Port) (block : Nat) (w : Word) : Bool := (engBar s block w).any (linkHeld s from_)

/-- A fragment parked at the continuation of copy `id` is ready, with the acquire of R220; a recorded COPYF is delivered
there (R303). -/
def resumeCpyw (s : State) (x : Copy) : State :=
  let waits (f : Frag) : Bool := match f.park with | .cpyw i _ => i == x.id | _ => false
  match (allCrews s).find? fun c => c.cid == x.cid with
  | some c =>
    if c.all.any waits then
      let s := acquireAt s c.pair x.scope
      let st := stampNow s
      let next : Park := if c.imprec.any fun e => e.cause == .copyf then .cont else .none
      modCrew st.2 x.cid fun c => c.mapFrags fun f => if waits f then { f with park := next, stamp := st.1 } else f
    else s
  | none =>
    let woken (k : SavedCrew) : SavedCrew :=
      let hit := k.kept.any fun y => match y.2 with | .cpyw i _ => i == x.id | _ => false
      if k.cid == x.cid && hit then
        let failed := k.imprec.any fun e => e.cause == .copyf
        { k with
          kept := k.kept.filterMap (fun y => match y.2 with
            | .cpyw i _ => if i == x.id then (if failed then some (y.1, .cont) else none) else some y
            | _ => some y),
          met := true,
          ready := if k.ready.isSome then k.ready
            else if k.reason != 3 || crewStopped s k.region then none else some s.now }
      else k
    { s with saved := s.saved.map woken }

/-- A recorded fault of a crew, resident or saved. -/
def recordAnywhere (s : State) (cid : Nat) (e : Imprec) : State :=
  let s := recordImprec s cid e
  { s with saved := s.saved.map fun k => if k.cid == cid then { k with imprec := k.imprec ++ [e] } else k }

/-- A copy leaves: members of its chain that wait for it may start, from the CRC it leaves. -/
def endCopy (s : State) (x : Copy) (crc : BitVec 32) : State :=
  let s := { s with copies := (s.copies.filter fun y => y.id != x.id).map fun y =>
    if y.after.contains x.id then { y with after := y.after.filter (fun i => i != x.id), crc := crc } else y }
  let s := modCrew s x.cid fun c =>
    if c.chainSeq.contains x.id then { c with chain := c.chain.map (fun _ => crc), chainSeq := c.chainSeq.filter fun i => i != x.id }
    else c
  resumeCpyw s x

/-- A failure: it is recorded with its sub-code, `SUB`, first failing address and CRC, the chain is closed, and its members
that remain are complete without effect (R305). A failure without an address leaves `taddr` open (log 27 DEDUCED unsafe). -/
def failCopy (s : State) (x : Copy) (sub : Nat) (addr : Option Nat) (crc : Nat) : State :=
  let r := choose s (2 ^ 64)
  let s := r.2
  let e : Imprec := ⟨.copyf, addr.getD r.1, 0, sub + 256 * x.sub + 2 ^ 32 * crc, false, false, [], false⟩
  let s := recordAnywhere s x.cid e
  let rest := s.copies.filter fun y => y.after.contains x.id
  let s := modCrew s x.cid fun c => if c.chainSeq.contains x.id || rest.any (fun y => c.chainSeq.contains y.id)
    then { c with chain := none, chainSeq := [] } else c
  let s := endCopy s x x.crc
  rest.foldl (fun s y => endCopy s y y.crc) s

/-- The least sub-code of some failures. -/
def leastBad (l : List (Nat × Option Nat)) : Option (Nat × Option Nat) :=
  l.foldl (fun m x => match m with
    | some y => if x.1 < y.1 then some x else some y
    | none => some x) none

/-- The first failing address of both ends: the nearer to the start, the source's of two. -/
def deniedAt (src dst : List EndPiece) : Option Nat :=
  match endDenied src, endDenied dst with
  | some a, some b => some (if b.1 < a.1 then b.2 else a.2)
  | some a, none => some a.2
  | none, some b => some b.2
  | none, none => none

/-- Bytes written by a copy that fails part way: some of them, which is open; of an unreadable source they are junk (R305,
log 9 DESIGN CHOICE safe). -/
def someBytes (s : State) (c : Copy) (ps : List PA) (bs : List Byte) (junk : Bool) : State :=
  ((ps.zip bs).zipIdx).foldl (fun s x =>
    match Config.choice (s.tick + x.2) % 3 with
    | 0 => s
    | 1 => copyPut s c x.1.1 x.1.2
    | _ => copyPut s c x.1.1 (if junk then Config.junkByte (s.tick + x.2) else x.1.2)) s

/-- The bytes of a `cpy` group's range; none can be moved when `LEN` is out of range. -/
def copyLen (ws : List Word) : Nat :=
  let n := (ws.getD 2 0).toNat % 2 ^ 25
  if copyRsvd ws && decide (2 ^ 24 < n) then 0 else n

/-- The failures that a `cpy` meets before any byte moves, with the first failing address: of an end beyond its scratchpad, the
first address past the allocation (R305). -/
def cpyEarly (s : State) (x : Copy) : List (Nat × Option Nat) :=
  let dw := x.words.getD 0 0
  let sw := x.words.getD 1 0
  let n := copyLen x.words
  let denied := deniedAt (if endRsvd sw then [] else endPieces s x .read sw n) (if endRsvd dw then [] else endPieces s x .write dw n)
  let past (w : Word) : List (Nat × Option Nat) := [(2, some (max (w.toNat % 2 ^ 57) (copyScratch s x)))]
  (match x.pre with | some (c, a) => [(c, if c = 1 then some a else none)] | none => []) ++
    (match denied with | some a => [(1, some a)] | none => []) ++
    (if endOut s x sw n then past sw else if endOut s x dw n then past dw else []) ++
    (if copyRsvd x.words then [(3, none)] else [])

/-- The element of a `cpy` that holds the byte at distance `i` is read or written, when nothing keeps it (R301). -/
def cpyElement (s : State) (x : Copy) (i : Nat) : State :=
  let dw := x.words.getD 0 0
  let sw := x.words.getD 1 0
  let n := copyLen x.words
  let e := elementAt (dw.toNat % 2 ^ 57) (sw.toNat % 2 ^ 57) n i
  let shift (w : Word) : Word := w + BitVec.ofNat 64 e.1
  let src := endPieces s x .read (shift sw) e.2
  let dst := endPieces s x .write (shift dw) e.2
  let ps := bothMapped src dst
  if n ≤ i || !(cpyEarly s x).isEmpty || ps.length < e.2 || endHeld s x (src ++ dst) ||
      ps.any (fun p => claimMoves s x.launch p.2) then s
  else moveElement s x (ps.zipIdx.map fun p => (e.1 + p.2, p.1))

/-- The distances, from `i` on, of source bytes still to be read whose lines are uncorrectable (R305, R390). -/
def lostBytes (s : State) (x : Copy) (i : Nat) (ps : List PA) : List Nat :=
  (ps.zipIdx.filter fun y => badAt s y.1 && (kget x.got (i + y.2)).isNone).map fun y => i + y.2

/-- A `cpy` or `cpyw` moves the bytes that are left and completes, or waits for pages, or fails (R301 to R305). `bad`: somewhere the
source is uncorrectable or a link of either end fails, which is open. `flip`: what a peer's write path alters of the bytes it now
writes, by distance from the start. -/
def cpyStep (s : State) (x : Copy) (bad : Bool) (flip : List (Nat × BitVec 8)) : State :=
  let dw := x.words.getD 0 0
  let sw := x.words.getD 1 0
  let w := x.words.getD 2 0
  let bw := x.words.getD 3 0
  let n := copyLen x.words
  let da := dw.toNat % 2 ^ 57
  let sa := sw.toNat % 2 ^ 57
  let src := endPieces s x .read sw n
  let dst := endPieces s x .write dw n
  let key (i : Nat) : Nat := (elementAt da sa n i).1
  let early := cpyEarly s x
  match leastBad early with
  | some e =>
    let s := if early.any fun e => e.1 != 1 then s else
      let ps := bothMapped src dst
      let r := copyBytes s { x with got := [] } key 0 (ps.map fun y => y.1)
      someBytes r.2 x (ps.map fun y => y.2) r.1 false
    failCopy s x e.1 e.2 0
  | none =>
    let gone := endAbsent src ++ endAbsent dst
    if !gone.isEmpty then
      modCopy s x.id fun y => { y with waits := distinct gone }
    else if endHeld s x (src ++ dst) || (bw.getLsbD 59 && barBehind s x.port x.block bw) || copyReleaseHeld s x then s
    else if endMoves src || endMoves dst || (bw.getLsbD 59 && barStalls s x.block x.launch bw) ||
        (endBytes dst).any (claimMoves s x.launch) then stall s x.id
    else
      let s := if ordAcq x.ord then acquireAt s x.pair x.scope else s
      let r := copyBytes s x key 0 (endBytes src)
      let r := (r.1, { r.2 with tick := r.2.tick + n })
      let places := endBytes dst
      let lost := lostBytes s x 0 (endBytes src)
      if bad || !lost.isEmpty then
        let a := choose r.2 (2 * n)
        let u := choose a.2 2
        let met := if bad && u.1 = 1 then (endBytes src)[a.1]?.toList else []
        let s := countUncorr u.2 (met ++ lost.filterMap fun k => (endBytes src)[k]?)
        let found := if a.1 < n then sa + a.1 else da + (a.1 - n)
        let addr := match lost with
          | [] => found
          | k :: _ => if bad && decide (a.1 % n < k) then found else sa + k
        failCopy (someBytes s x places r.1 true) x 5 (some addr) 0
      else
        let same := dw.toNat / 2 ^ 57 == sw.toNat / 2 ^ 57 && decide (da < sa + n) && decide (sa < da + n)
        let o := if same then overlapped r.2 da sa r.1 else r
        let put := ((places.zip o.1).zipIdx).map fun y =>
          let isPeer := match y.1.1.sp with | .peer _ => true | _ => false
          let b := (kget x.got y.2).getD y.1.2
          (y.2, y.1.1, if isPeer && !x.put.contains y.2 then b ^^^ kgetD flip y.2 0 else b)
        let s := put.foldl (fun s y => if x.put.contains y.1 then s else copyPut s x y.2.1 y.2.2) o.2
        let crc := if crcOf w then crcBytes x.crc (put.map fun y => y.2.2) else x.crc
        let got := (crc ^^^ 0xFFFFFFFF).toNat
        let mism := crcOf w && finOf w && got != expOf w
        let s := if ordRel x.ord then releaseAt s x.pair x.scope else s
        let bar := if bw.getLsbD 59 then engBar s x.block bw else none
        let barBad := bw.getLsbD 59 && bar.isNone
        let s := match bar with
          | some at_ => barSub s x.pair x.launch at_ n
          | none => s
        if mism then failCopy s x 4 none got
        else if barBad then failCopy s x 7 (some (bw.toNat % 2 ^ 57)) 0
        else endCopy s x crc

/-! ## Tensor copies (R304) -/

/-- The reserved bits of a `tcpy` group. -/
def tcpyRsvd (ws : List Word) : Bool :=
  let w := (ws.getD 2 0).toNat
  let sf := w / 2 ^ 32 % 256
  let t := w / 2 ^ 40 % 256
  (ws.getD 0 0).toNat / 2 ^ 58 != 0 || endRsvd (ws.getD 1 0) || w / 2 ^ 48 != 0 || decide (2 < sf) ||
    !(decide (t < 0x1C) || (decide (0x20 ≤ t) && decide (t ≤ 0x22))) || (ws.getD 3 0).toNat / 2 ^ 60 != 0 ||
    (ws.getD 3 0).getLsbD 58 || (ws.getD 4 0).toNat / 2 ^ 40 != 0 ||
    (if sf = 2 then endRsvd (ws.getD 5 0) else ws.getD 5 0 != 0)

/-- A stripe of a tensor copy: element source, scale source when it has one, and the two window offsets. -/
structure TStripe where
  src : Nat
  scale : Option Nat
  data : Nat
  desc : Nat
  deriving DecidableEq, Repr, Inhabited

/-- The stripes of a tensor copy, row by row (R304). -/
def tcpyStripes (ws : List Word) : List TStripe :=
  let d := (ws.getD 0 0).toNat
  let w := (ws.getD 2 0).toNat
  let rows := w % 2 ^ 16 + 1
  let str := w / 2 ^ 16 % 2 ^ 16 + 1
  let sf := w / 2 ^ 32 % 256
  let t := w / 2 ^ 40 % 256
  let z := if t = 0x21 || t = 0x22 then 64 else 32
  let rp := if d / 2 ^ 42 % 2 ^ 16 = 0 then str else d / 2 ^ 42 % 2 ^ 16
  let pitch := (ws.getD 4 0).toNat % 2 ^ 40
  let a := (ws.getD 1 0).toNat % 2 ^ 57
  let b := (ws.getD 5 0).toNat % 2 ^ 57
  (List.range rows).flatMap fun r => (List.range str).map fun i =>
    let at_ := r * rp + i
    let base := a + r * pitch
    { src := if sf = 1 then base + i * (z + 1) + 1 else base + i * z,
      scale := if sf = 1 then some (base + i * (z + 1)) else if sf = 2 then some (b + r * str + i) else none,
      data := d % 2 ^ 21 + at_ * z, desc := d / 2 ^ 21 % 2 ^ 21 + 2 * at_ }

/-- The stripe size of a tensor copy's `TYPE`. -/
def tcpyZ (ws : List Word) : Nat :=
  let t := (ws.getD 2 0).toNat / 2 ^ 40 % 256
  if t = 0x21 || t = 0x22 then 64 else 32

/-- The pieces of `n` source bytes at address `a` of the space that a source word names. -/
def tcpyPlace (s : State) (x : Copy) (w : Word) (a n : Nat) : List EndPiece :=
  endPieces s x .read (BitVec.ofNat 64 (w.toNat / 2 ^ 57 % 4 * 2 ^ 57 + a % 2 ^ 57)) n

/-- The word that names the space of a stripe's scale (R304). -/
def tcpyScaleWord (ws : List Word) : Word := if (ws.getD 2 0).toNat / 2 ^ 32 % 256 = 2 then ws.getD 5 0 else ws.getD 1 0

/-- The elements of a stripe, and its scale when it has one. -/
def tcpyEls (s : State) (x : Copy) (y : TStripe) : List EndPiece := tcpyPlace s x (x.words.getD 1 0) y.src (tcpyZ x.words)
def tcpyScs (s : State) (x : Copy) (y : TStripe) : List EndPiece := match y.scale with
  | some a => tcpyPlace s x (tcpyScaleWord x.words) a 1
  | none => []

/-- Every range that a tensor copy reads: the word of its space, its address and its size. -/
def tcpyReads (ws : List Word) : List (Word × Nat × Nat) :=
  if endRsvd (ws.getD 1 0) || endRsvd (tcpyScaleWord ws) then []
  else (tcpyStripes ws).flatMap fun y =>
    (match y.scale with | some a => [(tcpyScaleWord ws, a, 1)] | none => []) ++ [(ws.getD 1 0, y.src, tcpyZ ws)]

/-- The failures that a tensor copy meets before any byte moves, with the first failing address: of an end beyond its space, the
first address past it (R305). -/
def tcpyEarly (s : State) (x : Copy) : List (Nat × Option Nat) :=
  let z := tcpyZ x.words
  let win := match blockAt? s x.block with | some b => b.winSize | none => 0
  let isSpad (q : Word × Nat × Nat) : Bool := q.1.toNat / 2 ^ 57 % 4 == 1
  let every := tcpyReads x.words
  let denied := every.findSome? fun q =>
    if isSpad q then none
    else match endDenied (tcpyPlace s x q.1 q.2.1 (min q.2.2 (2 ^ 57 - q.2.1))) with
      | some e => some e.2
      | none => if 2 ^ 57 < q.2.1 + q.2.2 then some (max q.2.1 (2 ^ 57)) else none
  let past := (tcpyStripes x.words).find? fun y => decide (win < y.data + z) || decide (win < y.desc + 2)
  let spad := every.find? fun q => isSpad q && decide (copyScratch s x < q.2.1 + q.2.2)
  (match x.pre with | some (c, a) => [(c, if c = 1 then some a else none)] | none => []) ++
    (match denied with | some a => [(1, some a)] | none => []) ++
    (match spad with | some q => [(2, some (max q.2.1 (copyScratch s x)))] | none => match past with
      | some y => [(2, some (max (if win < y.data + z then y.data else y.desc) win))]
      | none => []) ++
    (if tcpyRsvd x.words then [(3, none)] else [])

/-- The start of a tensor copy's window in its engine's tile store. -/
def tcpyBase (s : State) (x : Copy) : Nat := match blockAt? s x.block with | some b => b.winBase | none => 0

/-- Stripe `i`, `y`, is written: its elements, but for those that have been, then its scale and type (R304). -/
def tcpyStripe (s : State) (x : Copy) (i : Nat) (y : TStripe) : State :=
  let z := tcpyZ x.words
  let base := tcpyBase s x
  let from_ := i * (z + 1)
  let key (k : Nat) : Nat := from_ + (elementAt (base + y.data) y.src z (k - from_)).1
  let e := copyBytes s x key from_ (endBytes (tcpyEls s x y))
  let k := copyBytes e.2 x id (from_ + z) (endBytes (tcpyScs s x y))
  let put (s : State) (off : Nat) (bs : List Byte) : State :=
    modCore s x.pair fun c => { c with tstore := c.tstore.writes (base + off) bs }
  let s := if x.put.isEmpty then put k.2 y.data e.1
    else e.1.zipIdx.foldl (fun s b => if x.put.contains (from_ + b.2) then s else put s (y.data + b.2) [b.1]) k.2
  let s := { s with tick := s.tick + z + 1 }
  if x.put.contains (from_ + z) then s
  else put s y.desc [k.1.headD 0x7F, BitVec.ofNat 8 ((x.words.getD 2 0).toNat / 2 ^ 40 % 256)]

/-- The element of a tensor copy that holds byte `k` of its stripes, or the descriptor that follows a stripe's bytes, is read or
written, when nothing keeps it (R219, R301, R304). -/
def tcpyElement (s : State) (x : Copy) (k : Nat) : State :=
  let z := tcpyZ x.words
  let i := k / (z + 1)
  let from_ := i * (z + 1)
  match (tcpyStripes x.words)[i]? with
  | none => s
  | some y =>
    if !(tcpyEarly s x).isEmpty then s
    else
      let base := tcpyBase s x
      if k % (z + 1) < z then
        let e := elementAt (base + y.data) y.src z (k % (z + 1))
        let src := tcpyPlace s x (x.words.getD 1 0) (y.src + e.1) e.2
        let ps := endBytes src
        if ps.length < e.2 || endHeld s x src then s
        else moveElement s x (ps.zipIdx.map fun p => (from_ + e.1 + p.2, p.1, ⟨.tile x.pair, base + y.data + e.1 + p.2⟩))
      else if x.put.contains k || (y.scale.isSome && (kget x.got k).isNone) then
        (match endBytes (tcpyScs s x y) with
         | [p] => if x.put.contains k || endHeld s x (tcpyScs s x y) then s else moveElement s x [(k, p, p)]
         | _ => s)
      else
        let bs := [(kget x.got k).getD 0x7F, BitVec.ofNat 8 ((x.words.getD 2 0).toNat / 2 ^ 40 % 256)]
        let t := modCore s x.pair fun c => { c with tstore := c.tstore.writes (base + y.desc) bs }
        modCopy t x.id fun c => { c with put := c.put ++ [k] }

/-- The source bytes of a tensor copy still to be read whose lines are uncorrectable: their addresses and places (R305, R390). -/
def tcpyLost (s : State) (x : Copy) : List (Nat × PA) :=
  let z := tcpyZ x.words
  (tcpyStripes x.words).zipIdx.flatMap fun y =>
    let from_ := y.2 * (z + 1)
    let part (at_ a : Nat) (ps : List EndPiece) : List (Nat × PA) :=
      (lostBytes s x at_ (endBytes ps)).filterMap fun k => (endBytes ps)[k - at_]?.map fun p => (a + (k - at_), p)
    (match y.1.scale with | some a => part (from_ + z) a (tcpyScs s x y.1) | none => []) ++ part from_ y.1.src (tcpyEls s x y.1)

/-- A tensor copy moves the bytes that are left and completes, waits for pages, or fails (R304, R305). -/
def tcpyStep (s : State) (x : Copy) (bad : Bool) : State :=
  let ws := x.words
  let bw := ws.getD 3 0
  let ts := (tcpyStripes ws).zipIdx
  let pieces := ((tcpyReads ws).filter fun q => decide (q.2.1 + q.2.2 ≤ 2 ^ 57)).flatMap fun q => tcpyPlace s x q.1 q.2.1 q.2.2
  let early := tcpyEarly s x
  let part (s : State) : State := ts.foldl (fun s y =>
    let r := choose s 2
    let found := (tcpyEls s x y.1 ++ tcpyScs s x y.1).all fun p => match p.at_ with | .ok .. => true | _ => false
    if r.1 = 1 && found then tcpyStripe r.2 x y.2 y.1 else r.2) s
  match leastBad early with
  | some e => failCopy (if early.any fun e => e.1 != 1 then s else part s) x e.1 e.2 0
  | none =>
    let gone := endAbsent pieces
    if !gone.isEmpty then modCopy s x.id fun y => { y with waits := distinct gone }
    else if endHeld s x pieces || (bw.getLsbD 59 && barBehind s x.port x.block bw) || copyReleaseHeld s x then s
    else if endMoves pieces || (bw.getLsbD 59 && barStalls s x.block x.launch bw) then stall s x.id
    else
      let s := if ordAcq x.ord then acquireAt s x.pair x.scope else s
      let lost := tcpyLost s x
      if bad || !lost.isEmpty then
        let z := tcpyZ ws
        let r := choose s (ts.length * (z + 1))
        let u := choose r.2 2
        let y := (ts.getD (r.1 / (z + 1)) default).1
        let scale := if r.1 % (z + 1) = z then y.scale else none
        let found := scale.getD (y.src + r.1 % (z + 1) % z)
        let ps := match scale with
          | some _ => tcpyScs s x y
          | none => tcpyPlace s x (ws.getD 1 0) found 1
        let s := countUncorr u.2 ((if bad && u.1 = 1 then endBytes ps else []) ++ lost.map fun l => l.2)
        failCopy (part s) x 5 (some (match lost with | l :: _ => if bad && decide (found < l.1) then found else l.1 | [] => found)) 0
      else
        let s := ts.foldl (fun s y => tcpyStripe s x y.2 y.1) s
        let s := if ordRel x.ord then releaseAt s x.pair x.scope else s
        if !bw.getLsbD 59 then endCopy s x x.crc
        else match engBar s x.block bw with
          | some at_ => endCopy (barSub s x.pair x.launch at_ (ts.length * tcpyZ ws)) x x.crc
          | none => failCopy s x 7 (some (bw.toNat % 2 ^ 57)) 0

/-! ## Events -/

/-- Does a retraining link hold a walk of the pages that a copy names (R337, R393)? -/
def copyWalks (s : State) (x : Copy) : Bool :=
  let ends := if x.sub = 2 then tcpyReads x.words
    else [(x.words.getD 1 0, (x.words.getD 1 0).toNat % 2 ^ 57, copyLen x.words), (x.words.getD 0 0, (x.words.getD 0 0).toNat % 2 ^ 57, copyLen x.words)]
  !s.dev.retraining.isEmpty && ends.any fun q => q.1.toNat / 2 ^ 57 % 4 != 1 &&
    (List.range ((q.2.1 % 4096 + q.2.2 + 4095) / 4096)).any fun i => walkHeld s x.port (q.2.1 / 4096 * 4096 + 4096 * i)

/-- A copy by name, when it runs and waits for no page, no migration and no walk behind a link. -/
def runningCopy (s : State) (id : Nat) (tensor : Bool) : Option Copy :=
  s.copies.find? fun x => x.id == id && x.started && x.waits.isEmpty && !stalled s id && !copyWalks s x && (x.sub == 2) == tensor

/-- A turn of a copy in flight: one element of it (R219, R301). -/
def copyElement (s : State) (id i : Nat) : State :=
  match (runningCopy s id false).or (runningCopy s id true) with
  | some x => if x.sub = 2 then tcpyElement s x i else cpyElement s x i
  | none => s

def execCopyComplete (id : Nat) (bad : Bool) (flip : List (Nat × BitVec 8)) (s : State) : Res :=
  .next (match runningCopy s id false with
    | some x => cpyStep s x bad flip
    | none => s)

def execTcpyComplete (id : Nat) (bad : Bool) (s : State) : Res :=
  .next (match runningCopy s id true with
    | some x => tcpyStep s x bad
    | none => s)

/-- A member of a chain starts when the one before it has completed (R302). -/
def execCopyChainMemberStart (id : Nat) (s : State) : Res :=
  .next { s with copies := s.copies.map fun x => if x.id == id && x.after.isEmpty then { x with started := true } else x }

end Sys2Proof.Machine
end

