-- ==== Sys2Proof/Machine/Pages.lean ====
section
/-! DEFINITION. Translation and recovery tables as they change: first touch, the translation registers' commands, shootdown,
batched faults and checkpoints (R341 to R352, R360, R361). -/

namespace Sys2Proof.Machine

open Sys2Proof

/-! ## First touch (R347 to R349) -/

/-- The log of a pool's page size. -/
def Pool.bits (p : Pool) : Nat := match p.psz with | 0 => 12 | 1 => 16 | _ => 21

/-- Bytes written by the device itself into local memory. -/
def homeWrites (s : State) (a : Nat) : List Byte → State
  | [] => s
  | b :: bs => homeWrites (homeWrite s a b) (a + 1) bs

/-- The bytes of a page that an evicted entry's backing copy holds (R338, R348). -/
def backing (s : State) (e : BitVec 64) (bits : Nat) : List Byte :=
  paBytes s (leafPA e bits 0) (2 ^ bits)

/-- A leaf that maps a frame, of the permissions of an entry (R348). -/
def mapped (e : BitVec 64) (frame : Nat) (ct : Bool) : Nat :=
  3 + e.toNat / 4 % 8 * 4 + (if ct then 32 else 0) + frame

/-- The entries written for a page at a frame: one, or all sixteen of a 64 KiB page (R348). -/
def mapLeaf (s : State) (e : BitVec 64) (bits at_ frame : Nat) : State :=
  if bits = 16 then
    (List.range 16).foldl (fun s i =>
      homeWrites s (at_ / 128 * 128 + 8 * i) (leBytes 8 (mapped e (frame + 4096 * i) true))) s
  else homeWrites s at_ (leBytes 8 (mapped e frame false))

/-- `swrite ftmap`: the page of an address is mapped from the crew's pool; the status (R348). -/
def touch (s : State) (va : Nat) : Nat × State :=
  match if canonical va then walk s va else .malformed with
  | .malformed => (3, s)
  | .leaf e bits at_ =>
    if pteV e then (2, s)
    else if !pteFT e && !pteSW e then (3, s)
    else
      let inst := match regionAt? s s.cur.region with | some r => r.instM | none => 0
      let empty (s : State) : Nat × State :=
        let off (i : Nat) (x : BitVec 64) : State → State := fun s => homeWrites s i (leBytes 8 (x &&& ~~~(0x40#64)).toNat)
        (1, if bits = 16 then
              (List.range 16).foldl (fun s i => off (at_ / 128 * 128 + 8 * i) (pteAt s (at_ / 128 * 128 + 8 * i)) s) s
            else off at_ e s)
      match kget s.rg.touchPool inst with
      | none => empty s
      | some p =>
        if p.bits != bits then (3, s)
        else match p.pop s with
          | none => empty s
          | some (f, q, t) =>
            let t := { t with rg := { t.rg with touchPool := kset t.rg.touchPool inst q } }
            let page := if pteFT e then List.replicate (2 ^ bits) (0 : Byte) else backing t e bits
            (f, mapLeaf (homeWrites t f page) e bits at_ f)

/-- Does the crew's pool have a page that migrates, so that the write of `ftmap` waits (R345, R349)? -/
def touchMoves (s : State) : Bool :=
  ((regionAt? s s.cur.region).bind fun r => kget s.rg.touchPool r.instM).any (Pool.moves s)

/-- Does a retraining link hold the walk to an address's page or the backing copy of the page (R348, R393)? -/
def touchHeld (s : State) (va : Nat) : Bool :=
  walkHeld s (corePort s.cur.pair) va || match walk s va with
  | .leaf e bits _ => !pteV e && !pteFT e && pteSW e && linkHeld s .h (leafPA e bits 0)
  | .malformed => false

def execFtmapWrite (c : CReg) (s : State) : Res :=
  run (.ftmapWrite c) s fun _ s =>
    if s.cur.cst.lvl != .supervisor then illegal s
    else needFull s fun s =>
      let v := getC s c
      if touchHeld s v.toNat || releaseHeld s s.cur.pair .device then s
      else if touchMoves s then parkAs s .migrate
      else
      let r := touch s v.toNat
      let t := if r.1 % 4 = 0 then releaseAt r.2 s.cur.pair .device else r.2
      complete (modCur t fun k => { k with ftmap := v, ftst := BitVec.ofNat 64 r.1 })

/-! ## Translation registers (R341, R344, R345, R349) -/

/-- Is a launch in flight? -/
def inFlightLaunch (s : State) : Bool := s.launches.any fun l => l.st == .running

/-- Is every ring stopped? -/
def ringsStopped (s : State) : Bool := s.rings.toList.all fun r => r.st != 1

/-- Every core's L1 lines that meet a condition are written back and invalidated. -/
def dropLines (s : State) (f : Line → Bool) : State :=
  s.cores.foldl (fun s x => ((coreAt s x.1).l1.filter f).foldl (fun s l => dropLine s x.1 l) s) s

/-- Does a retraining link hold the write-back of one of them (R393)? -/
def linesHeld (s : State) (f : Line → Bool) : Bool := s.cores.any fun x => wbHeld s x.1 f

/-- Every entry of every translation buffer that meets a condition is gone. -/
def dropTlb (s : State) (f : TlbE → Bool) : State :=
  { s with
    cores := s.cores.map fun (x : Nat × Core) => (x.1, { x.2 with tlb := x.2.tlb.filter fun e => !f e }),
    tlb2 := s.tlb2.map fun (x : Nat × List TlbE) => (x.1, x.2.filter fun e => !f e) }

/-- Instruction-cache lines that meet a condition are gone. -/
def dropCode (s : State) (f : ILine → Bool) : State :=
  { s with cores := s.cores.map fun (x : Nat × Core) => (x.1, { x.2 with icache := x.2.icache.filter fun l => !f l }) }

/-- A host write of `PTRT`: with a launch in flight or a ring in state 01 it is ignored (R341). The table may be placed where local
memory has no byte (log 43 DESIGN CHOICE safe). -/
def execPtrtWrite (v : BitVec 64) (s : State) : Res :=
  let frame := v.toNat / 4096 % 2 ^ 40 * 4096
  if inFlightLaunch s || !ringsStopped s || linesHeld s (fun _ => true) then .next s
  else
    let s := dropCode (dropTlb (dropLines s fun _ => true) fun _ => true) fun _ => true
    .next { s with xl := { s.xl with ptrt := frame } }

/-- The translated lanes that a future still accesses. -/
def Fut.lanes (f : Fut) : List LaneAcc :=
  match f.kind with
  | .load _ _ ls _ _ => ls
  | .pacq _ _ ls => ls
  | .atom _ ls _ _ _ => ls
  | .render _ job => (match job with
    | .samp _ _ ls _ => ls
    | .alpha _ _ _ ls _ => ls
    | .rbox _ ls => ls
    | .rtri _ ls => ls
    | _ => [])
  | _ => []

/-- The accesses translated under entries of the range that are still to be performed, by crew and name (R344). -/
def sdPending (s : State) : List (Nat × Nat) :=
  ((s.storeQ.filter fun x => x.lanes.any fun l => sdHas s l.va).map fun x => (x.cid, x.id)) ++
    ((allCrews s).flatMap fun c => (c.futs.filter fun f => f.lanes.any fun l => sdHas s l.va).map fun f => (c.cid, f.id)) ++
    ((s.barOps ++ s.combiner.flatMap fun e => e.ops).filter fun o => o.at_.sp == .loc).map fun o => (o.cid, o.id)

/-- `GO`: translations that begin from now on read the tables, so no buffer keeps an entry of the range; those that were made are
waited for (R344, log 31 DEDUCED safe). -/
def execShootdownGo (s : State) : Res :=
  .next (if s.xl.sdBsy then s
    else
      let s := dropTlb s fun e => decide (e.va < sdEnd s) && decide (sdFirst s < e.va + 2 ^ e.bits)
      { s with xl := { s.xl with sdBsy := true, sdWaits := sdPending s } })

/-- A wait that polls a counter, or a `barw` its barrier, under an old translation issues again (R344, R375, R380). -/
def sdFree (s : State) (f : Frag) : Frag :=
  match f.park with
  | .wait _ va _ _ _ => if sdHas s va then { f with park := .none } else f
  | .barw at_ _ => if at_.sp == .loc then { f with park := .none } else f
  | _ => f

/-- The wait of a saved crew on a counter of the range finds the counter where the tables now place it, or issues again (R31, R344). -/
def sdSaved (s : State) (k : SavedCrew) : SavedCrew :=
  let moved (x : Nat × Park) : Option (Nat × Park) := match x.2 with
    | .wait _ va t e n =>
      if !sdHas s va then some x
      else (match xlateFresh s .read va with
        | .ok pa _ => some (x.1, .wait pa va t e n)
        | _ => none)
    | _ => some x
  let kept := k.kept.filterMap moved
  if kept.length == k.kept.length then { k with kept := kept }
  else { k with kept := kept, met := true, ready := if k.ready.isSome then k.ready else if crewStopped s k.region then none else some s.now }

/-- Every core has performed what was translated before `GO` and has written back and invalidated its lines of the range, and
`BSY` clears (R344, R346, log 31 DEDUCED safe). -/
def execShootdownDone (s : State) : Res :=
  let hit (vln : Nat) : Bool := decide (128 * vln < sdEnd s) && decide (sdFirst s < 128 * vln + 128)
  .next (if !s.xl.sdBsy || (s.xl.sdWaits.any fun x => inFlight s x.1 x.2) || linesHeld s (fun l => hit l.vln) then s
    else
      let s := dropTlb s fun e => decide (e.va < sdEnd s) && decide (sdFirst s < e.va + 2 ^ e.bits)
      let s := dropCode (dropLines s fun l => hit l.vln) fun l => hit l.vln
      let free (c : Crew) : Crew := c.mapFrags (sdFree s)
      { s with
        cur := free s.cur, crews := s.crews.map free, saved := s.saved.map (sdSaved s),
        xl := { s.xl with sdBsy := false, sdWaits := [] } })

/-- A refill's frames pushed one by one; one that does not fit sets `ERR` (R349). -/
def refill : Nat → Nat → State → Pool → Pool × State
  | 0, _, s, p => (p, s)
  | n + 1, at_, s, p =>
    match p.push s (leNat (s.sys.bytes at_ 8) / 4096 % 2 ^ 40 * 4096) with
    | some (q, t) => refill n (at_ + 8) t q
    | none => refill n (at_ + 8) { s with xl := { s.xl with plErr := true } } p

/-- The refill that a word of `PLAC` asks for, from the list at an address; while a page of its pool migrates, or a link holds its list or
its stack, it waits (R345, R349, R393). -/
def refillFrom (s : State) (w list : Nat) : State :=
  let n := w / 2 ^ 16 % 2 ^ 16
  let sh := w / 1024 % 2 == 1
  let fail : State := if n = 0 then s else { s with xl := { s.xl with plErr := true } }
  match s.rg.eff.find? fun r => r.num == w % 1024 with
  | none => fail
  | some r =>
    match kget (if sh then s.rg.shadowPool else s.rg.touchPool) r.instM with
    | none => fail
    | some p =>
      if p.moves s || mustHold s .h (p.desc + 0x10 + 8 * p.top) (8 * n) || linkHeld s .h ⟨.sys, list⟩ then
        { s with xl := { s.xl with plPend := s.xl.plPend ++ [(w, list)], plBsy := true } }
      else
        let t := refill n list s p
        let s := t.2
        { s with rg := if sh then { s.rg with shadowPool := kset s.rg.shadowPool r.instM t.1 }
            else { s.rg with touchPool := kset s.rg.touchPool r.instM t.1 } }

/-- `PLAC` with `GO` (R349). -/
def execPlacRefill (v : BitVec 64) (s : State) : Res :=
  .next (if v.toNat / 2 ^ 63 = 0 then s else refillFrom s v.toNat s.xl.plal)

/-- Accesses stalled on a migrating page or behind a link walk again (R345, R393), and frames that a pool's page kept go back to it
(R355). -/
def wakeStalls (s : State) : State :=
  let free (c : Crew) : Crew := c.mapFrags fun f => if f.park == .migrate then { f with park := .none } else f
  let t := { s with
    cur := free s.cur, crews := s.crews.map free,
    xl := { s.xl with stalls := [], freeFrames := [], plPend := [], plBsy := false } }
  let t := s.xl.freeFrames.foldl (fun t x => pushFrame t x.1 x.2) t
  s.xl.plPend.foldl (fun t x => refillFrom t x.1 x.2) t

def execMmrlRelease (s : State) : Res := .next (wakeStalls s)

/-! ## Batched faults (R350 to R352) -/

/-- The page of an address. -/
def pageOf (va : Nat) : Nat := va / 4096 * 4096

/-- Every fault on the batched path, one for each page and lane that waits. -/
def faultsWaiting (s : State) : List FRec :=
  ((allCrews s).flatMap fun c => c.all.flatMap fun f => match f.park with
    | .batch id kind _ ls => ls.map fun l => ⟨id, pageOf l.2, kind, c.region, c.pair, c.slot⟩
    | .storeBatch id ls => ls.map fun l => ⟨id, pageOf l.2, 1, c.region, c.pair, c.slot⟩
    | _ => []) ++
  (s.copies.flatMap fun x => x.waits.map fun va =>
    let slot := match crew? s x.cid with | some c => c.slot | none => 0
    ⟨x.id, pageOf va, 3, x.region, x.pair, slot⟩) ++
  (s.renders.flatMap fun r => r.flight.flatMap fun b => b.waits.map fun va =>
    let reg := match launchAt? s r.lid with | some l => l.lr.regn | none => 0
    ⟨r.lid, pageOf va, 1, reg, 0, 0⟩)

/-- Does a page lie in a range? -/
def FRange.has (r : FRange) (page : Nat) : Bool := decide (r.page ≤ page) && decide (page < r.page + 4096 * r.count)

/-- A list without the members of another, each taken away once. -/
def without (l m : List FRec) : List FRec := m.foldl (fun l x => l.erase x) l

/-- Faults that have no record yet and lie in no delivered, unresolved range. -/
def faultsNew (s : State) : List FRec :=
  (without (faultsWaiting s) (s.xl.recs ++ s.xl.closed.flatten)).filter fun f => !(s.xl.ranges.any fun r => r.has f.page)

/-- The open batch closes. -/
def closeBatch (s : State) : State :=
  if s.xl.recs.isEmpty then s
  else { s with xl := { s.xl with recs := [], recAge := 0, closed := s.xl.closed ++ [s.xl.recs] } }

/-- Records in the fault unit's buffer: those of the open batch and of the closed ones that it has yet to deliver (R278, R312). -/
def recordCount (s : State) : Nat := s.xl.recs.length + s.xl.closed.flatten.length

/-- Fault `i` becomes a record, unless 256 stand; the batch closes when it holds `FBN` (R312, R350). -/
def execFaultRecord (i : Nat) (s : State) : Res :=
  .next (match (faultsNew s)[i]? with
    | none => s
    | some f =>
      if 256 ≤ recordCount s then s
      else
        let s := { s with xl := { s.xl with recs := s.xl.recs ++ [f] } }
        if s.xl.fbn ≤ s.xl.recs.length then closeBatch s else s)

/-- The open batch closes when its oldest record has aged 65,536 cycles of the fault unit (R350). -/
def execBatchAgeExpiry (s : State) : Res := .next (if 65536 ≤ s.xl.recAge then closeBatch s else s)

/-- Is one record before another: by page, then region? -/
def FRec.before (a b : FRec) : Bool := decide (a.page < b.page) || (a.page == b.page && decide (a.region ≤ b.region))

/-- The bit of a kind (R351). -/
def kindBit (k : Nat) : Nat := 2 ^ k

/-- Sorted records of one region merged into ranges of consecutive pages. -/
def mergeRecs (batch : Nat) : List FRec → List FRange → List FRange
  | [], acc => acc
  | f :: l, acc =>
    match acc.getLast? with
    | some r =>
      if f.page < r.page + 4096 * r.count then
        mergeRecs batch l (acc.dropLast ++ [{ r with kinds := r.kinds ||| kindBit f.kind, merged := r.merged + 1 }])
      else if f.page = r.page + 4096 * r.count then
        mergeRecs batch l (acc.dropLast ++
          [{ r with count := r.count + 1, kinds := r.kinds ||| kindBit f.kind, merged := r.merged + 1 }])
      else mergeRecs batch l (acc ++ [⟨f.page, 1, f.region, kindBit f.kind, 1, batch, 0⟩])
    | none => mergeRecs batch l [⟨f.page, 1, f.region, kindBit f.kind, 1, batch, 0⟩]

/-- The ranges of a batch in ascending address (R350). -/
def rangesOf (batch : Nat) (fs : List FRec) : List FRange :=
  let regs := distinct (fs.map fun f => f.region)
  let all := regs.flatMap fun r => mergeRecs batch (sortBy FRec.before (fs.filter fun f => f.region == r)) []
  sortBy (fun a b => decide (a.page < b.page) || (a.page == b.page && decide (a.region ≤ b.region))) all

/-- The bytes of a ring entry (R351). -/
def FRange.bytes (r : FRange) (last : Bool) : List Byte :=
  leBytes 8 r.page ++ leBytes 4 r.count ++ leBytes 2 r.region ++ leBytes 1 r.kinds ++ leBytes 1 0 ++ leBytes 4 r.batch ++
    leBytes 2 r.merged ++ leBytes 2 last.toNat ++ leBytes 8 0

/-- One range written to the ring. -/
def putRange (s : State) (r : FRange) (last : Bool) : State :=
  let i := s.xl.frpi % 2 ^ s.xl.frl
  { sysWrites s (s.xl.frb + 32 * i) (r.bytes last) with
    xl := { s.xl with frpi := (s.xl.frpi + 1) % 2 ^ 32, ranges := s.xl.ranges ++ [{ r with at_ := i }] } }

/-- Has the fault ring room for `n` ranges: entries that no unresolved range holds (R350)? -/
def ringRoom (s : State) (n : Nat) : Bool :=
  let size := 2 ^ s.xl.frl
  s.xl.frl != 0 && decide (n ≤ size) &&
    !(s.xl.ranges.any fun r => (List.range n).any fun i => r.at_ == (s.xl.frpi + i) % size)

/-- The oldest closed batch is written to the fault ring when the ring has room for it and its link does not retrain (R350,
R393). -/
def execBatchDeliver (s : State) : Res :=
  .next (match s.xl.closed with
    | [] => s
    | b :: rest =>
      let rs := rangesOf s.xl.nextBatch b
      if !ringRoom s rs.length || linkHeld s .h ⟨.sys, s.xl.frb⟩ then s
      else
        let s := { s with xl := { s.xl with closed := rest, nextBatch := (s.xl.nextBatch + 1) % 2 ^ 32 } }
        rs.zipIdx.foldl (fun s x => putRange s x.1 (x.2 + 1 == rs.length)) s)

/-- Does an address lie in one of some ranges? -/
def inRanges (rs : List FRange) (va : Nat) : Bool := rs.any fun r => r.has (pageOf va)

/-- What a batch's ranges, mapped and failed, do to a fragment that waits on them: a lane in a failed one is PGNP, else it issues
again (R352). -/
def resolveFrag (good bad : List FRange) (f : Frag) : Frag :=
  match f.park with
  | .batch _ _ info ls =>
    (match ls.filter fun l => inRanges bad l.2 with
     | [] => if ls.any fun l => inRanges good l.2 then { f with park := .none } else f
     | l :: rest =>
       { f with park := .failed .pgnp l.2 (maskOf (((l :: rest).map fun x => x.1).filter fun i => decide (i < 32))) info })
  | .storeBatch id ls =>
    if ls.any fun l => inRanges bad l.2 then { f with park := .none }
    else if ls.any fun l => inRanges good l.2 then { f with park := .storeBatch id [] }
    else f
  | _ => f

/-- Does a fragment of the crew wait on some of the ranges with a store batch? -/
def storeWaits (rs : List FRange) (c : Crew) : Bool :=
  c.all.any fun f => match f.park with
    | .storeBatch _ ls => ls.any fun l => inRanges rs l.2
    | _ => false

/-- The recorded stores of crew `cid` are issued again from their records, in order (R352). -/
def reissueStores (s : State) (cid : Nat) : State :=
  match focusCid s cid with
  | none => s
  | some s =>
    let mine := (coreAt s s.cur.pair).sfq.filter fun x => x.cid == cid
    let s := modCore s s.cur.pair fun c => { c with sfq := c.sfq.filter fun x => x.cid != cid }
    let s := modCur s fun c => { c with
      stores := mine.map (fun x => x.store) ++ c.stores, imprec := c.imprec.filter fun e => !e.isStore }
    translateAll s

/-- The ranges of a batch are resolved, mapped and failed; a failed pixel store aborts its launch (R269, R352). -/
def resolveRanges (s : State) (good bad : List FRange) : State :=
  let again := ((allCrews s).filter fun c => storeWaits good c && !storeWaits bad c).map fun c => c.cid
  let upd (c : Crew) : Crew :=
    let c' := c.mapFrags (resolveFrag good bad)
    if storeWaits bad c then { c' with imprec := c'.imprec.map fun e => if e.isStore then { e with bad := true } else e }
    else c'
  let s := { s with cur := upd s.cur, crews := s.crews.map upd }
  let s := again.foldl reissueStores s
  let copy (x : Copy) : Copy := match x.waits.find? (inRanges bad) with
    | some va => { x with waits := [], pre := some (1, va) }
    | none => { x with waits := x.waits.filter fun v => !inRanges good v }
  let bucket (b : Bucket) : Bucket := { b with waits := b.waits.filter fun v => !inRanges (good ++ bad) v }
  let lost := (s.renders.filter fun x => x.flight.any fun b => b.waits.any (inRanges bad)).map fun x => x.lid
  let s := { s with copies := s.copies.map copy, renders := s.renders.map fun x => { x with flight := x.flight.map bucket } }
  lost.foldl abortLaunch s

/-- `FRES`: every range of batch `b` is resolved by its status in the ring (R352, log 29 DEDUCED unsafe). -/
def execFresResolve (b : BitVec 32) (s : State) : Res :=
  let mine := s.xl.ranges.filter fun r => r.batch == b.toNat
  if linkHeld s .h ⟨.sys, s.xl.frb⟩ then .next s else
  let s := { s with xl := { s.xl with ranges := s.xl.ranges.filter fun r => r.batch != b.toNat } }
  let mapped (r : FRange) : Bool := s.sys.read (s.xl.frb + 32 * r.at_ + 0x0F) == 0
  .next (resolveRanges s (mine.filter mapped) (mine.filter fun r => !mapped r))

/-! ## Checkpoints (R360, R361) -/

/-- Bytes of a dirty map (R419). -/
def mapBytes : Nat := 368640

/-- The least granule whose bit is set in the map that is being streamed. -/
def nextDirty (s : State) : Option Nat :=
  let base := dirtyMap s (!s.xl.sel)
  if base = 0 then none
  else match s.loc.range base mapBytes with
    | [] => none
    | c :: _ => ((List.range 8).find? fun i => c.2.getLsbD i).map fun i => 8 * (c.1 - base) + i

/-- `CKCT.GO`: a new switch falls due, or a stopped stream goes on (R360, R361). -/
def execCkctGo (s : State) : Res :=
  .next (if s.xl.ckBsy then s
    else if s.xl.ckErr then { s with xl := { s.xl with ckErr := false, ckBsy := true } }
    else { s with xl := { s.xl with ckBsy := true, ckArmed := true } })

/-- The device flips `SEL` and streams the other map from now on (R360). -/
def execCheckpointSwitch (s : State) : Res :=
  .next (if s.xl.ckArmed then { s with xl := { s.xl with ckArmed := false, sel := !s.xl.sel, ckCount := 0 } } else s)

/-- The next granule's copy is acknowledged and its bit cleared, or its destination fails; the stream ends with its last
bit (R360, R361). -/
def execCheckpointStreamAck (bad : Bool) (s : State) : Res :=
  .next (if !streaming s then s
    else match nextDirty s with
      | none => { s with xl := { s.xl with ckBsy := false } }
      | some g =>
        if s.xl.ckErr || granuleHeld s g then s
        else if bad then { s with xl := { s.xl with ckErr := true, ckBsy := false } }
        else
          let s := copyOut s g
          if (nextDirty s).isNone then { s with xl := { s.xl with ckBsy := false } } else s)

end Sys2Proof.Machine
end

