-- ==== Sys2Proof/Machine/Launch.lean ====
section
/-! DEFINITION. Launches: records, host rings, `lnch`, the pending-launch queues and pool, start, commit and completion, and the
Beacon (R278 to R292, R357, R368). -/

namespace Sys2Proof.Machine

open Sys2Proof

/-! ## Records (R284, R286) -/

/-- A record from its 64 bytes. -/
def LRec.ofBytes (bs : List Byte) : LRec :=
  { tag := recNat bs 0 2, lfl := recNat bs 2 2, regn := recNat bs 4 4, entry := recNat bs 8 8, param := recNat bs 0x10 8,
    blks := recNat bs 0x18 4, nlan := recNat bs 0x1C 4, res := recNat bs 0x20 8, cca := recNat bs 0x28 8,
    qtb := recNat bs 0x30 8, last := recNat bs 0x38 8 }

def LRec.kind (r : LRec) : Nat := r.lfl % 4
def LRec.render (r : LRec) : Bool := r.kind == 1
def LRec.frm (r : LRec) : Bool := r.lfl / 4 % 2 == 1
def LRec.ser (r : LRec) : Bool := r.lfl / 8 % 2 == 1
def LRec.dep (r : LRec) : Nat := r.lfl / 16 % 16
def LRec.aff (r : LRec) : Nat := r.lfl / 256 % 16
def LRec.crews (r : LRec) : Nat := r.res % 32 + 1
def LRec.vn (r : LRec) : Nat := 8 * (r.res / 2 ^ 5 % 16 + 1)
def LRec.til (r : LRec) : Nat := r.res / 2 ^ 9 % 64
def LRec.scr (r : LRec) : Nat := r.res / 2 ^ 15 % 2 ^ 11
def LRec.tsw (r : LRec) : Nat := r.res / 2 ^ 26 % 64
def LRec.prm (r : LRec) : Nat := r.res / 2 ^ 32 % 2 ^ 10
def LRec.dln (r : LRec) : Nat := r.res / 2 ^ 48
def LRec.qoff (r : LRec) : Nat := r.qtb % 2 ^ 18
def LRec.qen (r : LRec) : Bool := !r.render && r.qtb / 2 ^ 18 % 2 == 1

/-- Is an address misaligned, or beyond 57 bits? -/
def badAddr (a n : Nat) : Bool := a % n != 0 || decide (2 ^ 57 ≤ a)

/-- The first check of R286 that a record fails, after the address of a `lnch`; `regOk` says whether the issuer may launch
into its region. -/
def LRec.bad (r : LRec) (device regOk : Bool) : Option Nat :=
  let rsvd := r.lfl / 2 ^ 12 != 0 || r.res / 2 ^ 42 % 64 != 0 || decide (2 ≤ r.kind) || r.dep != 0 ||
    (if r.render then r.nlan != 0 else r.last != 0 || r.qtb / 2 ^ 19 != 0)
  let size := r.blks == 0 || (r.render && decide (2 ^ 24 < r.blks)) || decide (32 < r.til) || decide (1024 < r.scr) ||
    decide (32 < r.tsw) || decide (512 < r.prm)
  let align := badAddr r.entry 4 || badAddr r.cca 8 ||
    (if r.render then badAddr r.param 64 || badAddr r.qtb 32 || badAddr r.last 4
     else badAddr r.param 8 || (r.qen && r.qoff % 64 != 0))
  if rsvd then some 0x02 else if size then some 0x03 else if align then some 0x04
  else if r.qen && decide (256 * r.scr < r.qoff + 64 * r.crews) then some 0x05
  else if !regOk then some 0x06
  else if device && r.render then some 0x07
  else none

/-! ## Pool shares (R291, R328) -/

/-- An effective region, by number (R317). -/
def effRegion? (s : State) (r : Nat) : Option Region := s.rg.eff.find? fun x => x.num == r

/-- Has a region a free entry of its share? -/
def poolFree (s : State) (r : Region) : Bool := decide (kgetD s.rg.share r.instL 0 < r.psh)

/-- An entry taken, or given back to the instance it was taken from. -/
def takePool (s : State) (r : Region) : State := { s with rg := { s.rg with share := kmod s.rg.share r.instL (· + 1) } }
def freePool (s : State) (lid : Nat) : State :=
  match launchAt? s lid with
  | none => s
  | some l =>
    match l.pool with
    | none => s
    | some i =>
      let s := modLaunch s lid fun x => { x with pool := none }
      { s with rg := { s.rg with share := kmod s.rg.share i (· - 1) } }

/-! ## Deadlines (R283, R323) -/

/-- The deadline of launch `lid` has come within one pulse, or has passed: lower regions are pre-empted, and a miss is
reported once. -/
def testDeadline (s : State) (lid : Nat) : State :=
  match launchAt? s lid with
  | none => s
  | some l => match l.deadline with
    | none => s
    | some d =>
      let n := s.ctr.bpc.toNat
      let pri := match regionAt? s l.lr.regn with | some r => r.pri | none => 0
      let s :=
        if n + 1 < d || s.rg.preDeadline.any (fun x => x.1 == lid) then s
        else
          let low := (s.rg.eff.filter fun r => decide (r.pri < pri)).map fun r => r.num
          let new := (low.map fun r => (r, 1)).filter fun x => !s.rg.pre.contains x
          settleRegions { s with rg := { s.rg with pre := s.rg.pre ++ new, preDeadline := s.rg.preDeadline ++ [(lid, low)] } }
      if d ≤ n && !l.missed then report (modLaunch s lid fun x => { x with missed := true }) "DEADLINE" [lid, l.lr.regn] else s

/-- A launch has ended: reason 1 goes from every region that no other launch's deadline set it for. -/
def dropDeadline (s : State) (lid : Nat) : State :=
  let left := s.rg.preDeadline.filter fun x => x.1 != lid
  if left.length == s.rg.preDeadline.length then s
  else
    let keep (x : Nat × Nat) : Bool := x.2 != 1 || left.any fun y => y.2.contains x.1
    settleRegions { s with rg := { s.rg with preDeadline := left, pre := s.rg.pre.filter keep } }

/-- A launch enters the device. -/
def newLaunch (s : State) (r : LRec) (depth : Nat) (ring parent : Option Nat) (st : LState) : Nat × State :=
  let n := fresh s
  let reg := effRegion? n.2 r.regn
  let s := match reg with | some x => takePool n.2 x | none => n.2
  let l : Launch :=
    { lid := n.1, lr := r, depth := depth, ring := ring, parent := parent, st := st, entered := s.now, placed := 0,
      retiredBlocks := 0, params := [], deadline := if r.dln = 0 then none else some (s.ctr.bpc.toNat + r.dln), missed := false,
      group := n.1, irrev := false, replays := 0, again := false, failed := false, pool := reg.map fun x => x.instL }
  (n.1, testDeadline { s with launches := s.launches ++ [l] } n.1)

/-! ## Host rings (R279 to R282) -/

/-- The log of a ring's size (R279). -/
def Ring.log (r : Ring) : Nat := if 4 ≤ r.log2n && r.log2n ≤ 16 then r.log2n else 4

/-- A ring changed. -/
def modRing (s : State) (n : Nat) (f : Ring → Ring) : State :=
  { s with rings := s.rings.setIfInBounds n (f (s.rings.getD n Ring.zero)) }

/-- An overrun (R281). -/
def ringOver (s : State) (n : Nat) : State :=
  report (modRing s n fun r => { r with st := 2, lgood := (r.rptr + 2 ^ 32 - 1) % 2 ^ 32 }) "QOVR" [n]

/-- A record that cannot be read stops its ring (R281). -/
def ringStop (s : State) (n at_ why : Nat) : State :=
  report (modRing s n fun r => { r with st := 3, lgood := (r.rptr + 2 ^ 32 - 1) % 2 ^ 32 }) "RING" [n, at_, why]

/-- One more on the counter at `CCA` (R287). The add is not made, and is reported, when its page or line does not allow it; an
uncorrectable line is counted (R370). -/
def addCounter (s : State) (cca : Nat) (bad : Bool) : State :=
  if cca = 0 then s
  else match xlateFresh s .write cca with
  | .ok pa _ =>
    if bad || badAt s pa then report (countUncorr s [pa]) "CCA" [cca, 2]
    else paWrites s pa (leBytes 8 ((paNat s pa 8 + 1) % 2 ^ 64))
  | _ => report s "CCA" [cca, 1]

/-- Must the add at `CCA` wait, for a page that migrates or a link (R287, R345, R393)? -/
def counterWaits (s : State) (cca : Nat) : Bool := cca != 0 && mustHold s .h cca 8

/-- A malformed record that has been taken is reported, and its counter advanced; whether the counter's line fails is open (R286,
R287). -/
def refuseRecord (s : State) (n : Nat) (r : LRec) (code : Nat) : State :=
  let s := report s "LAUNCH" [code, n, r.regn]
  if badAddr r.cca 8 then s
  else
    let c := choose s 2
    addCounter c.2 r.cca (c.1 == 1)

/-- The name under which ring `n` waits for a migration. -/
def ringStall (n : Nat) : Nat := 2 ^ 64 + n

/-- The next record of a ring that runs: taken, waited for, or refused (R280, R281, R286). -/
def consume (s : State) (n : Nat) (bad : Bool) : State :=
  let r := s.rings.getD n Ring.zero
  let size := 2 ^ r.log
  let d := (r.wptr + 2 ^ 32 - r.rptr) % 2 ^ 32
  let at_ := r.rbase + 64 * (r.rptr % size)
  if !r.en || r.st != 1 || s.dev.mode != .service || s.dev.wsBsy || d = 0 || stalled s (ringStall n) then s
  else if size < d then ringOver s n
  else match xlateFresh s .read at_ with
  | .migrating => stall s (ringStall n)
  | .absent .. => ringStop s n at_ 1
  | .denied => ringStop s n at_ 2
  | .ok pa _ =>
    if linkHeld s .h pa then s
    else if bad || badAt s pa then ringStop (countUncorr s [pa]) n at_ 3
    else
      let rec_ := LRec.ofBytes (paBytes s pa 64)
      let e := r.rptr / size % 65535 + 1
      if rec_.tag = 0 then s
      else if rec_.tag != e then ringOver s n
      else if r.gate && r.credits == 0 then s
      else
        let reg := effRegion? s rec_.regn
        if reg.any fun g => !poolFree s g then s
        else match rec_.bad false reg.isSome with
        | none => (newLaunch (took s n rec_) rec_ 0 (some n) none .pool).2
        | some code => if !badAddr rec_.cca 8 && counterWaits s rec_.cca then s else refuseRecord (took s n rec_) n rec_ code
where
  /-- the record is taken from its ring -/
  took (s : State) (n : Nat) (rec_ : LRec) : State :=
    modRing s n fun r => { r with rptr := (r.rptr + 1) % 2 ^ 32,
                                  credits := if r.gate && rec_.frm then r.credits - 1 else r.credits }

/-- A ring takes its next record, in service mode while no weight store is loading (R280, log 32 DEDUCED unsafe). -/
def execRingConsume (n : Nat) (bad : Bool) (s : State) : Res := .next (consume s n bad)

/-- A write of `RCFG`: its size only while the ring is off (R279, R386). -/
def writeRcfg (s : State) (n : Nat) (v : BitVec 64) : State :=
  let w := v.toNat
  let en := w / 32 % 2 == 1
  let gate := w / 64 % 2 == 1
  if s.dev.mode == .lightship then modRing s n fun r => { r with log2n := if r.en then r.log2n else w % 32, gate := gate }
  else modRing s n fun r => { r with
    log2n := if r.en then r.log2n else w % 32, gate := gate, en := en,
    credits := if en && !r.en then 0 else r.credits,
    st := if en && !r.en then 1 else if !en && r.en then 3 else r.st }

def execRingEnable (n : Nat) (v : BitVec 64) (s : State) : Res := .next (if v.getLsbD 5 then writeRcfg s n v else s)
def execRingDisable (n : Nat) (v : BitVec 64) (s : State) : Res := .next (if v.getLsbD 5 then s else writeRcfg s n v)

/-- The host writes `ST` 01 (R279). -/
def resumeRing (s : State) (n : Nat) : State :=
  modRing s n fun r => if r.en && (r.st == 2 || r.st == 3) then { r with st := 1 } else r

def execRingResume (n : Nat) (s : State) : Res := .next (resumeRing s n)

/-! ## The Beacon (R282, R322, R368) -/

/-- Cycles in 1 ms. -/
def msCycles : Nat := 1400000

/-- One credit for every gated ring that is on; one too many is dropped and counted. -/
def pulseRings (s : State) : State :=
  (List.range 64).foldl (fun s n =>
    let r := s.rings.getD n Ring.zero
    if !(r.gate && r.en) then s
    else if r.credits < 15 then modRing s n fun r => { r with credits := r.credits + 1 }
    else { s with ctr := { s.ctr with bdrop := min (2 ^ 32 - 1) (s.ctr.bdrop + 1) } }) s

/-- Budgets of instances that reload at a pulse. -/
def pulseBudgets (s : State) : State :=
  let hit := s.rg.eff.filter fun r => r.bref && r.instS == r.num
  let s := hit.foldl (fun s r => { s with rg := { s.rg with
    budget := kset s.rg.budget r.num (r.budg * 65536 : Int), spent := s.rg.spent.filter fun i => i != r.num } }) s
  settleRegions s

/-- An accepted pulse: the count, credits, budgets, deadlines, in this order. One within 1 ms of the last is only counted. -/
def pulse (s : State) : State :=
  if !s.ctr.bEn then s
  else if (match s.ctr.bAge with | some n => decide (n < msCycles) | none => false) then
    { s with ctr := { s.ctr with bglt := min (2 ^ 32 - 1) (s.ctr.bglt + 1) } }
  else
    let s := { s with ctr := { s.ctr with bpc := s.ctr.bpc + 1, bAge := some 0 } }
    let s := pulseBudgets (pulseRings s)
    (s.launches.map fun l => l.lid).foldl testDeadline s

def execBeaconPulse (s : State) : Res := .next (pulse s)

/-! ## `lnch` (R288 to R292) -/

/-- Is region `r` region `a` or below it? -/
def descends (s : State) (a : Nat) : Nat → Nat → Bool
  | 0, _ => false
  | n + 1, r => r == a || match effRegion? s r with
    | some x => (match x.par with | some q => descends s a n q | none => false)
    | none => false

/-- Launches that wait for a place in pair `p`'s pending-launch queue, oldest first. -/
def queueWaits (s : State) (p : Nat) : List Launch :=
  s.launches.filter fun l => l.st == .queued p && !(coreAt s p).pendingLaunch.contains l.lid

/-- A record that passes its checks: the status, or a place in the queue, or a wait for one (R289). -/
def lnchGo (s : State) (d : CReg) (r : LRec) : State :=
  let up := launchAt? s s.cur.launch
  let depth := (match up with | some l => l.depth | none => 0) + 1
  match effRegion? s r.regn with
  | none => s
  | some g =>
    let limit := if g.dlim = 0 then 8 else g.dlim
    if limit < depth then complete (setC s d 1)
    else if !poolFree s g then complete (setC s d 2)
    else
      let p := s.cur.pair
      let full := decide (4 ≤ (coreAt s p).pendingLaunch.length) || !(queueWaits s p).isEmpty
      let r := { r with lfl := r.lfl + 16 * depth }
      let n := newLaunch (releaseAt s p .device) r depth none (up.map fun l => l.lid) (.queued p)
      let s := n.2
      if full then modFr (complete s) fun f => { f with park := .lnch d.val s.now n.1, word := s.ir }
      else
        let s := modCore s p fun c => { c with pendingLaunch := c.pendingLaunch ++ [n.1] }
        complete (setC s d (lnchStatus s n.1))

/-- The record at an address (R286, R289). -/
def lnchAt (s : State) (d : CReg) (a : Nat) : State :=
  if 2 ^ 57 ≤ a then raise s { cause := .pgperm, addr := a }
  else if a % 64 != 0 then raise s { cause := .lnchf, addr := a, info := 0x01 }
  else
    let t := translateAt s a false
    match t.1 with
    | .trap x => raise t.2 x
    | .wait => parkAs t.2 .migrate
    | .ok pa => if linkHeld s (corePort s.cur.pair) pa then s else
      let s := t.2
      let s := match pa.sp with | .loc => noteRead s s.cur.launch pa.a | _ => s
      let bs := match pa.sp with
        | .loc => (List.range 64).map fun i => readAt s s.cur.pair .device (pa.a + i)
        | _ => paBytes s pa 64
      let r := LRec.ofBytes bs
      let ok := match effRegion? s r.regn with
        | some g => !heldRegion s g && descends s s.cur.region 16 g.num
        | none => false
      match r.bad true ok with
      | some code => raise s { cause := .lnchf, addr := a, info := code }
      | none => lnchGo s d r

def execLnch (d a : CReg) (s : State) : Res :=
  run (.lnch d a) s fun _ s => needFullFor s d fun s => lnchAt s d (getC s a).toNat

/-- The fragment that waited with launch `lid` goes on, in its core or in its save record (R292). -/
def lnchWakes (s : State) (lid : Nat) : State :=
  let mine (f : Frag) : Bool := match f.park with | .lnch _ _ l => l == lid | _ => false
  match (allCrews s).find? fun c => c.all.any mine with
  | some c =>
    let st := stampNow s
    let v := lnchStatus st.2 lid
    modCrew st.2 c.cid fun c =>
      let cd := (c.all.find? mine).bind fun f => match f.park with | .lnch d _ _ => some d | _ => none
      let c := match cd with | some d => if d < 63 then { c with c := c.c.setIfInBounds d v } else c | none => c
      c.mapFrags fun f => if mine f then { f with park := .none, stamp := st.1 } else f
  | none =>
    let v := lnchStatus s lid
    let wake (k : SavedCrew) : SavedCrew :=
      match k.kept.findSome? fun x => match x.2 with | .lnch d _ l => if l == lid then some d else none | _ => none with
      | none => k
      | some d => { k with
          kept := k.kept.filter (fun x => match x.2 with | .lnch _ _ l => l != lid | _ => true),
          regs := if d < 63 then k.regs ++ [(d, v)] else k.regs, met := true,
          ready := if k.ready.isSome then k.ready
            else if k.reason != 3 || crewStopped s k.region then none else some s.now }
    { s with saved := s.saved.map wake }

/-- The oldest record of a pending-launch queue moves into the pool, and the longest waiting one takes its place (R291). -/
def transfer (s : State) (p : Nat) : State :=
  match (coreAt s p).pendingLaunch with
  | [] => s
  | lid :: rest =>
    let s := modCore s p fun c => { c with pendingLaunch := rest }
    let s := modLaunch s lid fun l => { l with st := .pool, entered := s.now }
    match queueWaits s p with
    | [] => s
    | w :: _ => lnchWakes (modCore s p fun c => { c with pendingLaunch := c.pendingLaunch ++ [w.lid] }) w.lid

def execLaunchTransfer (p : Nat) (s : State) : Res := .next (transfer s p)

/-! ## Start (R285, R287, R354) -/

/-- May a launch start: no load of a weight store waits, and a serial record's earlier ones have completed (R287, R388)? -/
def mayStart (s : State) (l : Launch) : Bool :=
  l.st == .pool && !l.failed && !s.dev.wsBsy &&
    !(l.lr.ser && l.ring.isSome && s.launches.any fun x => x.ring == l.ring && decide (x.lid < l.lid))

/-- The bytes of a launch's parameters that its pages let be read, by distance from `PARAM` (R285, log 14 DEDUCED unsafe). -/
def paramCopy (s : State) (lid : Nat) : List (Nat × Byte) × State :=
  match launchAt? s lid with
  | none => ([], s)
  | some l =>
    (List.range (8 * l.lr.prm)).foldl (fun acc i => match xlateFresh acc.2 .read (l.lr.param + i) with
      | .ok pa _ => (acc.1 ++ [(i, paRead acc.2 pa)], match pa.sp with | .loc => noteRead acc.2 lid pa.a | _ => acc.2)
      | _ => acc) ([], s)

/-- Bytes written back where a launch's saved parameter copy belongs (R285, R359, log 14 DEDUCED unsafe). -/
def restoreParams (s : State) (l : Launch) : State :=
  l.params.foldl (fun s x =>
    match xlateFresh s .read (l.lr.param + x.1) with
    | .ok pa _ => paWrite s pa x.2
    | _ => s) s

/-- A launch starts, or starts again with its parameters as they were, with a commit group of its own; in a region whose `SHP` is 0 it is irrevocable (R336, R354, R358). -/
def startLaunch (s : State) (lid : Nat) : State :=
  match launchAt? s lid with
  | none => s
  | some l =>
    let irrev := match regionAt? s l.lr.regn with | some r => r.shp == 0 | none => true
    let s := if l.again then restoreParams s l else s
    let s := modLaunch s lid fun x => { x with st := .running, irrev := irrev, group := lid }
    let s := { s with xl := { s.xl with
      groups := (s.xl.groups.filter fun g => g.gid != lid) ++ [⟨lid, [], false, irrev⟩] } }
    let r := paramCopy s lid
    modLaunch r.2 lid fun x => { x with params := if x.again then x.params else r.1 }

/-- Is a region free to run: neither pre-empted nor held? -/
def regionOpen (s : State) (r : Nat) : Bool := match regionAt? s r with | some x => !stopped s x | none => true

/-- Does launch `a` start before launch `b`: by priority, entry to the placement queue, and region (R287, R329)? -/
def startsFirst (s : State) (a b : Launch) : Bool :=
  let pri (l : Launch) : Nat := match regionAt? s l.lr.regn with | some r => r.pri | none => 0
  if pri a != pri b then decide (pri b < pri a)
  else if a.entered != b.entered then decide (a.entered < b.entered)
  else if a.lr.regn != b.lr.regn then decide (a.lr.regn < b.lr.regn)
  else decide (a.lid < b.lid)

/-- Does a launch's turn to start come now: no other that may start ranks before it (R287, R329)? -/
def startTurn (s : State) (l : Launch) : Bool :=
  mayStart s l && regionOpen s l.lr.regn &&
    !(s.launches.any fun x => x.lid != l.lid && mayStart s x && regionOpen s x.lr.regn && startsFirst s x l)

/-- Must a launch's start, its first or another, wait for its parameters: for a page that migrates, a link, or, to write the saved copy
back, a page that is absent (R285, R345, R359, R393, log 14 DEDUCED unsafe)? -/
def paramWaits (s : State) (l : Launch) : Bool :=
  if l.again then mustHold s .h l.lr.param (8 * l.lr.prm) || l.params.any fun x => (vaPA? s (l.lr.param + x.1)).isNone
  else mustWait s .h l.lr.param (8 * l.lr.prm)

def execLaunchStart (id : Nat) (s : State) : Res :=
  .next (match launchAt? s id with
    | some l => if startTurn s l && !l.lr.render && !paramWaits s l then startLaunch s id else s
    | none => s)

/-! ## Completion and commit (R287, R357) -/

/-- The first two conditions of completion: every block retired, every store performed. -/
def launchDone (s : State) (l : Launch) : Bool :=
  l.st == .running &&
    (if l.lr.render then s.renders.all fun r => r.lid != l.lid || r.left == 0 else l.retiredBlocks == l.lr.blks) &&
    !(s.blocks.any fun b => b.launch == l.lid) && !(allCrews s).any (fun c => c.launch == l.lid) &&
    !(s.storeQ.any fun x => x.launch == l.lid) && !(s.atoms.any fun x => x.launch == l.lid) &&
    !(s.copies.any fun x => x.launch == l.lid) && !(s.barOps.any fun x => x.launch == l.lid) &&
    !(s.combiner.any fun e => e.ops.any fun x => x.launch == l.lid)

/-- Every write in the device's L1 memories goes home: the release of a launch's completion (R220). -/
def releaseAll (s : State) : State := s.cores.foldl (fun s x => writeBackAll s x.1 fun _ => true) s

/-- A launch ends: its counter advances, its deadline, pool entry and group go (R283, R287, R291). -/
def finishLaunch (s : State) (l : Launch) (bad : Bool) : State :=
  let s := addCounter (releaseAll s) l.lr.cca bad
  let s := dropDeadline (freePool (progressRegion s l.lr.regn) l.lid) l.lid
  let s := { s with launches := s.launches.filter (fun x => x.lid != l.lid), renders := s.renders.filter fun r => r.lid != l.lid }
  if s.launches.any fun x => x.group == l.group && x.st != .pool then s
  else
    let groups := (s.xl.groups.filter fun g => g.gid != l.group).map fun g =>
      { g with deps := g.deps.filter fun d => d != l.group }
    { s with xl := { s.xl with groups := groups } }

/-- Has a group that another depends on committed? One that is discarded takes its dependants along (R357 to R359). -/
def depMet (s : State) (d : Nat) : Bool := match groupAt? s d with | none => true | some g => g.irrev

/-- Are the dependencies of a launch's group met? -/
def depsMet (s : State) (l : Launch) : Bool := (groupAt? s l.group).all fun g => g.deps.all (depMet s)

/-- Completion outside a commit: of an irrevocable launch, whose dependencies remain, or of one that failed (R287, R325, R358). -/
def execLaunchComplete (id : Nat) (bad : Bool) (s : State) : Res :=
  .next (match launchAt? s id with
    | none => s
    | some l =>
      if (l.failed || (launchDone s l && l.irrev && depsMet s l)) && !counterWaits s l.lr.cca && !linesHeld s (fun _ => true) then
        finishLaunch s l bad else s)

/-- A group commits in one step: its entries, their dirty bits, its members' counters (R357). Whether a counter's line fails
is open. -/
def commitGroup (s : State) (g : Nat) : State :=
  match groupAt? s g with
  | none => s
  | some x =>
    let ms := s.launches.filter fun l => l.group == g && !l.failed
    if x.irrev || ms.isEmpty || !(ms.all (launchDone s)) || !(x.deps.all (depMet s)) || (ms.any fun l => counterWaits s l.lr.cca) ||
        linesHeld s (fun _ => true) || groupHeld s g then s
    else ms.foldl (fun s l =>
      let r := choose s 2
      finishLaunch r.2 l (r.1 == 1)) (commitShadows (releaseAll s) g)

def execGroupCommit (g : Nat) (s : State) : Res := .next (commitGroup s g)

/-- Committed entry `i` of die `d`'s shadow map is copied back (R355). -/
def execShadowCopyBack (d i : Nat) (s : State) : Res :=
  .next (match (s.xl.shadows.filter fun e => e.committed && shadowDie e.granule == d)[i]? with
    | some e => if copyBackHeld s e then s else copyBack s e
    | none => s)

end Sys2Proof.Machine
end

