-- ==== Sys2Proof/Machine/Place.lean ====
section
/-! DEFINITION. Placement of blocks, swap-in and swap-out (R99, R112, R116, R285, R323, R327 to R332). -/

namespace Sys2Proof.Machine

open Sys2Proof

/-! ## Room on a core (R17, R112, R154, R330) -/

/-- What a candidate takes of a core. -/
structure Need where
  slots : Nat
  units : Nat
  tiles : Nat
  /-- a block that is not on the core yet, with its scratchpad and window -/
  fresh : Bool
  scratch : Nat
  window : Nat
  deriving DecidableEq, Repr, Inhabited

/-- The blocks that hold scratchpad and window on a core once some crews have left it. -/
def blocksLeft (s : State) (p : Nat) (gone : List Nat) : List Block :=
  s.blocks.filter fun b => b.pair == some p &&
    ((residentOf s b.bid).isEmpty || (residentOf s b.bid).any fun c => !gone.contains c.cid)

/-- The lowest base of a free window of `n` bytes beside some blocks' windows (R154, log 68 DESIGN CHOICE unsafe). -/
def freeBase (bs : List Block) (n : Nat) : Option Nat :=
  if n = 0 then some 0
  else ((List.range 32).map fun i => 65536 * i).find? fun a =>
    decide (a + n ≤ 0x200000) && bs.all fun b => b.winSize == 0 || decide (a + n ≤ b.winBase) || decide (b.winBase + b.winSize ≤ a)

/-- Is a pair in service and taking work (R389)? -/
def pairOpen (s : State) (p : Nat) : Bool :=
  let c := coreAt s p
  c.inService && c.remapping == 0 && s.dev.diesUp.contains (dieOf p)

/-- Does a candidate fit on a core once some crews have left it? A pool with a waiting `grow` gives nothing (R116). -/
def fits (s : State) (p : Nat) (n : Need) (gone : List Nat) : Bool :=
  let c := coreAt s p
  let out := (crewsOn s p).filter fun k => gone.contains k.cid
  let bs := blocksLeft s p gone
  pairOpen s p && decide ((crewsOn s p).length + n.slots ≤ 64 + out.length) &&
    decide (n.units ≤ c.vfree + (out.map fun k => k.vn / 8).sum) && decide (n.tiles ≤ c.tfree + (out.map fun k => k.tn).sum) &&
    (n.units == 0 || c.growV.isEmpty) && (n.tiles == 0 || c.growT.isEmpty) &&
    (!n.fresh || (decide (bs.length < 16) && decide ((bs.map fun b => b.scratchSize).sum + n.scratch ≤ 0x40000) &&
      (freeBase bs n.window).isSome))

/-- Does a candidate fit on an empty core? -/
def fitsEmpty (n : Need) : Bool :=
  decide (n.slots ≤ 64) && decide (n.units ≤ 512) && decide (n.tiles ≤ 32) && decide (n.scratch ≤ 0x40000) &&
    decide (n.window ≤ 0x200000)

/-! ## Candidates and their order (R329, R331) -/

/-- The next block of a launch, a crew of the swap-in list, or a bucket's next block of a render launch: of its grid, or,
for none, its resolve block (R259, R270, R330). -/
inductive Cand where
  | block (l : Launch)
  | crew (k : SavedCrew)
  | render (l : Launch) (die bix : Nat) (grid : Option Nat) (crews : Nat)
  deriving DecidableEq, Repr, Inhabited

def Cand.region : Cand → Nat
  | .block l => l.lr.regn
  | .crew k => k.region
  | .render l .. => l.lr.regn

def Cand.pri (s : State) (c : Cand) : Nat := match regionAt? s c.region with | some r => r.pri | none => 0

/-- The cycle of entry, and the last place in the order; a bucket's is its index. -/
def Cand.entry : Cand → Nat
  | .block l => l.entered
  | .crew k => k.ready.getD 0
  | .render l .. => l.entered
def Cand.last : Cand → Nat
  | .block l => l.placed
  | .crew k => k.slot
  | .render _ _ b _ _ => b
def Cand.isCrew : Cand → Bool
  | .crew _ => true
  | _ => false

/-- Does one candidate rank before another? -/
def Cand.before (s : State) (a b : Cand) : Bool :=
  let pa := a.pri s
  let pb := b.pri s
  if pa != pb then decide (pb < pa)
  else if a.isCrew != b.isCrew then a.isCrew
  else if a.entry != b.entry then decide (a.entry < b.entry)
  else if a.region != b.region then decide (a.region < b.region)
  else decide (a.last ≤ b.last)

/-- Has a bucket been diced, and every grid of it sampled (R269)? -/
def Bucket.sampled (b : Bucket) : Bool := b.pieces.isEmpty && b.refs.isEmpty && b.grids.isEmpty

/-- The blocks that buckets in flight wait for, one for each (R259, R270). -/
def renderCands (s : State) : List Cand :=
  s.renders.flatMap fun r => match launchAt? s r.lid with
    | none => []
    | some l =>
      if l.failed || (effRegion? s l.lr.regn).isNone || !regionOpen s l.lr.regn then []
      else r.flight.filterMap fun b => match b.grids.find? fun g => g.st == .diced with
        | some g => some (.render l b.die b.bix (some g.num) g.crews)
        | none => if b.sampled && b.resolving.isNone && (Cam.ofBytes r.cam).rcr then some (.render l b.die b.bix none 32)
          else none

/-- Every candidate, the first in rank first; a launch that may start is one with its first block (R287, R329, log 50 DEDUCED
unsafe). -/
def candidates (s : State) : List Cand :=
  let bs := (s.launches.filter fun l => (l.st == .running || mayStart s l) && !l.failed && !l.lr.render && decide (l.placed < l.lr.blks) &&
    (effRegion? s l.lr.regn).isSome && regionOpen s l.lr.regn).map Cand.block
  let ks := (s.saved.filter fun k => k.ready.isSome && regionOpen s k.region).map Cand.crew
  sortBy (Cand.before s) (bs ++ ks ++ renderCands s)

/-! ## A compute block (R99, R285) -/

/-- The lanes of crew `i` of block `b` that have work. -/
def workLanes (l : Launch) (b i : Nat) : Mask :=
  if l.lr.nlan = 0 then 0xFFFFFFFF else maskBelow (l.lr.nlan - 32 * (b * l.lr.crews + i))

/-- The crews of block `b` that become resident. -/
def workCrews (l : Launch) (b : Nat) : List Nat := (List.range l.lr.crews).filter fun i => workLanes l b i != 0

/-- What a launch's next block takes. -/
def blockNeed (l : Launch) : Need :=
  let n := (workCrews l l.placed).length
  { slots := n, units := n * (l.lr.vn / 8), tiles := n * l.lr.til, fresh := true, scratch := 256 * l.lr.scr,
    window := 65536 * l.lr.tsw }

/-- The lowest free crew slot of a core (R18, R330). -/
def freeSlot (s : State) (p : Nat) : Nat := (lowestFree ((crewsOn s p).map fun c => c.slot) 64).getD 0

/-- A crew becomes resident on a core: it takes a slot, its allotment and an entry, and starts at its entry (R173, R333). -/
def startCrew (s : State) (p : Nat) (c : Crew) (entry : VAddr) : State :=
  let n := fresh s
  let st := stampNow n.2
  let s := st.2
  let sl := freeSlot s p
  let f : Frag := { Frag.zero with
    fid := n.1, pc := entry, fl := c.lm, xm := c.lm, entry := some (4 * sl), order := n.1, stamp := st.1 }
  let c := { c with alive := true, pair := p, slot := sl, fr := f, frags := [] }
  let s := modCore s p fun k => { k with vfree := k.vfree - c.vn / 8, tfree := k.tfree - c.tn }
  { s with cur := c, crews := if s.cur.alive then s.cur :: s.crews else s.crews }

/-- A block with its scratchpad at zero and its window. -/
def newBlock (s : State) (lid idx crews : Nat) (kind : CrewKind) (p scratch window : Nat) (qtab : Option Nat)
    (retired : List Nat) : Nat × State :=
  let n := fresh s
  let base := (freeBase (blocksLeft n.2 p []) window).getD 0
  let b : Block :=
    { bid := n.1, launch := lid, index := idx, crews := crews, kind := kind, pair := some p, scratch := [],
      scratchSize := scratch, winBase := base, winSize := window, retired := retired, latch := [], qtab := qtab,
      saveSlot := none, late := [] }
  (n.1, { n.2 with blocks := n.2.blocks ++ [b] })

/-- The next block of a launch is placed on a core (R285, R291, R356, R381). -/
def placeBlock (s : State) (l : Launch) (p : Nat) : State :=
  let i := l.placed
  let idx := workCrews l i
  let none_ := (List.range l.lr.crews).filter fun j => !idx.contains j
  let b := newBlock s l.lid i l.lr.crews .compute p (256 * l.lr.scr) (65536 * l.lr.tsw)
    (if l.lr.qen then some l.lr.qoff else none) none_
  let s := b.2
  let s := match l.parent.bind fun q => launchAt? s q with
    | some q => if i = 0 && (groupAt? s q.group).any (fun g => !g.irrev) then addDep s l.group q.group else s
    | none => s
  let s := if l.parent.isSome then acquireAt s p .device else s
  let crew (j : Nat) : Crew :=
    let c (r : Nat) : Word := match r with
      | 0 => BitVec.ofNat 64 l.lr.param
      | 1 => BitVec.ofNat 64 i
      | 2 => BitVec.ofNat 64 j
      | 3 => BitVec.ofNat 64 l.lr.blks
      | _ => 0
    { Crew.none with
      cid := 0, launch := l.lid, block := b.1, idx := j, region := l.lr.regn, kind := .compute,
      c := Vector.ofFn fun r => c r.val,
      a := Vector.ofFn fun r => if r.val = 0 then ⟨BitVec.ofNat 64 (32 * (i * l.lr.crews + j)), 1⟩ else ⟨0, 0⟩,
      vn := l.lr.vn, tn := l.lr.til, lm := workLanes l i j }
  let s := idx.foldl (fun s j =>
    let n := fresh s
    startCrew n.2 p { crew j with cid := n.1 } (BitVec.ofNat 57 l.lr.entry)) s
  let s := modLaunch s l.lid fun x => { x with placed := x.placed + 1 }
  let s := if i + 1 = l.lr.blks then freePool s l.lid else s
  progressRegion s l.lr.regn

/-! ## Where a candidate may go (R330, R331) -/

/-- The dies of a launch's compute blocks: the working ones of `AFF` ∩ `RAFF`, or all working ones. -/
def allowedDies (s : State) (l : Launch) : List Nat :=
  let raff := match regionAt? s l.lr.regn with | some r => r.raff | none => 0
  let ok (m d : Nat) : Bool := m == 0 || m / 2 ^ d % 2 == 1
  let set := (List.range 4).filter fun d => ok l.lr.aff d && ok raff d && s.dev.diesUp.contains d
  if set.isEmpty then (List.range 4).filter fun d => s.dev.diesUp.contains d else set

/-- The bucket of a crew that shades or resolves, and its die. -/
def bucketDie (s : State) (lid : Nat) : CrewKind → Option Nat
  | .compute => none
  | .vertex b _ | .resolve b =>
    (s.renders.find? fun r => r.lid == lid).bind fun r => (r.flight.find? fun x => x.bix == b).map fun x => x.die

/-- What a candidate takes of core `p`. -/
def Cand.need (s : State) : Cand → Need
  | .block l => blockNeed l
  | .render l _ _ _ n =>
    { slots := n, units := n * (l.lr.vn / 8), tiles := n * l.lr.til, fresh := true, scratch := 256 * l.lr.scr,
      window := 65536 * l.lr.tsw }
  | .crew k =>
    match blockAt? s k.block with
    | some b => { slots := 1, units := k.vn / 8, tiles := k.tn, fresh := b.pair.isNone, scratch := b.scratchSize, window := b.winSize }
    | none => { slots := 1, units := k.vn / 8, tiles := k.tn, fresh := false, scratch := 0, window := 0 }

/-- May a candidate ever go to core `p`? -/
def Cand.mayGo (s : State) (c : Cand) (p : Nat) : Bool :=
  pairOpen s p && fitsEmpty (c.need s) && match c with
  | .block l => (allowedDies s l).contains (dieOf p)
  | .render _ d .. => d == dieOf p
  | .crew k => match blockAt? s k.block with
    | some b => (match b.pair with
      | some q => q == p
      | none => match bucketDie s k.launch k.kind, launchAt? s k.launch with
        | some d, _ => d == dieOf p
        | none, some l => (allowedDies s l).contains (dieOf p)
        | none, none => true)
    | none => false

/-- The core with the fewest resident crews among some, the lowest pair of several. -/
def fewest (s : State) (ps : List Nat) : Option Nat :=
  ps.foldl (fun m p => match m with
    | some q => if (crewsOn s p).length < (crewsOn s q).length then some p else some q
    | none => some p) none

/-- Where a candidate fits at once; one that is not the first in rank only where the first cannot go (R329). -/
def placeOn (s : State) (top : Option Cand) (c : Cand) : Option Nat :=
  fewest s ((List.range 192).filter fun p => c.mayGo s p && fits s p (c.need s) [] &&
    (match top with | some t => !t.mayGo s p | none => true))

/-- The candidate that is placed next, with its core. -/
def nextPlace (s : State) : Option (Cand × Nat) :=
  match candidates s with
  | [] => none
  | t :: rest => match placeOn s none t with
    | some p => some (t, p)
    | none => rest.findSome? fun c => (placeOn s (some t) c).map fun p => (c, p)

def execPlaceBlock (s : State) : Res :=
  .next (match nextPlace s with
    | some (.block l, p) => if l.st == .running then placeBlock s l p else s
    | _ => s)

/-- Must a swap-in to core `p` wait, for a page that migrates, a link, or room for its store-fault records (R278, R311, R345,
R393)? -/
def restoreWaits (s : State) (k : SavedCrew) (p : Nat) : Bool :=
  decide (16 < (coreAt s p).sfq.length + k.recs.length) ||
    match regionAt? s k.region, blockAt? s k.block with
    | some r, some b =>
      mustWait s (corePort p) (crewSlotAt r k.slot) (0x1920 + 256 * k.vn + 18432 * k.tn) ||
        (match b.pair, b.saveSlot with
         | none, some n => mustWait s (corePort p) (blockSlotAt r n) blockSlotSize
         | _, _ => false)
    | _, _ => false

def execSwapIn (s : State) : Res :=
  .next (match nextPlace s with
    | some (.crew k, p) =>
      if restoreWaits s k p then s
      else restoreCrew s k p (freeSlot s p) ((freeBase (blocksLeft s p []) (Cand.need s (.crew k)).window).getD 0)
    | _ => s)

/-! ## Swap-out (R31, R332) -/

/-- Is a crew parked under R31 and not under R32, and since when? -/
def parkedCrew (c : Crew) : Option Nat :=
  let fs := activeFrags c
  if c.saving == 0 && fs.all fun f => (parkedSince f).isSome || f.park == .join then
    match fs.filterMap parkedSince with
    | [] => none
    | t :: ts => some (ts.foldl min t)
  else none

/-- Is one crew chosen before another: the lower priority, the longer parked, the higher slot? -/
def outBefore (s : State) (a b : Crew) : Bool :=
  let pa := priOf s a
  let pb := priOf s b
  if pa != pb then decide (pa < pb)
  else
    let ta := (parkedCrew a).getD 0
    let tb := (parkedCrew b).getD 0
    if ta != tb then decide (ta < tb) else decide (b.slot ≤ a.slot)

/-- Has a crew's save area the slots it needs beside those that chosen crews and swap-outs in progress take (R327, R332)? -/
def slotsFor (s : State) (chosen : List Crew) (c : Crew) : Bool :=
  match regionAt? s c.region with
  | none => false
  | some r =>
    let inst (k : Crew) : Option Nat := (regionAt? s k.region).map fun x => x.instM
    let same := (chosen.filter fun k => inst k == some r.instM).length
    let whole (k : Crew) (also : List Crew) : Bool :=
      (residentOf s k.block).all fun x => x.cid == k.cid || x.saving != 0 || also.any fun y => y.cid == x.cid
    let blocks := distinct ((chosen.filter fun k => inst k == some r.instM && whole k chosen).map fun k => k.block)
    let kept := promised s r.instM c.block
    decide ((slotsOf s.rg.crewSlots r.instM).length + kept.1 + same < r.scs) &&
      (!whole c chosen || decide ((slotsOf s.rg.blockSlots r.instM).length + kept.2 + blocks.length < r.sbs))

/-- Crews taken in order until a candidate fits on the core; none when they cannot free enough together. -/
def takeOut (s : State) (p : Nat) (n : Need) (gone : List Nat) (chosen : List Crew) : List Crew → Option (List Crew)
  | [] => if fits s p n (gone ++ chosen.map fun c => c.cid) then some chosen else none
  | c :: cs =>
    if fits s p n (gone ++ chosen.map fun c => c.cid) then some chosen
    else takeOut s p n gone (if slotsFor s chosen c then chosen ++ [c] else chosen) cs

/-- The crews that core `p` swaps out for the first candidate. -/
def outsOn (s : State) (t : Cand) (p : Nat) : Option (List Crew) :=
  let leaving := ((crewsOn s p).filter fun c => c.saving != 0).map fun c => c.cid
  let ok := (crewsOn s p).filter fun c => (parkedCrew c).isSome && decide (priOf s c < t.pri s)
  if t.mayGo s p then takeOut s p (t.need s) leaving [] (sortBy (outBefore s) ok) else none

/-- The core that needs the fewest swap-outs for the first candidate. -/
def outCore (s : State) (t : Cand) : Option (Nat × List Crew) :=
  ((List.range 192).filterMap fun p => (outsOn s t p).map fun l => (p, l)).foldl (fun m x => match m with
    | some y => if x.2.length < y.2.length then some x else some y
    | none => some x) none

/-- Core `p` begins the saves that make room for the first candidate. -/
def swapOut (s : State) (p : Nat) : State :=
  match candidates s with
  | [] => s
  | t :: _ =>
    if (placeOn s none t).isSome then s
    else match outCore s t with
      | some (q, cs) =>
        if q != p then s
        else cs.foldl (fun s c => match focusCid s c.cid with
          | some u => trySave (startSave u 3)
          | none => s) s
      | none => s

def execSwapOut (p : Nat) (s : State) : Res := .next (swapOut s p)

end Sys2Proof.Machine
end

