-- ==== Sys2Proof/Machine/Regions.lean ====
section
/-! DEFINITION. The region table's commit, requests, holds, budgets and the watchdog (R317 to R326, R349, R381, R382). -/

namespace Sys2Proof.Machine

open Sys2Proof

/-! ## The table and its control blocks (R317, R321) -/

def cbOvr (b : List Byte) (g : Nat) : Bool := recNat b 0x02 2 / 2 ^ g % 2 == 1
def cbParn (b : List Byte) : Nat := recNat b 0x04 4

/-- No parent. -/
def noParent : Nat := 0xFFFFFFFF

/-- A field with bits that R321 reserves: offset, size, the bits. -/
def cbReserved : List (Nat × Nat × Nat) :=
  [(0x02, 2, 0xFFE0), (0x08, 8, 2 ^ 64 - 1), (0x10, 1, 0xF0), (0x11, 1, 0xF0), (0x12, 2, 0xFFFE), (0x18, 8, 2 ^ 64 - 1),
   (0x21, 1, 0xF8), (0x22, 2, 0xFFFF), (0x28, 8, 2 ^ 64 - 1), (0x30, 8, 127 * 2 ^ 57), (0x38, 8, 127 * 2 ^ 57),
   (0x40, 8, 127 * 2 ^ 57), (0x4C, 4, 2 ^ 32 - 1), (0x5C, 4, 2 ^ 32 - 1), (0x78, 8, 2 ^ 64 - 1), (0x80, 1, 0xF0),
   (0x81, 1, 0xFF), (0x84, 124, 2 ^ 992 - 1)]

/-- Check 0x02 on a block. -/
def cbFormatBad (b : List Byte) : Bool :=
  recNat b 0 2 != 5 || cbReserved.any fun x => recNat b x.1 x.2.1 &&& x.2.2 != 0

/-- Check 0x05 on the groups that a block defines. -/
def cbLimitBad (b : List Byte) : Bool :=
  let page (a : Nat) : Bool := recNat b a 8 % 4096 != 0 || decide (2 ^ 57 ≤ recNat b a 8)
  let out (x hi : Nat) : Bool := x == 0 || decide (hi < x)
  (cbOvr b 1 && recNat b 0x21 1 / 2 % 4 == 3) ||
    (cbOvr b 2 && (recNat b 0x30 8 % 4 != 0 || recNat b 0x38 8 % 4 != 0 || recNat b 0x40 8 % 4 != 0)) ||
    (cbOvr b 3 && (page 0x50 || page 0x60 || out (recNat b 0x58 2) 4096 || out (recNat b 0x5A 2) 1024)) ||
    (cbOvr b 4 && out (recNat b 0x82 2) 4096)

/-- A table entry. -/
def tableEntry (s : State) (n : Nat) : Option Nat := (vaBytes? s (s.rg.rgtb.toNat + 8 * n) 8).map leNat

/-- A line of the region table or of a control block that is uncorrectable (R319, R390). -/
def commitBad (s : State) (n : Nat) : Option PA :=
  (badPlace? s (s.rg.rgtb.toNat + 8 * n) 8).or (match tableEntry s n with
    | some e => if e / 2 ^ 63 = 1 then badPlace? s (e % 2 ^ 57) 256 else none
    | none => none)

/-- What the commit reads for region `n`: an error code, no region, or its control block (log 35 DEDUCED unsafe). -/
def readRegion (s : State) (bad : Option Nat) (n : Nat) : Except Nat (Option (List Byte)) :=
  if bad == some n || (commitBad s n).isSome then .error 1
  else match tableEntry s n with
    | none => .error 1
    | some e =>
      let a := e % 2 ^ 57
      if e / 2 ^ 63 = 0 then .ok none
      else if a % 256 != 0 then .error (if e / 2 ^ 57 % 64 = 0 then 5 else 2)
      else match vaBytes? s a 256 with
        | none => .error 1
        | some b => if e / 2 ^ 57 % 64 != 0 || cbFormatBad b then .error 2 else .ok (some b)

/-- Control blocks by region number, those that can be read. -/
abbrev Blocks := List (Nat × List Byte)

/-- A region with its parents, nearest first; none when the chain is at fault (R319). -/
def chainOf (bs : Blocks) : Nat → List Nat → Nat → Option (List Nat)
  | 0, _, _ => none
  | n + 1, acc, p =>
    if p = noParent then some acc.reverse
    else if acc.contains p then none
    else match kget bs p with
      | none => none
      | some b => chainOf bs n (p :: acc) (cbParn b)

/-- The chain of a region among the blocks. -/
def regionChain (bs : Blocks) (n : Nat) (b : List Byte) : Option (List Nat) := chainOf bs 16 [n] (cbParn b)

/-- The code of the first check from 0x03 to 0x05 that region `n` fails. -/
def regionBad (bs : Blocks) (n : Nat) (b : List Byte) : Option Nat :=
  if cbParn b = noParent && recNat b 0x02 2 % 32 != 31 then some 3
  else if (regionChain bs n b).isNone then some 4
  else if cbLimitBad b then some 5
  else none

/-- The first failing region with its code (R319). -/
def tableBad (s : State) (bad : Option Nat) : Option (Nat × Nat) :=
  let reads := (List.range 1024).map fun n => (n, readRegion s bad n)
  let bs : Blocks := reads.filterMap fun x => match x.2 with | .ok (some b) => some (x.1, b) | _ => none
  reads.findSome? fun x => match x.2 with
    | .error c => some (x.1, c)
    | .ok none => none
    | .ok (some b) => (regionBad bs x.1 b).map fun c => (x.1, c)

/-- The control blocks of a table. -/
def tableBlocks (s : State) : Blocks :=
  (List.range 1024).filterMap fun n => match readRegion s none n with | .ok (some b) => some (n, b) | _ => none

/-- A region's effective record (R320). -/
def resolveRegion (bs : Blocks) (n : Nat) (b : List Byte) : Region :=
  let chain := (regionChain bs n b).getD [n]
  let blk (m : Nat) : List Byte := kgetD bs m b
  let own (g : Nat) : Nat := (chain.find? fun m => cbOvr (blk m) g).getD n
  let f (g at_ size : Nat) : Nat := recNat (blk (own g)) at_ size
  { num := n, par := if cbParn b = noParent then none else some (cbParn b),
    instS := own 0, instF := own 1, instH := own 2, instM := own 3, instL := own 4,
    pri := f 0 0x10 1, raff := f 0 0x11 1, bref := f 0 0x12 2 % 2 == 1, budg := f 0 0x14 4,
    fdom := f 1 0x20 1, ldr := f 1 0x21 1 % 2 == 1, uend := f 1 0x21 1 / 2 % 4, wdl := f 1 0x24 4,
    uha := f 2 0x30 8, sha := f 2 0x38 8, pha := f 2 0x40 8, hbg := f 2 0x48 4,
    svb := f 3 0x50 8, scs := f 3 0x58 2, sbs := f 3 0x5A 2, sfb := f 3 0x60 8, shp := f 3 0x68 8, ftp := f 3 0x70 8,
    dlim := f 4 0x80 1, psh := f 4 0x82 2 }

/-- Every region's effective record. -/
def resolveAll (bs : Blocks) : List Region := bs.map fun x => resolveRegion bs x.1 x.2

/-- Entries of the pending-launch pool (R278). -/
def poolSize : Nat := 4096

/-- The first region at which the shares of the launch-group instances sum to more than the pool (R319, log 35 DEDUCED unsafe).
-/
def sharesBad : List Region → List Nat → Nat → Option Nat
  | [], _, _ => none
  | r :: rs, seen, sum =>
    if seen.contains r.instL then sharesBad rs seen sum
    else if poolSize < sum + r.psh then some r.num
    else sharesBad rs (r.instL :: seen) (sum + r.psh)

/-! ## Commit (R319) -/

def execCommitGo (s : State) : Res := .next (if s.rg.bsy then s else { s with rg := { s.rg with bsy := true } })

/-- The name under which a commit waits for a migration. -/
def commitStall : Nat := 2 ^ 64 + 64

/-- Does some range that the commit reads meet a condition? -/
def commitReads (s : State) (f : Nat → Nat → Bool) : Bool :=
  f s.rg.rgtb.toNat 8192 || (List.range 1024).any fun n => match tableEntry s n with
    | some e => e / 2 ^ 63 == 1 && f (e % 2 ^ 57) 256
    | none => false

/-- Does a page that the commit reads migrate (R345)? -/
def commitMoves (s : State) : Bool := commitReads s (moving s)

/-- Does a link hold a read of the commit (R393)? -/
def commitHeld (s : State) : Bool := commitReads s (behindLink s .h)

/-- Instances of one group that both sets of records define. -/
def keptInst (old new : List Region) (inst : Region → Nat) (i : Nat) : Bool :=
  old.any (fun r => r.num == i && inst r == i) && new.any fun r => r.num == i && inst r == i

/-- A pool as its descriptor stands in memory, none when it is malformed or cannot be read; a kept one keeps its count (R349,
log 30 DEDUCED safe). -/
def readPool (s : State) (kept : Option Pool) (shadow : Bool) (desc : Nat) : Option Pool :=
  match if (badPlace? s desc 16).isSome then none else vaBytes? s desc 16 with
  | none => none
  | some b =>
    let psz := recNat b 2 1
    let cap := recNat b 0x0C 4
    let top := match kept with | some p => if p.desc == desc then p.top else recNat b 8 4 | none => recNat b 8 4
    let bad := recNat b 0 2 != 5 || recNat b 3 5 != 0 || decide (2 < psz) || (shadow && psz != 1) || cap == 0 ||
      decide (2 ^ 24 < cap) || decide (cap < top)
    if bad then none else some ⟨desc, psz, cap, top⟩

/-- The pools of every M-group instance of some records; an `SHP` of 0 names none (R354). -/
def readPools (s : State) (new : List Region) (shadow : Bool) : List (Nat × Pool) :=
  let old := if shadow then s.rg.shadowPool else s.rg.touchPool
  (new.filter fun r => r.instM == r.num && !(shadow && r.shp == 0)).filterMap fun r =>
    let kept := if keptInst s.rg.eff new (fun x => x.instM) r.num then kget old r.num else none
    (readPool s kept shadow (if shadow then r.shp else r.ftp)).map fun p => (r.num, p)

/-- Does a pool descriptor that new records name lie in a page that migrates (R345, R349)? -/
def poolsMove (s : State) (new : List Region) : Bool :=
  (new.filter fun r => r.instM == r.num).any fun r => (r.shp != 0 && moving s r.shp 16) || moving s r.ftp 16

/-- New records take the place of the old ones, with the run state that goes on (log 36 DEDUCED unsafe). -/
def applyRecords (s : State) (new : List Region) : State :=
  let g := s.rg
  let kept (inst : Region → Nat) (i : Nat) : Bool := keptInst g.eff new inst i
  let valid (r : Nat) : Bool := g.eff.any (fun x => x.num == r) && new.any fun x => x.num == r
  let live (r : Nat) : Bool := s.launches.any fun l => l.st != .done && l.lr.regn == r
  let rg : Regions := { g with
    err := false, eff := new,
    old := (g.eff ++ g.old).filter fun r => live r.num && !new.any fun x => x.num == r.num
    heldM := g.heldM.filter (kept fun r => r.instM), heldF := g.heldF.filter (kept fun r => r.instF),
    pre := g.pre.filter fun x => valid x.1
    spent := [], budget := (new.filter fun r => r.instS == r.num).map fun r => (r.num, (r.budg * 65536 : Int))
    share := g.share.filter fun x => kept (fun r => r.instL) x.1
    wdc := g.wdc.filter fun x => kept (fun r => r.instF) x.1
    shadowPool := readPools s new true, touchPool := readPools s new false }
  settleRegions { s with rg := rg }

/-- The commit's reads and checks, and its effect (R319). -/
def commit (s : State) (bad : Option Nat) : State :=
  if !s.rg.bsy || stalled s commitStall || commitHeld s then s
  else if commitMoves s then stall s commitStall
  else
    let lost (r code : Nat) : List PA := if code = 1 then (commitBad s r).toList ++ (if bad == some r then
        ((vaPA? s (s.rg.rgtb.toNat + 8 * r)).filter fun p => !badAt s p).toList else []) else []
    let fail (r code : Nat) : State := { countUncorr s (lost r code) with rg := { s.rg with bsy := false, err := true, code := code, errRegion := r } }
    match tableBad s bad with
    | some (r, c) => fail r c
    | none =>
      let new := resolveAll (tableBlocks s)
      if poolsMove s new then stall s commitStall
      else match sharesBad new [] 0 with
      | some r => fail r 6
      | none => applyRecords { s with rg := { s.rg with bsy := false } } new

def execCommitApply (bad : Option Nat) (s : State) : Res := .next (commit s bad)

/-! ## Requests, releases and budgets (R322 to R324) -/

/-- A driver request pre-empts a region with reason 2. -/
def requestPreempt (s : State) (r : Nat) : State :=
  match effRegion? s r with
  | none => s
  | some _ => if s.rg.pre.contains (r, 2) then s else settleRegions { s with rg := { s.rg with pre := s.rg.pre ++ [(r, 2)] } }

def execDriverPreemptRequest (r : Nat) (s : State) : Res := .next (requestPreempt s r)

/-- `RGRS` with `RES`. -/
def clearRequest (s : State) (r : Nat) : State :=
  match effRegion? s r with
  | none => s
  | some _ => settleRegions { s with rg := { s.rg with pre := s.rg.pre.filter fun x => x != (r, 2) } }

def execRgrsRes (r : Nat) (s : State) : Res := .next (clearRequest s r)

/-- `RGRS` with `REL`. -/
def clearHolds (s : State) (r : Nat) : State :=
  match effRegion? s r with
  | none => s
  | some g => settleRegions { s with rg := { s.rg with
      heldM := s.rg.heldM.filter fun i => i != g.instM, heldF := s.rg.heldF.filter fun i => i != g.instF } }

def execRgrsRel (r : Nat) (s : State) : Res := .next (clearHolds s r)

/-- A spent instance's regions are pre-empted with reason 3. -/
def execBudgetExhausted (i : Nat) (s : State) : Res :=
  let has := s.rg.eff.any fun r => r.num == i && r.instS == i && r.budg != 0
  let left := (kget s.rg.budget i).getD 1
  .next (if has && decide (left ≤ 0) && !s.rg.spent.contains i then
      settleRegions { s with rg := { s.rg with spent := i :: s.rg.spent } }
    else s)

/-! ## The watchdog (R381, R382) -/

/-- The regions of an F-group instance. -/
def faultRegions (s : State) (i : Nat) : List Region := s.rg.eff.filter fun r => r.instF == i

/-- Does a crew hold back its instance's watchdog: parked in `wait.ext`, or with a command of its engine outstanding? -/
def watchdogHeld (s : State) (c : Crew) : Bool :=
  c.all.any (fun f => match f.park with | .wait _ _ _ ext _ => ext | _ => false) ||
    engCount s c.pair c.cid != 0 ||
    (coreAt s c.pair).nrqs.any fun r => r.cid == c.cid

/-- Does the watchdog of an instance count this cycle, by its crews that are resident or swapped out? The copies of every crew of it hold
it, one that is saved for another reason too (R201, R381). -/
def watchdogCounts (s : State) (i : Nat) : Bool :=
  let rs := faultRegions s i
  let mine (r : Nat) : Bool := rs.any fun x => x.num == r
  let on := (allCrews s).filter fun c => mine c.region
  let off := s.saved.filter fun k => mine k.region && k.reason == 3
  let copying (cid : Nat) : Bool := s.copies.any fun x => x.cid == cid
  rs.any (fun r => r.wdl != 0) && (!on.isEmpty || !off.isEmpty) && !on.any (fun c => watchdogHeld s c || copying c.cid) &&
    !(s.saved.any fun k => mine k.region && copying k.cid) &&
    !off.any fun k => k.kept.any fun x => match x.2 with | .wait _ _ _ ext _ => ext | _ => false

/-- A cycle of every watchdog, of 48 bits (R363, R366). -/
def watchdogCycle (s : State) : State :=
  let is := (s.rg.eff.filter fun r => r.instF == r.num && watchdogCounts s r.num).map fun r => r.num
  { s with rg := { s.rg with wdc := is.foldl (fun l i => kmod l i fun n => (n + 1) % 2 ^ 48) s.rg.wdc } }

/-- The watchdog of an instance fires: the report, reason 2 in its regions, forced saves of its crews with their status as it
stands and no PREEMPT of their own, and the count at zero. -/
def execWdog (i : Nat) (s : State) : Res :=
  let rs := faultRegions s i
  .next (match rs.find? fun r => r.num == i with
    | none => s
    | some d =>
      if d.wdl = 0 || kgetD s.rg.wdc i 0 < d.wdl * 65536 then s
      else
        let s := report s "WDOG" (d.fdom :: rs.map fun r => r.num)
        let new := (rs.map fun r => (r.num, 2)).filter fun x => !s.rg.pre.contains x
        let on := (allCrews s).filter fun c => rs.any fun r => r.num == c.region
        let s := settleRegions { s with rg := { s.rg with pre := s.rg.pre ++ new, wdc := kset s.rg.wdc i 0 } }
        on.foldl (fun s c => match focusCid s c.cid with
          | some t =>
            if t.cur.saving = 2 then t
            else trySave (startSave (modCur t fun k => { k with cst := { k.cst with ppre := c.cst.ppre } }) 2)
          | none => s) s)

end Sys2Proof.Machine
end

