-- ==== Sys2Proof/Machine/Sha.lean ====
section
/-! DEFINITION. SHA-512, which R385 and R387 name: the hash of FIPS 180-4 (log 37 PRESUMED unsafe). -/

namespace Sys2Proof.Machine

open Sys2Proof

/-- Is `n` a prime? -/
def isPrime (n : Nat) : Bool := decide (2 ≤ n) && (List.range n).all fun d => decide (d < 2) || n % d != 0

/-- The first primes, 2 to 409. -/
def primes : List Nat := (List.range 410).filter isPrime

/-- The greatest number of `bits` bits whose power `k` is at most `n`. -/
def rootGo (k n : Nat) : Nat → Nat → Nat
  | 0, r => r
  | b + 1, r => rootGo k n b (if (r + 2 ^ b) ^ k ≤ n then r + 2 ^ b else r)

/-- The first 64 bits of the fraction of the `k`th root of a number below 2 ^ 10. -/
def rootFrac (k p : Nat) : BitVec 64 := BitVec.ofNat 64 (rootGo k (p * 2 ^ (64 * k)) 70 0)

/-- The initial hash and the round constants. -/
def shaInit : List (BitVec 64) := (primes.take 8).map (rootFrac 2)
def shaK : List (BitVec 64) := primes.map (rootFrac 3)

def ror (x : BitVec 64) (n : Nat) : BitVec 64 := x.rotateRight n

/-- The message schedule: 16 words, extended to 80. -/
def shaSchedule : Nat → List (BitVec 64) → List (BitVec 64)
  | 0, w => w
  | n + 1, w =>
    let at_ (k : Nat) : BitVec 64 := w.getD (w.length - k) 0
    let s0 := ror (at_ 15) 1 ^^^ ror (at_ 15) 8 ^^^ (at_ 15 >>> 7)
    let s1 := ror (at_ 2) 19 ^^^ ror (at_ 2) 61 ^^^ (at_ 2 >>> 6)
    shaSchedule n (w ++ [at_ 16 + s0 + at_ 7 + s1])

/-- One round on the eight working words. -/
def shaRound (h : List (BitVec 64)) (kw : BitVec 64) : List (BitVec 64) :=
  match h with
  | [a, b, c, d, e, f, g, k] =>
    let t1 := k + (ror e 14 ^^^ ror e 18 ^^^ ror e 41) + ((e &&& f) ^^^ (~~~e &&& g)) + kw
    let t2 := (ror a 28 ^^^ ror a 34 ^^^ ror a 39) + ((a &&& b) ^^^ (a &&& c) ^^^ (b &&& c))
    [t1 + t2, a, b, c, d + t1, e, f, g]
  | _ => h

/-- A big-endian number. -/
def beNat (bs : List Byte) : Nat := leNat bs.reverse

/-- One block of 128 bytes. -/
def shaBlock (h : List (BitVec 64)) (bs : List Byte) : List (BitVec 64) :=
  let w := shaSchedule 64 ((List.range 16).map fun i => BitVec.ofNat 64 (beNat ((bs.drop (8 * i)).take 8)))
  let out := ((shaK.zip w).map fun x => x.1 + x.2).foldl shaRound h
  (h.zip out).map fun x => x.1 + x.2

/-- Blocks of 128 bytes in order. -/
def shaBlocks : Nat → List (BitVec 64) → List Byte → List (BitVec 64)
  | 0, h, _ => h
  | n + 1, h, bs => shaBlocks n (shaBlock h (bs.take 128)) (bs.drop 128)

/-- The 64 bytes of the hash. -/
def sha512 (bs : List Byte) : List Byte :=
  let n := (bs.length + 17 + 127) / 128
  let pad := List.replicate (128 * n - 16 - bs.length - 1) (0 : Byte)
  (shaBlocks n shaInit (bs ++ [0x80] ++ pad ++ (leBytes 16 (8 * bs.length)).reverse)).flatMap fun x => (leBytes 8 x.toNat).reverse

end Sys2Proof.Machine
end

