-- ==== Sys2Proof/Machine/Device.lean ====
section
/-! DEFINITION. Device life: start and restart, firmware, attestation, the undo log, the weight store, spares, errors, links,
power and the host's registers (R24, R279, R318, R340, R341, R362, R365, R370, R384 to R394). -/

namespace Sys2Proof.Machine

open Sys2Proof

/-- The device-life state changed. -/
def modDev (s : State) (f : Dev → Dev) : State := { s with dev := f s.dev }
/-- The counters changed. -/
def modCtr (s : State) (f : Counters → Counters) : State := { s with ctr := f s.ctr }
/-- The translation registers changed. -/
def modXl (s : State) (f : Xlate → Xlate) : State := { s with xl := f s.xl }

/-! ## Spares (R362, R389) -/

/-- The units of the spare remap table, in its order: cores, engines, lanes, rows, ways (R365). -/
def unitCount : Nat := 2672

/-- The kind of a unit, by its threshold: 0 core, 1 engine, 2 lane, 3 row, 4 way. -/
def unitKind (u : Nat) : Nat := if u < 192 then 0 else if u < 384 then 1 else if u < 408 then 2 else if u < 2456 then 3 else 4

/-- Where a unit's entry lies in the table, and its size. -/
def unitEntry (u : Nat) : Nat × Nat :=
  if u < 192 then (u, 1) else if u < 384 then (0x100 + (u - 192), 1) else if u < 408 then (0x200 + 2 * (u - 384), 2)
  else if u < 2456 then (0x300 + 4 * (u - 408), 4) else if u < 2648 then (0x2300 + (u - 2456), 1) else (0x23C0 + (u - 2648), 1)

/-- An entry's value, and one written. -/
def entryOf (s : State) (u : Nat) : Nat := leNat (s.ctr.spare.bytes (unitEntry u).1 (unitEntry u).2)
def setEntry (s : State) (u v : Nat) : State :=
  modCtr s fun c => { c with spare := c.spare.writes (unitEntry u).1 (leBytes (unitEntry u).2 v) }

/-- Is an entry in use? Its top bit says so. -/
def entryUsed (s : State) (u : Nat) : Bool := entryOf s u / 2 ^ (8 * (unitEntry u).2 - 1) % 2 == 1

/-- Spares of a kind in use on a die. -/
def sparesUsed (s : State) (k d : Nat) : Nat :=
  match s.ctr.spares.find? fun x => x.1 == k && x.2.1 == d with | some x => x.2.2 | none => 0

/-- One more of them. -/
def useSpare (s : State) (k d : Nat) : State :=
  let n := sparesUsed s k d + 1
  modCtr s fun c => { c with spares := (c.spares.filter fun x => !(x.1 == k && x.2.1 == d)) ++ [(k, d, n)] }

/-- A core's or engine's unit is replaced by one of its die's four spares, or stays out of service with a replace request (log
39 DESIGN CHOICE safe). -/
def replacePair (s : State) (u : Nat) : State :=
  let p := u % 192
  let k := unitKind u
  let n := sparesUsed s k (dieOf p)
  if n < 4 then setEntry (useSpare s k (dieOf p)) u (128 + 48 + n)
  else modDev (modCore s p fun c => { c with inService := false }) fun d => { d with rpl := true }

/-- Has a unit's counter reached its threshold, with the unit not replaced yet (R362)? -/
def unitWorn (s : State) (u : Nat) : Bool :=
  decide (u < unitCount) && !entryUsed s u && decide (s.ctr.thresholds.getD (unitKind u) 0 ≤ kgetD s.ctr.wear u 0)

/-- The UCIe module of a lane counter, as a link: links 0 to 7 are Burier's, 8 to 19 the modules, 20 the host's (log 44 PRESUMED
unsafe). -/
def laneLink (u : Nat) : Nat := 8 + (u - 384) / 2

/-- The dies at the ends of a UCIe module, V dies only, in the order of R13: H to V, the ring, M to V (log 44 PRESUMED unsafe).
-/
def linkDies (k : Nat) : List Nat :=
  if k < 8 || 20 ≤ k then [] else if k < 12 then [k - 8] else if k < 16 then [k - 12, (k - 11) % 4] else [k - 16]

/-- A link stops to retrain (R393). -/
def retrain (s : State) (k : Nat) : State :=
  if 20 < k || s.dev.retraining.contains k then s
  else (linkDies k).foldl (fun s d => addDie s d 5) (modDev s fun d => { d with retraining := d.retraining ++ [k] })

/-- Entries of a translation buffer that a retired way held: which ones is open. -/
def loseWay (mask : Nat) (t : List TlbE) : List TlbE :=
  (t.zipIdx.filter fun x => !mask.testBit x.2).map fun x => x.1

/-- A unit whose counter has reached its threshold is taken out of service (R389, log 39 DESIGN CHOICE safe). -/
def remapUnit (s : State) (u : Nat) : State :=
  if !unitWorn s u then s
  else match unitKind u with
    | 0 | 1 =>
      let c := coreAt s (u % 192)
      let bit := 1 + u / 192
      if !c.inService || c.remapping / bit % 2 = 1 then s
      else modCore s (u % 192) fun c => { c with remapping := c.remapping + bit, remapAge := 0 }
    | 2 =>
      let lane := choose s 64
      retrain (setEntry lane.2 u (2 ^ 15 + lane.1)) (laneLink u)
    | 3 =>
      let row := choose s (2 ^ 16)
      setEntry row.2 u (2 ^ 31 + row.1)
    | _ =>
      let first := decide (u < 2648)
      let way := choose s (if first then 9 else 17)
      let lost := choose way.2 (2 ^ (if first then 512 else 8192))
      let s := setEntry lost.2 u (2 ^ 7 + way.1)
      if first then modCore s (u - 2456) fun c => { c with tlb := loseWay lost.1 c.tlb }
      else { s with tlb2 := kset s.tlb2 (u - 2648) (loseWay lost.1 (kgetD s.tlb2 (u - 2648) [])) }

def execSpareRemap (u : Nat) (s : State) : Res := .next (remapUnit s u)

/-- 10 ms after a pair's remap began, every crew still resident is force-saved without its handler. -/
def execSpareForceSave (p : Nat) (s : State) : Res :=
  let c := coreAt s p
  .next (if c.remapping = 0 || c.remapAge < 14000000 then s
    else (crewsOn s p).foldl (fun s k => match focusCid s k.cid with
      | some t => if t.cur.saving = 2 then t else trySave (startSave t 2)
      | none => s) s)

/-- A pair that is being remapped sends out its parked crews, and once it is empty promotes its log and is replaced. -/
def settleRemap (s : State) (p : Nat) : State :=
  let c := coreAt s p
  if c.remapping = 0 then s
  else if !(crewsOn s p).isEmpty then
    (crewsOn s p).foldl (fun s k =>
      if (parkedCrew k).isSome && slotsFor s [] k then
        match focusCid s k.cid with
        | some t => trySave (startSave t 3)
        | none => s
      else s) s
  else if !c.opq.isEmpty || !c.infq.isEmpty || !c.feeds.isEmpty || s.blocks.any (fun b => b.pair == some p) ||
      s.storeQ.any (fun x => x.pair == p) || s.atoms.any (fun x => x.pair == p) || wbHeld s p (fun _ => true) then s
  else
    let s := writeBackAll s p fun _ => true
    let s := modCore s p fun c => { c with l1 := [], plog := [], tlb := [], icache := [], remapping := 0, remapAge := 0 }
    let s := if c.remapping % 2 = 1 then replacePair s p else s
    if 2 ≤ c.remapping then replacePair s (192 + p) else s

/-! ## Start (R385, R386) -/

/-- The device after a restart: memories, flash and the tables that are kept stay; the rest is at its start value (log 38
DEDUCED unsafe). -/
def restart (s : State) : State :=
  { State.reset with
    badLines := s.badLines,
    agenda := s.agenda, tick := s.tick, nextId := s.nextId, loc := s.loc, sys := s.sys, peers := s.peers, weights := s.weights,
    cores := (s.cores.filter fun x => !x.2.inService).map fun (x : Nat × Core) => (x.1, { Core.zero with inService := false }),
    ctr := { Counters.zero with
      wear := s.ctr.wear, spare := s.ctr.spare, thresholds := s.ctr.thresholds, spares := s.ctr.spares },
    dev := { Dev.zero with fsc := s.dev.fsc, lsr := s.dev.lsr, rpl := s.dev.rpl, fwv := s.dev.fwv, image := s.dev.image },
    reports := s.reports }

/-- V dies with a core in service. -/
def workingDies (s : State) : List Nat :=
  (List.range 4).filter fun d => (List.range 48).any fun j => (coreAt s (48 * d + j)).inService

/-- May an image run: does its signature verify, and is its version at least the fused minimum (R385, log 10 DESIGN CHOICE
safe)? -/
def imageOk (img : List Byte) : Bool := Config.imageSigned img && decide (Config.minVersion ≤ Config.imageVersion img)

/-- Step 5: spares come into service for the units marked failed (R389). -/
def bringSpares (s : State) : State :=
  (List.range unitCount).foldl (fun s u =>
    if !unitWorn s u then s
    else if u < 384 then (if (coreAt s (u % 192)).inService then replacePair s u else s)
    else remapUnit s u) s

/-- Step 7: every counter is at its start value but the wear and error counters, and every ring is disabled (R279, R363). -/
def clearCounters (s : State) : State :=
  { s with
    cores := s.cores.map fun (x : Nat × Core) => (x.1, { x.2 with ccyc := 0, pme := Core.zero.pme, pmc := Core.zero.pmc }),
    rg := { s.rg with wdc := [] },
    rings := s.rings.map fun r => { r with en := false, st := if r.en then 3 else r.st },
    ctr := { s.ctr with
      bpc := 0, bEn := false, bEdge := false, bdrop := 0, bglt := 0, bAge := none, die := Counters.zero.die,
      rfph := Counters.zero.rfph } }

/-- The steps of a start before step `fail`, or all of them for 0: the image of step 1 runs, step 4 writes every line anew, step 5 brings
the spares into service, step 7 resets the counters (R385). -/
def startSteps (s : State) (fail : Nat) : State :=
  let past (k : Nat) : Bool := fail == 0 || decide (k < fail)
  let s := if past 1 then modDev s fun d => { d with fwv := (Config.imageVersion d.image).toNat } else s
  let s := if past 4 then { s with badLines := [] } else s
  let s := if past 5 then bringSpares s else s
  if past 7 then clearCounters s else s

/-- The start sequence: step `fail` fails, or none, and the first fails of an image that may not run. Which V die is the lowest that
trains in a lightship start is open (R385, R386, log 38 DEDUCED unsafe). -/
def startUp (s : State) (fail : Nat) : State :=
  let light := s.dev.fsc == 3
  let fail := if imageOk s.dev.image then fail else 1
  if s.dev.mode != .starting then s
  else if 0 < fail && fail ≤ (if light then 3 else 7) then
    modDev (startSteps s fail) fun d => { d with mode := .halted, lsr := fail, fsc := min 3 (d.fsc + 1), restartDue := true }
  else if light then
    let die := choose (startSteps s 4) 4
    modDev die.2 fun d => { d with mode := .lightship, diesUp := [die.1] }
  else
    modDev (startSteps s 0) fun d => { d with mode := .service, fsc := 0, diesUp := workingDies (startSteps s 0) }

def execStart (fail : BitVec 8) (s : State) : Res := .next (startUp s fail.toNat)
def execStartFailRestart (s : State) : Res := .next (if s.dev.restartDue then restart s else s)
def execDcmdRst (s : State) : Res := .next (restart s)
def execDcmdRplc (s : State) : Res := .next (modDev s fun d => { d with rpl := false })

/-- An image of `n` bytes at `FWSRC` replaces the one in flash when its check passes; then the device restarts (log 10 DESIGN
CHOICE safe). The link to the host holds it while it retrains (R393). -/
def loadFirmware (s : State) (n : Nat) : State :=
  let img := s.sys.bytes s.dev.fwsrc (min n 0x4000000)
  if linkHeld s .h ⟨.sys, s.dev.fwsrc⟩ then s
  else restart (if imageOk img then modDev s fun d => { d with image := img } else s)

def execDcmdFwld (n : Nat) (s : State) : Res := .next (loadFirmware s n)

/-! ## Attestation (R387) -/

/-- `MODE`'s code. -/
def Mode.code : Mode → Nat
  | .starting => 0 | .service => 1 | .lightship => 2 | .halted => 3

/-- `DSTAT` (R384). -/
def dstat (d : Dev) : Nat := d.mode.code + 4 * d.fsc + 2 ^ 8 * d.lsr + 2 ^ 16 * d.rpl.toNat + 2 ^ 17 * d.cap.toNat

/-- The spare remap table as the host reads it. -/
def spareTable (c : Counters) : List Byte := c.spare.bytes 0 0x2400 ++ c.thresholds.toList.flatMap (leBytes 4)

/-- The signed part of the report. -/
def attestBody (s : State) : List Byte :=
  leBytes 4 5 ++ leBytes 4 s.dev.fwv ++ sha512 s.dev.image ++ (List.range 64).map (fun i => s.dev.atnc.getD i 0) ++
    leBytes 8 (dstat s.dev) ++ (sha512 (spareTable s.ctr)).take 8

/-- The report of 512 bytes. -/
def attestReport (s : State) : List Byte :=
  let b := attestBody s
  let sig := Config.sign b
  b ++ (List.range 132).map (fun i => sig.getD i 0) ++ List.replicate 228 0

/-- `ATCT.GO`: the report is written to system memory (log 42 DEDUCED unsafe). -/
def attest (s : State) : State :=
  if s.dev.atBsy || linkHeld s .h ⟨.sys, s.dev.atds⟩ then s else sysWrites s s.dev.atds (attestReport s)

def execAttestation (s : State) : Res := .next (attest s)

/-! ## The undo log (R392) -/

def execUlctEn (en : Bool) (s : State) : Res := .next (modDev s fun d => { d with ulEn := en })

/-- The interval closes: the log empties and its number advances. -/
def closeUndo (s : State) : State := modDev s fun d => { d with undo := [], ulNum := (d.ulNum + 1) % 2 ^ 32 }

/-- `CLS`: a rollback in progress closes the interval itself. -/
def closeNow (s : State) : State := if s.dev.ulBsy then s else closeUndo s

def execUlctCls (s : State) : Res := .next (closeNow s)

/-- `ROLL`: refused while a launch is in flight, else begun. -/
def rollBack (s : State) : State :=
  if inFlightLaunch s then modDev s fun d => { d with ulErr := true } else modDev s fun d => { d with ulBsy := true }

/-- The last before-image goes back to the line it came from; after the first the interval closes (log 42 DEDUCED unsafe). -/
def rollStep (s : State) : State :=
  if !s.dev.ulBsy then s
  else match s.dev.undo.getLast? with
    | none => modDev (closeUndo s) fun d => { d with ulBsy := false }
    | some u =>
      if outHeld s u.line then s else
      let s := markDirty s u.line
      modDev { s with loc := s.loc.writes u.line (leBytes 128 u.image.toNat) } fun d => { d with
        undo := d.undo.filter fun x => x != u }

def execUlctRoll (s : State) : Res := .next (rollBack s)

/-! ## The weight store (R388) -/

def execWsctGo (s : State) : Res :=
  .next (if s.dev.wsBsy then s else modDev s fun d => { d with wsBsy := true })

/-- Bytes copied in order, until one cannot be: at `stop` or any other line that cannot be corrected, past the store, or from a page
that cannot be read. -/
def weightCopy (m k : Nat) (stop : Option Nat) : Nat → Nat → Nat → State → State
  | 0, _, _, s => s
  | n + 1, at_, off, s =>
    let err := modDev s fun d => { d with wsErr := true }
    if stop == some (off - m) then countUncorr err (vaPA? s at_).toList
    else if weightSize ≤ off then err
    else match vaPA? s at_ with
      | none => err
      | some pa =>
        if badAt s pa then countUncorr err [pa]
        else weightCopy m k stop n (at_ + 1) (off + 1) (paWrite s ⟨.weight k, off⟩ (paRead s pa))

/-- The load, once no launch is in flight and no link it crosses retrains: `bad` bytes come before a line that cannot be corrected
(R388, R393). -/
def weightLoad (s : State) (bad : Option Nat) : State :=
  let d := s.dev
  if !d.wsBsy || inFlightLaunch s || stalled s 0 || behindLink s .h d.wssrc d.wslen ||
      linkHeld s .h ⟨.weight (d.wsdst / 2 ^ 32 % 4), 0⟩ then s
  else if moving s d.wssrc d.wslen then stall s 0
  else
    let off := d.wsdst % 2 ^ 29
    let s := weightCopy off (d.wsdst / 2 ^ 32 % 4) bad d.wslen d.wssrc off s
    modDev s fun d => { d with wsBsy := false }

def execWeightStoreLoad (bad : Option Nat) (s : State) : Res := .next (weightLoad s bad)

/-! ## Errors (R370, R390) -/

/-- A corrected error or wear event of a unit, or of the memory behind a die. -/
def correctedError (s : State) (u d : Option Nat) : State :=
  let s := match u with
    | some u => if u < unitCount then modCtr s fun c => { c with wear := kset c.wear u (min (2 ^ 32 - 1) (kgetD c.wear u 0 + 1)) } else s
    | none => s
  match d with
  | some d => addDie s d 6
  | none => s

def execCorrectedError (u d : Option Nat) (s : State) : Res := .next (correctedError s u d)

def execMemoryScrubbing (d : Nat) (fixed : Bool) (s : State) : Res := .next (addDie s d (if fixed then 6 else 7))

def execUncorr (l : Nat) (s : State) : Res :=
  .next (match launchAt? s l with
    | some x => if x.st == .running then replayLaunch s l .uncorr else s
    | none => s)

def execRegisterLaneError (p sl v lane : Nat) (s : State) : Res :=
  let hit (c : Crew) : Crew :=
    if c.pair == p && c.slot == sl && decide (v < c.vn) && decide (v < 127) && decide (lane < 32) then
      { c with poison := c.poison.setIfInBounds v (c.poison.getD v 0 ||| maskOf [lane]) }
    else c
  .next { s with cur := if s.cur.alive then hit s.cur else s.cur, crews := s.crews.map hit }

/-! ## Links, power and refresh (R24, R393, R394) -/

def execLinkRetrain (k : Nat) (s : State) : Res := .next (retrain s k)

/-- A link has retrained; what stalled on it goes on (R345, R393). -/
def execLinkRetrainComplete (k : Nat) (s : State) : Res :=
  .next (wakeStalls (modDev s fun d => { d with retraining := d.retraining.filter fun x => x != k }))

/-- The power limit in force. -/
def powerLimit (d : Dev) : Nat := if 300 ≤ d.plim && d.plim ≤ 1800 then d.plim else 1800

/-- The power manager's comparison: how far the duty falls is open. Coolant outside its limits holds it at 1 in 4 (log 34 DESIGN
CHOICE safe, log 40 DEDUCED unsafe). -/
def powerCheck (s : State) (w : Nat) : State :=
  let lim := powerLimit s.dev
  let s := modDev s fun d => { d with pwr := w }
  if lim < w then
    let c := choose s (s.dev.duty - 4)
    modDev c.2 fun d => { d with duty := if 4 < d.duty then 4 + c.1 else 4, cap := true }
  else if 100 * w < 95 * lim && !s.dev.coolantBad then
    modDev s fun d => { d with duty := min 16 (d.duty + 1), cap := d.cap && decide (d.duty + 1 < 16) }
  else s

def execPowerCheck (w : BitVec 16) (s : State) : Res := .next (powerCheck s w.toNat)

def execCoolantFault (s : State) : Res :=
  .next (report (modDev s fun d => { d with coolantBad := true, duty := 4, cap := true }) "COOLANT" [])

/-- After 1 s the device halts, and restarts with reason 6. -/
def execCoolantTimeout (s : State) : Res :=
  .next (if !s.dev.coolantBad then s
    else modDev (restart s) fun d => { d with mode := .halted, lsr := 6, restartDue := true })

def execCoolantRestored (s : State) : Res := .next (modDev s fun d => { d with coolantBad := false })

/-- A die's cycles pass until its next refresh epoch begins, or ends: they are not ordered against another die's (R15, log 41
DEDUCED safe). -/
def execRefreshEpoch (k : Nat) (s : State) : Res :=
  .next (if s.ctr.rfph.getD k 0 / 4096 = 31 then s
    else modCtr s fun c => { c with rfph := c.rfph.setIfInBounds k (31 * 4096) })
def execRefreshEpochEnd (k : Nat) (s : State) : Res :=
  .next (if s.ctr.rfph.getD k 0 / 4096 = 31 then modCtr s fun c => { c with rfph := c.rfph.setIfInBounds k 0 } else s)

/-! ## The host and the peers (R340) -/

/-- Host or peer bytes written through the page tables, when every page allows it; a read shows its bytes. -/
def outerAccess (s : State) (who : Option Nat) (va n : Nat) (data : Option (List Byte)) : State :=
  let held := match who with | some k => s.dev.retraining.contains k | none => s.dev.retraining.contains 20
  let acc : Acc := if data.isSome then .write else .read
  let len := match data with | some d => d.length | none => n
  match (List.range len).mapM fun i => match xlateFresh s acc (va + i) with | .ok pa _ => some pa | _ => none with
  | none => s
  | some ps =>
    if held || (List.range len).any (fun i => walkHeld s .h (va + i)) || ps.any (linkHeld s .h) ||
        (data.isSome && ps.any fun p => p.sp == .loc && outHeld s p.a) then s
    else match data with
      | some d => { (ps.zip d).foldl (fun s x => paWrite s x.1 x.2) s with wrote := s.wrote }
      | none => report s "READ" (va :: ps.map fun p => (paRead s p).toNat)

/-- A read or write by the host or a peer through the page tables, its bytes as the event brings them (log 52 DESIGN CHOICE safe). -/
def execHostPeerAccess (who : Option Nat) (va n : Nat) (data : Option (List (BitVec 8))) (s : State) : Res :=
  .next (outerAccess s who va n data)

/-! ## Host registers (R279, R318, R341, R362, R365, R384) -/

/-- A field of a value. -/
def bitsOf (w lo n : Nat) : Nat := w / 2 ^ lo % 2 ^ n

/-- A ring's registers. -/
def writeRing (s : State) (n at_ : Nat) (v : BitVec 64) : State :=
  let w := v.toNat
  let r := s.rings.getD n Ring.zero
  match at_ with
  | 0x00 => if r.en then s else modRing s n fun r => { r with rbase := w % 2 ^ 57 }
  | 0x08 => writeRcfg s n v
  | 0x10 => modRing s n fun r => { r with wptr := w % 2 ^ 32 }
  | 0x14 => if r.st = 2 || r.st = 3 then modRing s n fun r => { r with rptr := w % 2 ^ 32 } else s
  | 0x18 => if w % 4 = 1 then resumeRing s n else s
  | _ => s

/-- The translation registers. A dirty map may be placed where local memory has no byte (log 43 DESIGN CHOICE safe). -/
def writeXlate (s : State) (at_ : Nat) (v : BitVec 64) : Res :=
  let w := v.toNat
  let frame := bitsOf w 12 40 * 4096
  let va := bitsOf w 12 45 * 4096
  match at_ with
  | 0x00 => execPtrtWrite v s
  | 0x08 => .next (modXl s fun x => { x with fbn := if 1 ≤ w % 512 && w % 512 ≤ 256 then w % 512 else 64 })
  | 0x10 => .next (if s.xl.frl = 0 then modXl s fun x => { x with frb := va } else s)
  | 0x18 => .next (modXl s fun x => { x with frl := if 6 ≤ w % 16 && w % 16 ≤ 12 then w % 16 else 0 })
  | 0x20 => execFresResolve (v.setWidth 32) s
  | 0x28 => .next (if s.xl.sdBsy then s else modXl s fun x => { x with sdva := va })
  | 0x30 => .next (if s.xl.sdBsy then s else modXl s fun x => { x with sdln := w % 2 ^ 36 })
  | 0x38 => if w % 2 = 1 then execShootdownGo s else .next s
  | 0x40 => execMmrlRelease s
  | 0x48 => .next (modXl s fun x => { x with plal := bitsOf w 3 54 * 8 })
  | 0x50 => execPlacRefill v s
  | 0x60 => .next (if s.xl.ckBsy then s else modXl s fun x => { x with ckdm0 := frame })
  | 0x68 => .next (if s.xl.ckBsy then s else modXl s fun x => { x with ckdm1 := frame })
  | 0x70 => .next (if s.xl.ckBsy then s else modXl s fun x => { x with ckdst := va })
  | 0x78 => if w % 2 = 1 then execCkctGo s else .next s
  | _ => .next s

/-- The region registers. -/
def writeRegions (s : State) (at_ : Nat) (v : BitVec 64) : Res :=
  let w := v.toNat
  let r := w % 1024
  match at_ with
  | 0x00 => .next (if s.rg.bsy then s else { s with rg := { s.rg with rgtb := BitVec.ofNat 64 (bitsOf w 3 54 * 8) } })
  | 0x08 => if w % 2 = 1 then execCommitGo s else .next s
  | 0x18 =>
    let s := if bitsOf w 16 1 = 1 then clearRequest s r else s
    .next (if bitsOf w 17 1 = 1 then clearHolds s r else s)
  | _ => .next s

/-- The counters. -/
def writeCounters (s : State) (at_ w : Nat) : State :=
  if at_ = 0 then modCtr s fun c => { c with bEn := w % 2 == 1, bEdge := w / 2 % 2 == 1 }
  else if at_ = 0x10 then modCtr s fun c => { c with bdrop := 0 }
  else if at_ = 0x18 then modCtr s fun c => { c with bglt := 0 }
  else if 0x100 ≤ at_ && at_ < 0x200 && at_ % 8 = 0 then
    modCtr s fun c =>
      let k := (at_ - 0x100) / 0x40
      { c with die := c.die.setIfInBounds k ((c.die.getD k (Vector.replicate 8 0)).setIfInBounds (at_ % 0x40 / 8) (w % 2 ^ 48)) }
  else if 0x4000 ≤ at_ && at_ < 0x10000 && at_ % 8 = 0 then
    let i := at_ % 0x100 / 8
    modCore s ((at_ - 0x4000) / 0x100) fun c =>
      if i < 16 then { c with pme := c.pme.setIfInBounds i (BitVec.ofNat 64 (w % 512)) }
      else { c with pmc := c.pmc.setIfInBounds (i - 16) (w % 2 ^ 48) }
  else s

/-- `DCMD`: how long an image at `FWSRC` is, its header says, which is open here (log 42 DEDUCED unsafe). -/
def writeDcmd (s : State) (w : Nat) : State :=
  let s := if bitsOf w 1 1 = 1 then modDev s fun d => { d with rpl := false } else s
  if bitsOf w 2 1 = 1 then
    let n := choose s (2 ^ 26 + 1)
    loadFirmware n.2 n.1
  else if w % 2 = 1 then restart s else s

/-- The device-life registers. -/
def writeDevice (s : State) (at_ : Nat) (v : BitVec 64) : Res :=
  let w := v.toNat
  match at_ with
  | 0x08 => .next (writeDcmd s w)
  | 0x18 => .next (modDev s fun d => { d with fwsrc := bitsOf w 12 45 * 4096 })
  | 0x60 => .next (modDev s fun d => { d with atds := bitsOf w 8 49 * 256 })
  | 0x68 => .next (if w % 2 = 1 then attest s else s)
  | 0x80 => .next (if s.dev.ulEn then s else modDev s fun d => { d with ulb := bitsOf w 16 36 * 65536 })
  | 0x88 => .next (if s.dev.ulEn then s else modDev s fun d => { d with ulsz := w % 2 ^ 16 })
  | 0x90 =>
    let s := if bitsOf w 2 1 = 1 then rollBack s else if bitsOf w 1 1 = 1 then closeNow s else s
    .next (modDev s fun d => { d with ulEn := w % 2 == 1 })
  | 0xA0 => .next (modDev s fun d => { d with wssrc := bitsOf w 6 51 * 64 })
  | 0xA8 => .next (modDev s fun d => { d with wsdst := bitsOf w 6 23 * 64 + bitsOf w 32 2 * 2 ^ 32 })
  | 0xB0 => .next (modDev s fun d => { d with wslen := bitsOf w 6 24 * 64 })
  | 0xB8 => if w % 2 = 1 then execWsctGo s else .next s
  | 0xC8 => .next (modDev s fun d => { d with plim := w % 2 ^ 16 })
  | _ =>
    if 0x20 ≤ at_ && at_ < 0x60 && at_ % 8 = 0 then
      .next (modDev s fun d => { d with
        atnc := d.atnc.take (at_ - 0x20) ++ leBytes 8 w ++ d.atnc.drop (at_ - 0x20 + 8) })
    else .next s

/-- A host write at an offset of its window. None arrives while the link to the host retrains (R393). -/
def hostWrite (s : State) (off : Nat) (v : BitVec 64) : Res :=
  let w := v.toNat
  if s.dev.retraining.contains 20 then .next s
  else if off < 0x100 then writeDevice s off v
  else if 0x100000 ≤ off && off < 0x101000 then .next (writeRing s ((off - 0x100000) / 0x40) (off % 0x40) v)
  else if 0x110000 ≤ off && off < 0x110020 then writeRegions s (off - 0x110000) v
  else if 0x120000 ≤ off && off < 0x120088 then writeXlate s (off - 0x120000) v
  else if 0x132400 ≤ off && off < 0x132414 && off % 4 = 0 then
    .next (modCtr s fun c => { c with thresholds := c.thresholds.setIfInBounds ((off - 0x132400) / 4) (w % 2 ^ 32) })
  else if 0x140000 ≤ off && off < 0x150000 then .next (writeCounters s (off - 0x140000) w)
  else .next s

def execHostRegisterWrite (off : Nat) (v : BitVec 64) (s : State) : Res := hostWrite s off v

/-! ### Reads: write-only and reserved places read 0 -/

/-- The device-life registers (R384). -/
def readDevice (d : Dev) : Nat → Nat
  | 0x00 => dstat d
  | 0x10 => d.fwv
  | 0x18 => d.fwsrc
  | 0x60 => d.atds
  | 0x68 => 2 * d.atBsy.toNat
  | 0x80 => d.ulb
  | 0x88 => d.ulsz
  | 0x90 => d.ulEn.toNat
  | 0x98 => d.ulBsy.toNat + 2 * d.ulOvf.toNat + 4 * d.ulErr.toNat + 2 ^ 32 * d.ulNum
  | 0xA0 => d.wssrc
  | 0xA8 => d.wsdst
  | 0xB0 => d.wslen
  | 0xB8 => 2 * d.wsBsy.toNat + 4 * d.wsErr.toNat
  | 0xC0 => d.pwr
  | 0xC8 => d.plim
  | _ => 0

/-- A ring's registers (R279). -/
def readRing (r : Ring) : Nat → Nat
  | 0x00 => r.rbase
  | 0x08 => r.log2n + 2 ^ 5 * r.en.toNat + 2 ^ 6 * r.gate.toNat
  | 0x10 => r.wptr
  | 0x14 => r.rptr
  | 0x18 => r.st + 2 ^ 4 * r.credits
  | 0x1C => r.lgood
  | _ => 0

/-- The region registers (R318). -/
def readRegions (g : Regions) : Nat → Nat
  | 0x00 => g.rgtb.toNat
  | 0x10 => g.bsy.toNat + 2 * g.err.toNat + 2 ^ 8 * g.code + 2 ^ 16 * g.errRegion
  | _ => 0

/-- The translation registers (R341). -/
def readXlate (x : Xlate) : Nat → Nat
  | 0x00 => x.ptrt
  | 0x08 => x.fbn
  | 0x10 => x.frb
  | 0x18 => x.frl
  | 0x1C => x.frpi
  | 0x28 => x.sdva
  | 0x30 => x.sdln
  | 0x38 => 2 * x.sdBsy.toNat
  | 0x48 => x.plal
  | 0x58 => x.plBsy.toNat + 2 * x.plErr.toNat
  | 0x60 => x.ckdm0
  | 0x68 => x.ckdm1
  | 0x70 => x.ckdst
  | 0x80 => x.ckBsy.toNat + 2 * x.ckErr.toNat + 4 * x.sel.toNat + 2 ^ 32 * x.ckCount
  | _ => 0

/-- The counters (R365). -/
def readCounters (s : State) (at_ : Nat) : Nat :=
  if at_ = 0 then s.ctr.bEn.toNat + 2 * s.ctr.bEdge.toNat
  else if at_ = 0x08 then s.ctr.bpc.toNat
  else if at_ = 0x10 then s.ctr.bdrop
  else if at_ = 0x18 then s.ctr.bglt
  else if 0x100 ≤ at_ && at_ < 0x200 then
    (s.ctr.die.getD ((at_ - 0x100) / 0x40) (Vector.replicate 8 0)).getD (at_ % 0x40 / 8) 0
  else if 0x400 ≤ at_ && at_ < 0x2DC0 then kgetD s.ctr.wear ((at_ - 0x400) / 4) 0
  else if 0x4000 ≤ at_ && at_ < 0x10000 then
    let c := coreAt s ((at_ - 0x4000) / 0x100)
    let i := at_ % 0x100 / 8
    if i < 16 then (c.pme.getD i 0).toNat else c.pmc.getD (i - 16) 0
  else 0

/-- What the host reads at an offset of its window, as wide as the register or table entry that stands there. -/
def hostRead (s : State) (off : Nat) : Nat :=
  if off < 0x100 then readDevice s.dev off
  else if 0x100000 ≤ off && off < 0x101000 then readRing (s.rings.getD ((off - 0x100000) / 0x40) Ring.zero) (off % 0x40)
  else if 0x110000 ≤ off && off < 0x110020 then readRegions s.rg (off - 0x110000)
  else if 0x120000 ≤ off && off < 0x120088 then readXlate s.xl (off - 0x120000)
  else if 0x130000 ≤ off && off < 0x132400 then
    match (List.range unitCount).find? fun u => (unitEntry u).1 == off - 0x130000 with
    | some u => entryOf s u
    | none => 0
  else if 0x132400 ≤ off && off < 0x132414 then s.ctr.thresholds.getD ((off - 0x132400) / 4) 0
  else if 0x140000 ≤ off && off < 0x150000 then readCounters s (off - 0x140000)
  else 0

end Sys2Proof.Machine
end

