-- ==== Sys2Proof/Machine/Engine.lean ====
section
/-! DEFINITION. Matrix commands at issue, the rendezvous latch, and the engine that executes the operand queue (R150 to R172,
R296, R306 to R310). -/

namespace Sys2Proof.Machine

open Sys2Proof

/-! ## Shapes (R158) -/

def shM (s : Shape) : Nat := 16 * 2 ^ (s.val / 9)
def shN (s : Shape) : Nat := 16 * 2 ^ (s.val / 3 % 3)
def shK (s : Shape) : Nat := 32 * 2 ^ (s.val % 3)
def shM2 (s : Shape2) : Nat := 16 * 2 ^ (s.val / 3)
def shN2 (s : Shape2) : Nat := 16 * 2 ^ (s.val % 3)

/-! ## Crews and tiles as the engine finds them -/

/-- A crew with queued commands: resident, or retired with its tiles still held (R187). -/
def engCrew? (s : State) (cid : Nat) : Option Crew := (crew? s cid).or (s.ghosts.find? fun c => c.cid == cid)
/-- Such a crew changed. -/
def modEng (s : State) (cid : Nat) (f : Crew → Crew) : State :=
  let s := modCrew s cid f
  { s with ghosts := s.ghosts.map fun c => if c.cid == cid then f c else c }

/-- An element of a crew's tile. -/
def Crew.tile (c : Crew) (t i : Nat) : Nat := tileAt (c.tiles.getD t []) i
/-- A tile's `FT`. -/
def Crew.ftOf (c : Crew) (t : Nat) : Bool := c.ft.getLsbD t
/-- A tile from its elements. -/
def tileFrom (f : Nat → Nat) : Tile := (List.range 4096).filterMap fun i => if f i = 0 then none else some (i, f i)
/-- A tile replaced inside rows below `m` and columns below `n`. -/
def Crew.setTile (c : Crew) (t m n : Nat) (f : Nat → Nat → Nat) : Crew :=
  let old := c.tiles.getD t []
  { c with tiles := c.tiles.setIfInBounds t (tileFrom fun i =>
      if i / 64 < m && i % 64 < n then f (i / 64) (i % 64) else tileAt old i) }

/-- A tile element as a value: acc36, or int36 when `ft`. -/
def elemVal (ft : Bool) (x : Nat) : FVal := if ft then FVal.ofInt (toS 36 x) else acc36.decode x

/-- A sum into int36, and whether it clamped (R87). -/
def add36 (x : Nat) (z : Int) : Nat × Bool :=
  let r := clampS 36 (toS 36 x + z)
  (wrap 36 r.1, r.2)

/-! ## Faults (R171) -/

/-- The sub-code, with the offending offset. -/
abbrev Bad := Nat × Nat

/-- `KIND` and the bit of the major that a fault reports. -/
def EngCmd.origin : EngCmd → Nat
  | .arith k .. => 256 * k
  | .mzero .. => 256 * 1 + 4096
  | .mldw .. => 256 * 2 + 4096
  | .mdrnTs .. => 256 * 3 + 4096
  | .mdrnQ .. => 256 * 4 + 4096
  | .mdrnPeer .. => 256 * 5 + 4096
  | .mrow .. => 256 * 6 + 4096
  | .feed _ k _ _ => 256 * k + 8192
  | .mcfg .. | .gang .. | .nrq .. => 0

/-- A command at the head faults: it and its crews' younger commands in the queue are discarded, a request's future with its
registers unchanged, and the fault is recorded; a joint one among those goes whole (R171, R201, log 17 DEDUCED unsafe, log 66 DEDUCED
unsafe). -/
def matFault (s : State) (p : Nat) (k : EngCmd) (b : Bad) : State :=
  let gone := ((coreAt s p).opq.drop 1).filter fun x => x.cids.any fun i => k.cids.contains i
  let s := modCore s p fun c => { c with
    opq := (c.opq.drop 1).filter fun x => !(x.cids.any fun i => k.cids.contains i)
    nrqs := c.nrqs.filter fun r => !gone.contains (.nrq r.cid r.fut) }
  let s := gone.foldl (fun s x => match x with | .nrq cid fut => dropFut s cid fut | _ => s) s
  k.cids.foldl (fun s cid => recordImprec s cid ⟨.matf, b.2, 0, b.1 + k.origin, false, false, [], false⟩) s

/-- A precise MATF at issue: code and `KIND` of major 0x3D. -/
def matTrap (s : State) (code kind : Nat) : State := raise s { cause := .matf, info := code + 256 * kind + 4096 }

/-- The first fault found, the lowest sub-code first (log 18 DEDUCED unsafe). -/
def firstBad (l : List (Option Bad)) : Option Bad :=
  (l.filterMap id).foldl (fun (m : Option Bad) b => match m with
    | some a => if b.1 < a.1 then some b else some a
    | none => some b) none

/-! ## Operand words and stripes (R155 to R157) -/

/-- An operand word's fields. -/
structure OpWord where
  daddr : Nat
  saddr : Nat
  rp : Nat
  den : Nat
  rsvd : Nat
  deriving DecidableEq, Repr, Inhabited

def OpWord.of (w : Word) : OpWord :=
  let n := w.toNat
  ⟨n % 2 ^ 21, n / 2 ^ 21 % 2 ^ 21, n / 2 ^ 42 % 2 ^ 16, n / 2 ^ 58 % 2, n / 2 ^ 59⟩

/-- A stripe to be read: data and descriptor offsets, the data's size, and whether it stands for zeros (R164). -/
structure StripeRef where
  data : Nat
  desc : Nat
  size : Nat
  zero : Bool
  deriving DecidableEq, Repr, Inhabited

/-- Stripe `i` from an operand word's start. -/
def OpWord.stripe (o : OpWord) (z i : Nat) : StripeRef := ⟨o.daddr + i * z, o.saddr + 2 * i, z, false⟩

/-- The window of a crew's block. -/
def windowOf (s : State) (c : Crew) : Nat × Nat :=
  match blockAt? s c.block with | some b => (b.winBase, b.winSize) | none => (0, 0)

/-- A byte of the window. -/
def winByte (s : State) (c : Crew) (off : Nat) : Nat := ((coreAt s c.pair).tstore.read ((windowOf s c).1 + off)).toNat
/-- Bytes of the window. -/
def winNat (s : State) (c : Crew) (off n : Nat) : Nat := leNat ((coreAt s c.pair).tstore.bytes ((windowOf s c).1 + off) n)
/-- Bytes written in the window. -/
def winWrite (s : State) (c : Crew) (off : Nat) (bs : List Byte) : State :=
  let base := (windowOf s c).1
  modCore s c.pair fun k => { k with tstore := k.tstore.writes (base + off) bs }

/-- Is a stripe inside the window? -/
def stripeOut (s : State) (c : Crew) (r : StripeRef) : Option Bad :=
  let n := (windowOf s c).2
  if !r.zero && decide (n < r.data + r.size) then some (0x01, r.data)
  else if n < r.desc + 2 then some (0x01, r.desc) else none

/-- A stripe's type code. -/
def stripeType (s : State) (c : Crew) (r : StripeRef) : Nat := winByte s c (r.desc + 1)

/-- The classes of type codes: binary8, int8, two-byte floats, none. -/
def typeOk (e t : Nat) : Bool :=
  if e = 1 then decide (t < 0x1C) || t == 0x20 else t == 0x21 || t == 0x22

/-- The value of an element of a float type. -/
def typeVal (t b : Nat) : FVal :=
  if t < 0x1C then Fmt8.decode (BitVec.ofNat 5 t) b else if t = 0x21 then fp16.decode b else bf16.decode b

/-- A dense stripe's 32 elements. -/
def denseEls (s : State) (c : Crew) (r : StripeRef) (e : Nat) : List Nat :=
  if r.zero then List.replicate 32 0 else (List.range 32).map fun i => winNat s c (r.data + e * i) e

/-- Kept elements of a sparse stripe and their positions (R157). -/
def sparseEls (s : State) (c : Crew) (r : StripeRef) (e d : Nat) : List (Nat × Nat) :=
  let idx := winNat s c (r.data + d * e) (5 * d / 8)
  (List.range d).map fun n => (idx / 2 ^ (5 * n) % 32, winNat s c (r.data + e * n) e)

/-- Are positions strictly ascending? -/
def rising : List Nat → Bool
  | a :: b :: l => decide (a < b) && rising (b :: l)
  | _ => true

/-- A stripe as values: none where a sparse stripe omits the element. -/
def stripeVals (s : State) (c : Crew) (r : StripeRef) (e : Nat) (sparse : Option Nat) : List (Option FVal) :=
  let t := stripeType s c r
  let sc := if r.zero then 0x7F else winByte s c r.desc
  let val (b : Nat) : FVal := (typeVal t b).byScale sc
  match sparse with
  | none => (denseEls s c r e).map fun b => some (val b)
  | some d =>
    let ks := sparseEls s c r e d
    (List.range 32).map fun i => (ks.find? fun x => x.1 == i).map fun x => val x.2

/-- A stripe as int8 elements. -/
def stripeInts (s : State) (c : Crew) (r : StripeRef) (sparse : Option Nat) : List Int :=
  match sparse with
  | none => (denseEls s c r 1).map (toS 8)
  | some d =>
    let ks := sparseEls s c r 1 d
    (List.range 32).map fun i => match ks.find? fun x => x.1 == i with
      | some x => toS 8 x.2
      | none => 0

/-! ## Arithmetic commands (R92, R95, R163, R164) -/

/-- The bytes of a sparse record (R157). -/
def sparseSize (d e : Nat) : Nat := if d = 8 then 16 * e else 32 * e

/-- The product of two elements; one that is omitted gives zero, which the spec gives no sign: +0 (R92, R163, log 74 DESIGN CHOICE
unsafe). -/
def prodOf : Option FVal → Option FVal → FVal
  | some a, some b => a.mul b
  | _, _ => .fin false 0 0

/-- Products k of a stripe. -/
def products (a b : List (Option FVal)) : List FVal := (a.zip b).map fun x => prodOf x.1 x.2

/-- One stripe added under `VER` 5: an exact sum and one rounding (R92). -/
def accStripe5 (acc : Nat) (ps : List FVal) : Nat :=
  acc36.addV .ne (acc36.decode acc) (exactSum (ps.all (FVal.isZero true)) ps)

/-- An acc36 subnormal replaced by zero of its sign (R95). -/
def flush36 (x : Nat) : Nat := if x / 2 ^ 27 % 256 = 0 then x / 2 ^ 35 * 2 ^ 35 else x

/-- One group of 16 added under `VER` 4, rounded toward zero (R95). -/
def accGroup4 (acc : Nat) (ps : List FVal) : Nat :=
  flush36 (acc36.addV .rz (acc36.decode acc) (exactSum (ps.all (FVal.isZero true)) ps))

/-- One stripe under a version. -/
def accStripe (ver acc : Nat) (ps : List FVal) : Nat :=
  if ver = 4 then accGroup4 (accGroup4 acc (ps.take 16)) (ps.drop 16) else accStripe5 acc ps

/-- Stripes in ascending k. -/
def accStripes (ver : Nat) : Nat → List (List (Option FVal) × List (Option FVal)) → Nat
  | acc, [] => acc
  | acc, x :: l => accStripes ver (accStripe ver acc (products x.1 x.2)) l

/-- int8 stripes in ascending k, each exact sum clamped once; whether any clamped (R87, R92). -/
def accInts : Nat × Bool → List (List Int × List Int) → Nat × Bool
  | r, [] => r
  | r, x :: l =>
    let t := add36 r.1 (((x.1.zip x.2).map fun y => y.1 * y.2).sum)
    accInts (t.1, r.2 || t.2) l

/-- A virtual stripe of R164: row `r`, stripe `i`; a tap past the kernel is a fault. -/
def unfold (w0 : OpWord) (w1 w2 w3 : Word) (rp e r i : Nat) : Option StripeRef :=
  let f (w : Word) (lo n : Nat) : Nat := w.toNat / 2 ^ lo % 2 ^ n
  let h := f w1 0 16
  let wd := f w1 16 16
  let kh := f w2 0 4 + 1
  let kw := f w2 4 4 + 1
  let p := f w3 0 32 + r
  let ow := f w3 32 16
  let s' := f w3 48 16 + i
  let tap := s' / rp
  let cs := s' % rp
  if kh * kw ≤ tap then none
  else
    let iy : Int := ((p / ow * (f w2 8 3 + 1) + tap / kw * (f w2 14 3 + 1) : Nat) : Int) - (f w2 20 4 : Nat)
    let ix : Int := ((p % ow * (f w2 11 3 + 1) + tap % kw * (f w2 17 3 + 1) : Nat) : Int) - (f w2 24 4 : Nat)
    if 0 ≤ iy && iy < h && 0 ≤ ix && ix < wd then some (w0.stripe (32 * e) ((iy.toNat * wd + ix.toNat) * rp + cs))
    else some { w0.stripe (32 * e) cs with zero := true }

/-- The A and B stripes of a command: A by row, B by joint column, each in ascending k; or its first fault. `DEN` where it must be 0
is reported as a reserved bit (R155, R171, log 67 DEDUCED unsafe). -/
def operands (s : State) (c : Crew) (kind : Nat) (sh : Shape) (ops : List Word) (g : Nat) :
    Sum Bad (List (List StripeRef) × List (List StripeRef) × Option Nat) :=
  let e := if kind < 3 then 1 else 2
  let k3 := kind % 3
  let ks := (shK sh) / 32
  let wa := ops.getD 0 0
  let a := OpWord.of wa
  let b := OpWord.of (ops.getD (if k3 = 2 then 4 else 1) 0)
  let w1 := ops.getD 1 0
  let w2 := ops.getD 2 0
  let w3 := ops.getD 3 0
  let d := if b.den = 0 then 16 else 8
  let zb := if k3 = 1 then sparseSize d e else 32 * e
  let rpA := if a.rp = 0 then ks else a.rp
  let rpB := if b.rp = 0 then ks else b.rp
  let bRows := (List.range ((shN sh) * g)).map fun j => (List.range ks).map fun i => b.stripe zb (j * rpB + i)
  let aOpt : List (List (Option StripeRef)) := (List.range (shM sh)).map fun r => (List.range ks).map fun i =>
    if k3 = 2 then unfold a w1 w2 w3 rpA e r i else some (a.stripe (32 * e) (r * rpA + i))
  let aRows := aOpt.map fun r => r.filterMap id
  let all := aRows.flatten ++ bRows.flatten
  let limits := k3 == 2 && (w1.toNat % 2 ^ 16 == 0 || w1.toNat / 2 ^ 16 % 2 ^ 16 == 0 || w3.toNat / 2 ^ 32 % 2 ^ 16 == 0)
  let types := all.map fun r => (stripeType s c r, r.desc)
  let sparse := if k3 = 1 then some d else none
  let bad := firstBad
    ([all.findSome? (stripeOut s c),
      if a.daddr % (32 * e) != 0 then some (0x02, a.daddr) else none,
      if a.saddr % 2 != 0 then some (0x02, a.saddr) else none,
      if b.daddr % zb != 0 then some (0x02, b.daddr) else none,
      if b.saddr % 2 != 0 then some (0x02, b.saddr) else none,
      if a.rsvd != 0 || a.den != 0 || b.rsvd != 0 || (k3 != 1 && b.den != 0) then some (0x03, 0) else none,
      if k3 == 2 && (w1.toNat / 2 ^ 32 != 0 || w2.toNat / 2 ^ 28 != 0) then some (0x03, 0) else none,
      (types.find? fun t => !typeOk e t.1).map fun t => (0x04, t.2),
      if types.any (fun t => t.1 == 0x20) then (types.find? fun t => t.1 != 0x20).map fun t => (0x04, t.2) else none,
      if k3 = 1 then (bRows.flatten.find? fun r => !rising ((sparseEls s c r e d).map fun x => x.1)).map fun r => (0x06, r.data)
        else none,
      if limits || aOpt.flatten.any fun r => r.isNone then some (0x07, 0) else none])
  match bad with
  | some x => .inl x
  | none => .inr (aRows, bRows, sparse)

/-- Are the stripes int8? -/
def isInts (s : State) (c : Crew) (rows : List (List StripeRef)) : Bool :=
  rows.flatten.any fun r => stripeType s c r == 0x20

/-- An arithmetic command is executed for every member, each under the `VER` that its crew read at issue (R74, R163). A command whose
operands are at fault reports that, a tile's `FT` being compared only with operands that are not: a 0x06 or 0x07 goes before a 0x05
(log 18 DEDUCED unsafe). -/
def runArith (s : State) (p : Nat) (k : EngCmd) : State :=
  match k with
  | .arith kind shape mem ops owner =>
    (match engCrew? s owner with
     | none => modCore s p fun c => { c with opq := c.opq.drop 1 }
     | some c =>
       let sh : Shape := Fin.ofNat 27 shape
       let e := if kind < 3 then 1 else 2
       match operands s c kind sh ops mem.length with
       | .inl b => matFault s p k b
       | .inr (as, bs, sparse) =>
         let ints := isInts s c (as ++ bs)
         let ftBad := mem.any fun x => match engCrew? s x.1 with
           | some d => d.ftOf x.2.1 != ints
           | none => false
         if ftBad then matFault s p k (0x05, 0)
         else
           let s1 := modCore s p fun c => { c with opq := c.opq.drop 1 }
           let av := as.map fun r => r.map fun x => stripeVals s c x e none
           let bv := bs.map fun r => r.map fun x => stripeVals s c x e sparse
           let ai := as.map fun r => r.map fun x => stripeInts s c x none
           let bi := bs.map fun r => r.map fun x => stripeInts s c x sparse
           (mem.zipIdx).foldl (fun s x =>
             let cid := x.1.1
             let t := x.1.2.1
             let ver := x.1.2.2
             let col (j : Nat) : Nat := x.2 * (shN sh) + j
             match engCrew? s cid with
             | none => s
             | some d =>
               if ints then
                 let cell (r j : Nat) : Nat × Bool := accInts (d.tile t (64 * r + j), false) ((ai.getD r []).zip (bi.getD (col j) []))
                 let hit := (List.range (shM sh)).any fun r => (List.range (shN sh)).any fun j => (cell r j).2
                 flagCrew (modEng s cid fun c => c.setTile t (shM sh) (shN sh) fun r j => (cell r j).1) cid 1 hit
               else
                 modEng s cid fun c => c.setTile t (shM sh) (shN sh) fun r j =>
                   accStripes ver (d.tile t (64 * r + j)) ((av.getD r []).zip (bv.getD (col j) []))) s1)
  | _ => s

/-! ## Drains (R167) -/

/-- An element to a two-byte or four-byte float, rounded to nearest even (R167). -/
def drainFlt (f : Fmt) (v : FVal) : Nat := f.encode .ne v

/-- The scale of a binary8 stripe (R167). -/
def stripeScale (o : Nat) (vs : List FVal) : Nat :=
  let log : FVal → Option Int
    | .fin _ m e => if m = 0 then none else some ((m.log2 : Int) + e)
    | _ => none
  let big := (vs.filterMap log).foldl (fun (m : Option Int) x => some (match m with | some y => max x y | none => x)) none
  match big, log (Fmt8.decode (BitVec.ofNat 5 o) (Fmt8.maxCode (BitVec.ofNat 5 o))) with
  | some a, some b => (max 0 (min 0xFE (a - b + 127))).toNat
  | _, _ => 0x7F

/-- An output stripe of values: bytes, scale, and the flags `ISAT`, `B8SAT`, `B8OVF` (log 54 DEDUCED safe). -/
def drainStripe (o sh junk : Nat) (vs : List FVal) : List Byte × Nat × Bool × Bool × Bool :=
  if o < 0x1C then
    let e := stripeScale o vs
    let rs := vs.map fun v => Fmt8.convert (BitVec.ofNat 5 o) .ne true (v.scale (127 - (e : Int)))
    (rs.map (fun r => BitVec.ofNat 8 r.byte), e, false, rs.any fun r => r.sat, rs.any fun r => r.ovf)
  else if o = 0x20 then
    let rs := vs.map fun v => clampS 8 ((v.scale (-(sh : Int))).toInt .ne)
    (rs.map (fun r => BitVec.ofInt 8 r.1), junk, rs.any fun r => r.2, false, false)
  else
    let f := if o = 0x21 then fp16 else bf16
    (vs.flatMap (fun v => leBytes 2 (drainFlt f v)), 0x7F, false, false, false)

/-- A drain word's reserved bits and shift (R167). -/
def drainBad (w : Word) : Bool := w.toNat / 2 ^ 16 != 0 || decide (35 < w.toNat / 2 ^ 10 % 64)

/-- Elements of a drain set to zero (`CLR`). -/
def clearTile (s : State) (cid t m n : Nat) : State := modEng s cid fun c => c.setTile t m n fun _ _ => 0

/-- `mdrn.ts` (R167). Rows are written in ascending order, of each its stripes, and of a stripe its data before its descriptor: R167 gives
no order, which shows where the destination's pitch or its descriptors make them overlap (log 80 DESIGN CHOICE unsafe). -/
def runDrainTs (s : State) (p : Nat) (k : EngCmd) : State :=
  match k with
  | .mdrnTs cid t a b shape ord sc =>
    (match engCrew? s cid with
     | none => modCore s p fun c => { c with opq := c.opq.drop 1 }
     | some c =>
       let sh : Shape2 := Fin.ofNat 9 shape
       let w := OpWord.of a
       let n := b.toNat
       let o := n % 256
       let tr := n / 512 % 2 == 1
       let rows := if tr then (shN2 sh) else (shM2 sh)
       let cols := if tr then (shM2 sh) else (shN2 sh)
       let per := (cols + 31) / 32
       let rp := if w.rp = 0 then per else w.rp
       let z := if o = 0x21 || o = 0x22 then 64 else 32
       let refs := (List.range rows).flatMap fun r => (List.range per).map fun i => (r, i, w.stripe z (r * rp + i))
       let ft := c.ftOf t
       let typed := decide (o < 0x1C) || (o == 0x20 && ft) || o == 0x21 || o == 0x22
       let bad := firstBad
         [refs.findSome? fun x => stripeOut s c x.2.2,
          if w.daddr % z != 0 then some (0x02, w.daddr) else none,
          if w.saddr % 2 != 0 then some (0x02, w.saddr) else none,
          if w.rsvd != 0 || w.den != 0 || drainBad b then some (0x03, 0) else none,
          if !typed then some (0x04, 0) else none]
       match bad with
       | some x => matFault s p k x
       | none =>
         let s := modCore s p fun c => { c with opq := c.opq.drop 1 }
         let s := if ordAcq ord then acquireAt s p sc else s
         let val (r j : Nat) : FVal :=
           if cols ≤ j then .fin false 0 0
           else elemVal ft (if tr then c.tile t (64 * j + r) else c.tile t (64 * r + j))
         let s := refs.foldl (fun s x =>
           let junk := choose s 256
           let d := drainStripe o (n / 2 ^ 10 % 64) junk.1 ((List.range 32).map fun i => val x.1 (32 * x.2.1 + i))
           let s := if o = 0x20 then junk.2 else s
           let s := winWrite (winWrite s c x.2.2.data d.1) c x.2.2.desc [BitVec.ofNat 8 d.2.1, BitVec.ofNat 8 o]
           flagCrew (flagCrew (flagCrew s cid 0 d.2.2.1) cid 2 d.2.2.2.1) cid 3 d.2.2.2.2) s
         let s := if n / 256 % 2 = 1 then clearTile s cid t (shM2 sh) (shN2 sh) else s
         if ordRel ord then releaseAt s p sc else s)
  | _ => s

/-- An item for a result queue of a crew: none while the queue is full; discarded when the register no longer takes items
(R294, R295). -/
def pushItem (s : State) (cid q : Nat) (item : Lanes) : Option State :=
  match crew? s cid with
  | none => some s
  | some c =>
    let r := c.qregs.getD q default
    let unbinding := c.all.any fun f => f.park == .qbind q
    if !isResultQ r || unbinding then some s
    else if depthOf r ≤ r.count then none
    else
      let slot := soffOf r + 256 * ((r.head + r.count) % depthOf r + 1)
      let s := modBlock s c.block fun b => { b with scratch := b.scratch.writes slot (bytesOfLanes item) }
      some (modCrew s cid fun c => { c with qregs := c.qregs.setIfInBounds q { r with count := r.count + 1 } })

/-- FP32 elements as a register's lanes: element j at lane j div 2, sub-element j mod 2. -/
def lanesOfFp32 (f : Nat → Nat) : Lanes := mkLanes fun l => pack 32 [f (2 * l), f (2 * l + 1)]

/-- One item of `mdrn.q`; its last completes the command. -/
def runDrainQ (s : State) (p : Nat) (k : EngCmd) : State :=
  match k with
  | .mdrnQ cid t q b shape ord sc item =>
    (match engCrew? s cid with
     | none => modCore s p fun c => { c with opq := c.opq.drop 1 }
     | some c =>
       let sh : Shape2 := Fin.ofNat 9 shape
       if b.toNat / 512 != 0 || b.toNat % 256 != 0 then matFault s p k (0x03, 0)
       else
         let s := if item = 0 && ordAcq ord then acquireAt s p sc else s
         let x := lanesOfFp32 fun j => if j < (shN2 sh) then drainFlt fp32 (elemVal (c.ftOf t) (c.tile t (64 * item + j))) else 0
         match pushItem s cid q x with
         | none => s
         | some s =>
           let keep (e : Nat × Nat) : Bool := !(e.1 / 64 == item && decide (e.1 % 64 < shN2 sh))
           let s := if b.toNat / 256 % 2 = 1 then
               modEng s cid fun c => { c with tiles := c.tiles.setIfInBounds t ((c.tiles.getD t []).filter keep) }
             else s
           if item + 1 < (shM2 sh) then
             modCore s p fun c => { c with opq := .mdrnQ cid t q b shape ord sc (item + 1) :: c.opq.drop 1 }
           else
             let s := modCore s p fun c => { c with opq := c.opq.drop 1 }
             if ordRel ord then releaseAt s p sc else s)
  | _ => s

/-- `mdrn.peer` (R167, R172). It waits while its target is saved. -/
def runDrainPeer (s : State) (p : Nat) (k : EngCmd) : State :=
  match k with
  | .mdrnPeer cid t a b shape gang ord sc =>
    (match engCrew? s cid with
     | none => modCore s p fun c => { c with opq := c.opq.drop 1 }
     | some c =>
       let sh : Shape2 := Fin.ofNat 9 shape
       let idx := gang.toNat / 2 ^ (3 + 5 * (a.toNat % 8)) % 32
       let tile := a.toNat / 256 % 32
       if (s.saved.any fun v => v.block == c.block && v.idx == idx) || stalled s c.cid ||
           barBehind s (enginePort p) c.block b then s
       else if barStalls s c.block c.launch b then stall s c.cid
       else
         let peer := (allCrews s).find? fun d => d.block == c.block && d.idx == idx
         let gone := match peer with | some d => decide (d.tn ≤ tile) | none => true
         let bad := firstBad
           [if a.toNat / 2 ^ 13 != 0 || a.toNat / 8 % 32 != 0 then some (0x03, 0) else none,
            if gone then some (0x08, 0) else none,
            match peer with | some d => if !gone && d.ftOf tile != c.ftOf t then some (0x05, 0) else none | none => none]
         match bad, peer with
         | some x, _ => matFault s p k x
         | none, none => s
         | none, some d =>
           let s := if ordAcq ord then acquireAt s p sc else s
           let src (r j : Nat) : Nat := c.tile t (64 * r + j)
           let old (r j : Nat) : Nat := d.tile tile (64 * r + j)
           let s :=
             if c.ftOf t then
               let cell (r j : Nat) : Nat × Bool := add36 (old r j) (toS 36 (src r j))
               let hit := (List.range (shM2 sh)).any fun r => (List.range (shN2 sh)).any fun j => (cell r j).2
               flagCrew (modEng s d.cid fun x => x.setTile tile (shM2 sh) (shN2 sh) fun r j => (cell r j).1) d.cid 1 hit
             else
               modEng s d.cid fun x => x.setTile tile (shM2 sh) (shN2 sh) fun r j =>
                 acc36.addV .ne (acc36.decode (old r j)) (acc36.decode (src r j))
           match engBar s c.block b with
           | none => matFault s p k (0x09, 0)
           | some at_ =>
             let s := modCore s p fun c => { c with opq := c.opq.drop 1 }
             let s := if ordRel ord then releaseAt s p sc else s
             barSub s p c.launch at_ (4 * (shM2 sh) * (shN2 sh)))
  | _ => s

/-! ## Weight loads, row statistics, feed pushes -/

/-- Cycles that a load of `n` bytes stalls for a refresh of its die's weight store: up to 64 for each 256-byte read, in a refresh
epoch (R24, R168, R369, log 6 DESIGN CHOICE safe). -/
def refreshStall (s : State) (p n : Nat) : State :=
  if s.ctr.rfph.getD (dieOf p) 0 / 4096 = 31 then
    let r := choose s (64 * ((n + 255) / 256) + 1)
    modCore r.2 p fun c => countEvt c 0x0B r.1
  else s

/-- `mldw` (R168). -/
def runLdw (s : State) (p : Nat) (k : EngCmd) : State :=
  match k with
  | .mldw cid a b =>
    (match engCrew? s cid with
     | none => modCore s p fun c => { c with opq := c.opq.drop 1 }
     | some c =>
       let wo := a.toNat % 2 ^ 29
       let len := a.toNat / 2 ^ 32
       let off := b.toNat % 2 ^ 21
       let n := (windowOf s c).2
       let bad := firstBad
         [if len != 0 && (decide (n < off + len) || decide (0x200000 < len)) then some (0x01, off) else none,
          if len != 0 && decide (weightSize < wo + len) then some (0x01, wo) else none,
          if wo % 64 != 0 then some (0x02, wo) else none,
          if off % 64 != 0 || len % 64 != 0 then some (0x02, off) else none,
          if a.toNat / 2 ^ 29 % 8 != 0 || b.toNat / 2 ^ 21 != 0 || len == 0 then some (0x03, 0) else none]
       match bad with
       | some x => matFault s p k x
       | none =>
         let src := kgetD s.weights (dieOf p) []
         let base := (windowOf s c).1
         modCore (refreshStall s p len) p fun q => { q with opq := q.opq.drop 1, tstore := q.tstore.copyFrom (base + off) src wo len })
  | _ => s

/-- A row's maximum, sum and sum of squares as FP32; `neg`: of zeros of both signs that are the largest, a negative one is taken,
which the spec leaves open (R170, log 60 DESIGN CHOICE safe). -/
def rowStats (neg : Bool) (vs : List FVal) : Nat × Nat × Nat :=
  if vs.any FVal.isNan || (vs.any (FVal.isInf true) && vs.any (FVal.isInf false)) then
    (fp32.nanCode, fp32.nanCode, fp32.nanCode)
  else
    let mx := vs.foldl (fun (m : Option FVal) v => match m with
      | some x => if x.lt v then some v else some x
      | none => some v) none
    let top := mx.getD (.fin false 0 0)
    let top := if top.zero? && vs.any (FVal.isZero true) && vs.any (FVal.isZero false) then .fin neg 0 0 else top
    (fp32.encode .ne top, fp32.sum .ne vs, fp32.sum .ne (vs.map fun v => v.mul v))

/-- One item of `mrow`; it waits for power (R151, R170). -/
def runRow (s : State) (p : Nat) (k : EngCmd) : State :=
  match k with
  | .mrow cid t q shape item =>
    (match engCrew? s cid with
     | none => modCore s p fun c => { c with opq := c.opq.drop 1 }
     | some c =>
       if !(coreAt s p).rsOn then s
       else
         let sh : Shape2 := Fin.ofNat 9 shape
         let from_ := s.tick
         let s := { s with tick := s.tick + 64 }
         let row (r : Nat) : Nat :=
           if (shM2 sh) ≤ r then 0
           else
             let st := rowStats (Config.choice (from_ + r) % 2 == 1) ((List.range (shN2 sh)).map fun j => elemVal (c.ftOf t) (c.tile t (64 * r + j)))
             match item with | 0 => st.1 | 1 => st.2.1 | _ => st.2.2
         match pushItem s cid q (lanesOfFp32 row) with
         | none => s
         | some s => modCore s p fun c =>
             { c with opq := if item < 2 then .mrow cid t q shape (item + 1) :: c.opq.drop 1 else c.opq.drop 1 })
  | _ => s

/-- A binding's `TSO` moved on by 256; the last slot of a window of 2 MiB leaves it at 0, its 21 bits holding no more, where the spec
is silent (R296, log 75 DESIGN CHOICE unsafe). -/
def advanceTso (q : QReg) : QReg :=
  let t := (tsoOf q + 256) % 2 ^ 21
  { q with word := BitVec.ofNat 64 (q.word.toNat - tsoOf q * 2 ^ 10 + t * 2 ^ 10) }

/-- A feed push executed (R296). -/
def runFeed (s : State) (p : Nat) (k : EngCmd) : State :=
  match k with
  | .feed cid q item at_ =>
    (match engCrew? s cid with
     | none => modCore s p fun c => { c with opq := c.opq.drop 1 }
     | some c =>
       let off := at_.getD (tsoOf (c.qregs.getD q default))
       if (windowOf s c).2 < off + 256 then matFault s p k (0x01, off)
       else
         let s := winWrite (modCore s p fun c => { c with opq := c.opq.drop 1 }) c off (bytesOfLanes item)
         if at_.isSome then s
         else modEng s cid fun c => { c with qregs := c.qregs.setIfInBounds q (advanceTso (c.qregs.getD q default)) })
  | _ => s

/-- Does the module between an engine and its core retrain, which holds what they send each other, or power capping keep the cycle from
the engine (R13, R393, R394)? -/
def engineHeld (s : State) (p : Nat) : Bool :=
  s.dev.retraining.contains (16 + dieOf p) || (s.dev.duty < 16 && !(coreAt s p).engOn)

/-- The scope of the release that a command's completion is, if it is one (R219). -/
def EngCmd.release? : EngCmd → Option Scope
  | .mdrnTs _ _ _ _ _ ord sc => if ordRel ord then some sc else none
  | .mdrnQ _ _ _ _ _ ord sc _ => if ordRel ord then some sc else none
  | .mdrnPeer _ _ _ _ _ _ ord sc => if ordRel ord then some sc else none
  | _ => none

/-- The command at the head of the queue of pair `p` is executed, or waits: for its link, or for an `nrq` that went before it (R160,
R161, R308). -/
def engineStep (s : State) (p : Nat) : State :=
  match (coreAt s p).opq with
  | [] => s
  | k :: rest =>
    if engineHeld s p || !(coreAt s p).infq.isEmpty || k.release?.any (releaseHeld s p) then s
    else match k with
    | .arith .. => runArith s p k
    | .mzero cid t w =>
      if w.toNat / 2 != 0 then matFault s p k (0x03, 0)
      else
        modEng (modCore s p fun c => { c with opq := rest }) cid fun c => { c with
          tiles := c.tiles.setIfInBounds t [],
          ft := if w.toNat % 2 = 1 then c.ft ||| BitVec.ofNat 32 (2 ^ t) else c.ft &&& ~~~(BitVec.ofNat 32 (2 ^ t)) }
    | .mldw .. => runLdw s p k
    | .mdrnTs .. => runDrainTs s p k
    | .mdrnQ .. => runDrainQ s p k
    | .mdrnPeer .. => runDrainPeer s p k
    | .mrow .. => runRow s p k
    | .mcfg _ v => modCore s p fun c => { c with opq := rest, mcfg := v, rsOn := c.rsOn && v != 0 }
    | .gang _ => modCore s p fun c => { c with opq := rest }
    | .feed .. => runFeed s p k
    | .nrq .. => s

def execEngineCommandComplete (p : Nat) (s : State) : Res := .next (engineStep s p)

/-- The row-statistics engine is powered when its register asks for it (R151). -/
def execRsPowerUp (p : Nat) (s : State) : Res :=
  .next (if (coreAt s p).mcfg == 1 then modCore s p fun c => { c with rsOn := true } else s)

/-- The core's oldest push enters the operand queue once it has its value, pushes in the issue order of their instructions (R296,
R310). -/
def execFeedPush (p : Nat) (s : State) : Res :=
  let c := coreAt s p
  .next (match c.feeds with
    | f :: rest =>
      if f.fut != 0 || opqSize ≤ c.opq.length then s
      else modCore s p fun c => { c with feeds := rest, opq := c.opq ++ [.feed f.cid f.k f.item none] }
    | [] => s)

/-! ## Commands at issue (R159, R165 to R171) -/

/-- A command enters the operand queue. -/
def enqueue (s : State) (k : EngCmd) : State :=
  complete (modCore s s.cur.pair fun c => { c with opq := c.opq ++ [k] })

/-- The member indices' crews of a `GANG` value. -/
def gangMembers (g : Word) : List Nat := (List.range (g.toNat % 8)).map fun i => g.toNat / 2 ^ (3 + 5 * i) % 32

/-- An arithmetic command at issue: to the queue, or to the latch when joint, with the crew's count as its number (R159, R166, log
61 DEDUCED unsafe). -/
def arithStep (kind : Nat) (t : TReg) (ops : List CReg) (sh : Shape) (s : State) : State :=
  let k := s.cur
  let ws := ops.map fun r => getC s r
  let ver := k.nbv.toNat % 16
  if k.gang.toNat % 8 = 0 then enqueue s (.arith kind sh.val [(k.cid, t.val, ver)] ws k.cid)
  else
    let gone := match blockAt? s k.block with
      | some b => (gangMembers k.gang).any fun i => b.retired.contains i
      | none => false
    if gone then raise s { cause := .gangf }
    else
      let a : Arrival := ⟨k.idx, k.fr.fid, k.joint, k.gang, kind, sh.val, t.val, ws, ver⟩
      let s := modBlock s k.block fun b => { b with latch := b.latch ++ [a] }
      parkAs (modCur s fun c => { c with owes := if c.fr.handler then c.owes else none }) .latch

/-- The four registers of a parameter group. -/
def group4 (a : CReg) : List CReg := (List.range 4).map fun i => Fin.ofNat 64 (a.val + i)

def execMmaE8 (t : TReg) (a b : CReg) (sh : Shape) (s : State) : Res :=
  run (.mmaE8 t a b sh) s fun _ s => arithStep 0 t [a, b] sh s
def execMmasE8 (t : TReg) (a b : CReg) (sh : Shape) (s : State) : Res :=
  run (.mmasE8 t a b sh) s fun _ s => arithStep 1 t [a, b] sh s
def execMmauE8 (t : TReg) (a b : CReg) (sh : Shape) (s : State) : Res :=
  run (.mmauE8 t a b sh) s fun _ s => arithStep 2 t (group4 a ++ [b]) sh s
def execMmaE16 (t : TReg) (a b : CReg) (sh : Shape) (s : State) : Res :=
  run (.mmaE16 t a b sh) s fun _ s => arithStep 3 t [a, b] sh s
def execMmasE16 (t : TReg) (a b : CReg) (sh : Shape) (s : State) : Res :=
  run (.mmasE16 t a b sh) s fun _ s => arithStep 4 t [a, b] sh s
def execMmauE16 (t : TReg) (a b : CReg) (sh : Shape) (s : State) : Res :=
  run (.mmauE16 t a b sh) s fun _ s => arithStep 5 t (group4 a ++ [b]) sh s

/-- Is a `gang` value legal for the crew at issue (R153, R165)? -/
def gangOk (s : State) (w : Word) : Bool :=
  let n := w.toNat
  let g := n % 8
  let ms := gangMembers w
  let crews := match blockAt? s s.cur.block with | some b => b.crews | none => 1
  n == 0 || (decide (2 ≤ g) && decide (g ≤ 6) && n / 2 ^ 33 == 0 && n / 2 ^ (3 + 5 * g) == 0 &&
    (ms.all fun i => decide (i < crews)) && (distinct ms).length == g && ms.contains s.cur.idx)

def execGang (a : CReg) (s : State) : Res :=
  run (.gang a) s fun _ s =>
    let w := getC s a
    if gangOk s w then enqueue (modCur s fun c => { c with gang := w, joint := 0 }) (.gang s.cur.cid) else matTrap s 0x12 0

def execMzero (t : TReg) (a : CReg) (s : State) : Res :=
  run (.mzero t a) s fun _ s => enqueue s (.mzero s.cur.cid t.val (getC s a))
def execMldw (a b : CReg) (s : State) : Res :=
  run (.mldw a b) s fun _ s => enqueue s (.mldw s.cur.cid (getC s a) (getC s b))

/-- An engine command's issue under the acquire flag is a release by its crew (R219). -/
def cmdAcquire (s : State) (m : Mods) : State :=
  if ordAcq m.ord then releaseAt s s.cur.pair (scopeOf .device m.scp) else s

def execMdrnTs (t : TReg) (a b : CReg) (sh : Shape2) (s : State) : Res :=
  run (.mdrnTs t a b sh) s fun m s =>
    enqueue (cmdAcquire s m) (.mdrnTs s.cur.cid t.val (getC s a) (getC s b) sh.val m.ord (scopeOf .device m.scp))

/-- Is queue register `q` of the crew at issue a result queue? -/
def boundResult (s : State) (q : MReg) : Bool := isResultQ (s.cur.qregs.get q)

def execMdrnQ (t : TReg) (q : MReg) (b : CReg) (sh : Shape2) (s : State) : Res :=
  run (.mdrnQ t q b sh) s fun m s =>
    if boundResult s q then
      enqueue (cmdAcquire s m) (.mdrnQ s.cur.cid t.val q.val (getC s b) sh.val m.ord (scopeOf .device m.scp) 0)
    else matTrap s 0x13 4

def execMdrnPeer (t : TReg) (a b : CReg) (sh : Shape2) (s : State) : Res :=
  run (.mdrnPeer t a b sh) s fun m s =>
    let g := s.cur.gang.toNat % 8
    if g = 0 || g ≤ (getC s a).toNat % 8 then matTrap s 0x11 5
    else
      enqueue (cmdAcquire s m)
        (.mdrnPeer s.cur.cid t.val (getC s a) (getC s b) sh.val s.cur.gang m.ord (scopeOf .device m.scp))

def execMrow (t : TReg) (q : MReg) (sh : Shape2) (s : State) : Res :=
  run (.mrow t q sh) s fun _ s =>
    if (coreAt s s.cur.pair).mcfgHeld == 0 then matTrap s 0x10 6
    else if !boundResult s q then matTrap s 0x13 6
    else enqueue s (.mrow s.cur.cid t.val q.val sh.val 0)

/-! ## The latch (R166) -/

/-- The fragment behind an arrival of crew `cid` goes on, with its joint command counted. -/
def memberGoes (s : State) (cid fid : Nat) : State :=
  match (focusCid s cid).bind fun t => focusFrag t fid with
  | none => s
  | some t =>
    if t.cur.fr.park == .latch then modCur (completeParked (restamp t)) fun c => { c with joint := c.joint + 1 } else s

/-- The latch of block `b` compares the members of crew `n`'s first arrival that all have made (R166). -/
def latchStep (s : State) (b n : Nat) : State :=
  match blockAt? s b with
  | none => s
  | some x =>
    let ready (a : Arrival) : Bool := (gangMembers a.gang).all fun i => x.latch.any fun y => y.idx == i && y.num == a.num
    match x.latch.find? fun a => a.idx == n && ready a with
    | none => s
    | some a =>
      let ms := gangMembers a.gang
      let as := ms.filterMap fun i => x.latch.find? fun y => y.idx == i && y.num == a.num
      let cid? (i : Nat) : Option Nat := ((allCrews s).find? fun c => c.block == b && c.idx == i).map fun c => c.cid
      let cids := ms.filterMap cid?
      if cids.length < ms.length then s
      else
        let drop (s : State) : State := modBlock s b fun y => { y with latch := y.latch.filter fun z => !as.contains z }
        if as.all fun y => y.gang == a.gang && y.kind == a.kind && y.shape == a.shape then
          match x.pair, as with
          | some p, m0 :: _ =>
            if opqSize ≤ (coreAt s p).opq.length then s
            else
              let k : EngCmd := .arith m0.kind m0.shape (cids.zip (as.map fun y => (y.td, y.ver))) m0.ops (cids.headD 0)
              let s := modCore (drop s) p fun c => { c with opq := c.opq ++ [k] }
              (cids.zip as).foldl (fun s y => memberGoes s y.1 y.2.fid) s
          | _, _ => s
        else as.foldl (fun s y => latchFail s b y) (drop s)

def execLatchRelease (b n : Nat) (s : State) : Res := .next (latchStep s b n)

/-! ## Inference requests (R306 to R310) -/

def execNrq (d a : VReg) (n : CReg) (s : State) : Res :=
  run (.nrq d a n) s fun m s =>
    let w := getC s n
    let ins := groupOf a.val (if w.toNat / 2 ^ 61 % 2 = 1 then 16 else 8)
    consuming s (actOf s m) ins fun act s =>
      let s := cmdAcquire s m
      let id := fresh s
      let s := id.2
      let k := s.cur
      let outs := w.toNat / 2 ^ 57 % 16 + 1
      let s := modCur s fun c => { c with futs := c.futs ++ [⟨id.1, c.fr.fid, c.fr.po, [], .v d.val outs, .nrq act, []⟩] }
      let r : NrqReq :=
        { cid := k.cid, fut := id.1, act := act, word := w, inputs := ins.map fun r => k.vreg r, vd := d.val,
          ver := k.nbv.toNat % 16, ord := m.ord, scope := scopeOf .device m.scp, got := [] }
      enqueue (modCore s k.pair fun c => { c with nrqs := c.nrqs ++ [r] }) (.nrq k.cid id.1)

def execNrqDispatch (p : Nat) (s : State) : Res :=
  let c := coreAt s p
  .next (match c.opq with
    | .nrq cid fut :: rest =>
      if 16 ≤ c.infq.length then s
      else
        let (mine, others) := c.nrqs.partition fun r => r.cid == cid && r.fut == fut
        modCore s p fun c => { c with opq := rest, nrqs := others, infq := c.infq ++ mine }
    | _ => s)

/-- A layer of a descriptor (R307). -/
structure Layer where
  b : Word
  n : Nat
  act : Nat
  deriving DecidableEq, Repr, Inhabited

/-- The layers of a descriptor, or the sub-code 0x01, which `N` or `ACT` of 3 has too: R307 gives them no meaning and R309 no sub-code
(R307, R309, log 76 DESIGN CHOICE unsafe). -/
def layersOf (bs : List Byte) (nin : Nat) : Option (List Layer) :=
  let f (at_ n : Nat) : Nat := recNat bs at_ n
  let b0 := f 0 1
  let cnt := b0 % 4 + 1
  let layer (l : Nat) : Layer := ⟨BitVec.ofNat 64 (f (0x10 + 16 * l) 8), f (0x18 + 16 * l) 1 % 4, f (0x18 + 16 * l) 1 / 4 % 4⟩
  let tail (l : Nat) : Nat := f (0x18 + 16 * l) 8
  let used := (List.range 3).all fun l =>
    if l < cnt then tail l / 16 == 0 && decide ((layer l).n < 3) && decide ((layer l).act < 3)
    else f (0x10 + 16 * l) 16 == 0
  if b0 / 8 != 0 || b0 / 4 % 2 != nin || 3 < cnt || f 1 15 != 0 || !used then none
  else some ((List.range cnt).map layer)

/-- An activation (R308). -/
def activate (a : Nat) (x : Nat) : Nat :=
  match acc36.decode x with
  | .nan => x
  | _ =>
    if a = 0 then x
    else
      let y := acc36.minMax true x 0
      if a = 1 then y else acc36.minMax false y 0x3F8000000

/-- The `B` stripes of a layer. -/
def layerStripes (l : Layer) (k : Nat) (e : Nat) : List (List StripeRef) :=
  let w := OpWord.of l.b
  let ks := k / 32
  let rp := if w.rp = 0 then ks else w.rp
  (List.range (16 * 2 ^ l.n)).map fun j => (List.range ks).map fun i => w.stripe (32 * e) (j * rp + i)

/-- A layer's `K` from the one before it. -/
def layerKs (k0 : Nat) : List Layer → List Nat
  | [] => []
  | l :: r => k0 :: layerKs (16 * 2 ^ l.n) r

/-- The element size of a layer's stripes, from the first one's type. -/
def layerSize (s : State) (c : Crew) (l : Layer) : Nat :=
  let t := winByte s c ((OpWord.of l.b).saddr + 1)
  if t = 0x21 || t = 0x22 then 2 else 1

/-- What is wrong with a request's layers (R309). -/
def layersBad (s : State) (c : Crew) (k0 outr : Nat) (ls : List Layer) : Option Nat :=
  let ks := layerKs k0 ls
  let lastN := 16 * 2 ^ (ls.getLast?.getD default).n
  let per := (ls.zip ks).map fun x =>
    let w := OpWord.of x.1.b
    let e := layerSize s c x.1
    let rs := (layerStripes x.1 x.2 e).flatten
    let t (r : StripeRef) : Nat := stripeType s c r
    let rsv := w.rsvd != 0 || w.den != 0
    let out := (rs.findSome? (stripeOut s c)).isSome || w.daddr % (32 * e) != 0 || w.saddr % 2 != 0
    let kind := rs.any fun r => !(decide (t r < 0x1C) || t r == 0x21 || t r == 0x22) || (e == 1) != decide (t r < 0x1C)
    (rsv, out, kind)
  if per.any fun x => x.1 then some 0x01
  else if (ks.any fun k => k != 32 && k != 64) || lastN != 4 * outr then some 0x02
  else if per.any fun x => x.2.1 then some 0x03
  else if per.any fun x => x.2.2 then some 0x02
  else none

/-- One layer on 32 rows of FP16 (R308). -/
def runLayer (s : State) (c : Crew) (ver : Nat) (a : List (List Nat)) (l : Layer) (k : Nat) : List (List Nat) :=
  let e := layerSize s c l
  let bs := (layerStripes l k e).map fun r => r.map fun x => stripeVals s c x e none
  a.map fun row =>
    let av := (List.range (k / 32)).map fun i => ((row.drop (32 * i)).take 32).map fun x => some (fp16.decode x)
    bs.map fun col => fp16.encode .ne (acc36.decode (activate l.act (accStripes ver 0 (av.zip col))))

/-- Every layer in turn. -/
def runLayers (s : State) (c : Crew) (ver : Nat) (a : List (List Nat)) : List (Layer × Nat) → List (List Nat)
  | [] => a
  | x :: r => runLayers s c ver (runLayer s c ver a x.1 x.2) r

/-- A request leaves with its future; a fault is recorded (R309). -/
def nrqFault (s : State) (r : NrqReq) (code : Nat) : State :=
  let outs := r.word.toNat / 2 ^ 57 % 16 + 1
  recordImprec (dropFut s r.cid r.fut) r.cid ⟨.nrqf, 0, r.act, code, false, false, groupOf r.vd outs, false⟩

/-- Element `k` of 8 bytes of a request's descriptor as the engine reads it: under an acquire what the scope gives, else freely what
the core holds or what stands at the home (R207, R219, log 6 DESIGN CHOICE safe). -/
def descElem (s : State) (p : Nat) (r : NrqReq) (pa : PA) (k : Nat) : Nat × State :=
  match pa.sp with
  | .loc =>
    let bytes (f : Nat → Byte) : Nat := leNat ((List.range 8).map fun i => f (pa.a + 8 * k + i))
    if ordAcq r.ord then (bytes (readAt s p r.scope), s)
    else
      let old := choose s 2
      (bytes (if old.1 = 1 then homeRead s else readAt s p .device), old.2)
  | _ => (paNat s (pa.off (8 * k)) 8, s)

/-- The elements of a descriptor: those that have been read, the others now. -/
def descElems (s : State) (p : Nat) (r : NrqReq) (pa : PA) : Nat → List Byte × State
  | 0 => ([], s)
  | k + 1 =>
    let t := descElems s p r pa k
    let e := match kget r.got k with | some v => (v, t.2) | none => descElem t.2 p r pa k
    (t.1 ++ leBytes 8 e.1, e.2)

/-- Where a request's descriptor lies when the engine can read it now: no link and no migration holds it, and its line is sound. -/
def descPlace (s : State) (p : Nat) (r : NrqReq) : Option PA :=
  let va := r.word.toNat % 2 ^ 57
  if r.word.toNat / 2 ^ 62 != 0 || va % 64 != 0 || stalled s r.fut || engineHeld s p || behindLink s (enginePort p) va 64 then none
  else match xlateFresh s .read va with
    | .ok pa _ => if badAt s pa then none else some pa
    | _ => none

/-- Element `k` of the descriptor of request `fut`, the oldest of its pair, is read before the others (R207, R219). -/
def nrqElement (s : State) (cid fut k : Nat) : State :=
  match crew? s cid with
  | none => s
  | some c => match (coreAt s c.pair).infq with
    | [] => s
    | r :: rest =>
      if r.cid != cid || r.fut != fut || decide (8 ≤ k) || (kget r.got k).isSome then s
      else match descPlace s c.pair r with
        | none => s
        | some pa =>
          let s := if ordAcq r.ord then acquireAt s c.pair r.scope else s
          let e := descElem s c.pair r pa k
          modCore e.2 c.pair fun q => { q with infq := { r with got := (k, e.1) :: r.got } :: rest }

/-- The oldest inference request of pair `p` completes. A word whose address is not a multiple of 64 has no sub-code of its own: it is
reported as a reserved field is (R219, R308, R309, log 76 DESIGN CHOICE unsafe). -/
def nrqStep (s : State) (p : Nat) (bad : Bool) : State :=
  match (coreAt s p).infq with
  | [] => s
  | r :: rest =>
    let va := r.word.toNat % 2 ^ 57
    let nin := r.word.toNat / 2 ^ 61 % 2
    let outs := r.word.toNat / 2 ^ 57 % 16 + 1
    let x := xlateFresh s .read va
    if stalled s r.fut || engineHeld s p || behindLink s (enginePort p) va 64 || (ordRel r.ord && releaseHeld s p r.scope) then s
    else if x == .migrating then stall s r.fut
    else
      let s := modCore s p fun c => { c with infq := rest }
      match crew? s r.cid with
      | none => s
      | some c =>
        if r.word.toNat / 2 ^ 62 != 0 || va % 64 != 0 then nrqFault s r 0x01
        else match x with
        | .ok pa _ =>
          if bad || badAt s pa then nrqFault (countUncorr s [pa]) r 0x04
          else
            let s := if ordAcq r.ord then acquireAt s p r.scope else s
            let s := match pa.sp with | .loc => noteRead s c.launch pa.a | _ => s
            let d := descElems s p r pa 8
            let bs := d.1
            let s := d.2
            (match layersOf bs nin with
             | none => nrqFault s r 0x01
             | some ls =>
               let k0 := if nin = 1 then 64 else 32
               match layersBad s c k0 outs ls with
               | some code => nrqFault s r code
               | none =>
                 let row (l : Nat) : List Nat :=
                   if inMask r.act l then r.inputs.flatMap fun v => subs 16 (laneAt v l) else List.replicate k0 0
                 let out := runLayers s c r.ver ((List.range 32).map row) (ls.zip (layerKs k0 ls))
                 let s := modCrew s r.cid fun c => (List.range outs).foldl (fun c i =>
                   c.putV (r.vd + i) r.act (mkLanes fun l => pack 16 (((out.getD l []).drop (4 * i)).take 4)) 0) c
                 let s := if ordRel r.ord then releaseAt s p r.scope else s
                 dropFut s r.cid r.fut)
        | _ => nrqFault s r 0x04

def execNrqComplete (p : Nat) (bad : Bool) (s : State) : Res := .next (nrqStep s p bad)

end Sys2Proof.Machine
end

