-- ==== Sys2Proof/Machine/Rays.lean ====
section
/-! DEFINITION. The instructions of major 0x3E that reach grids, samples, textures and rays, and what their futures return
(R260 to R262, R270 to R277). -/

namespace Sys2Proof.Machine

open Sys2Proof

/-! ## Textures (R271, R272) -/

/-- A field of `n` bytes of a little-endian object. -/
def fieldAt (x off n : Nat) : Nat := x / 2 ^ (8 * off) % 2 ^ (8 * n)

/-- A texture descriptor's fields. -/
structure Tex where
  base : Nat
  w : Nat
  h : Nat
  pitch : Nat
  fmt : Nat
  sClamp : Bool
  tClamp : Bool
  deriving DecidableEq, Repr, Inhabited

/-- A descriptor from its bytes; none for one through which a sample is zero. A width or height above the limit of 16,384, for which R271
gives no result, is used as it stands (log 78 DESIGN CHOICE unsafe). -/
def Tex.of (x : Nat) : Option Tex :=
  let tam := fieldAt x 0x11 1
  if fieldAt x 0 8 / 2 ^ 57 != 0 || decide (3 < fieldAt x 0x10 1) || tam / 16 != 0 || fieldAt x 0x12 14 != 0 then none
  else some ⟨fieldAt x 0 8, fieldAt x 8 2, fieldAt x 0x0A 2, fieldAt x 0x0C 4, fieldAt x 0x10 1, tam % 4 != 0, tam / 4 % 4 != 0⟩

/-- Bytes of a texel. -/
def Tex.size (t : Tex) : Nat := match t.fmt with | 0 => 4 | 1 => 8 | 2 => 1 | _ => 16

/-- A side of length 0, of which the spec states no sample. -/
def Tex.void (t : Tex) : Bool := t.w == 0 || t.h == 0

/-- The two indices along one axis and the fraction in 256ths. -/
def texAxis (size : Nat) (clamp : Bool) (x : Nat) : Nat × Nat × Nat :=
  let v := fp32.decode (fma32 (fp32.decode x) (FVal.ofInt size) 0xBF000000)
  let lim : Int := 2 ^ 31
  let x8 : Int := match v with
    | .nan => 0
    | .inf neg => if neg then -lim else lim
    | v => max (-lim) (min lim ((v.scale 8).toInt .ne))
  let i := x8 / 256
  let at_ (k : Int) : Nat := if clamp then (min (max k 0) ((size : Int) - 1)).toNat else (k % (size : Int)).toNat
  (at_ i, at_ (i + 1), (x8 % 256).toNat)

/-- The four texels' addresses, and their weights in 65,536ths. -/
def Tex.taps (t : Tex) (s r : Nat) : List (Nat × Nat) :=
  let x := texAxis t.w t.sClamp s
  let y := texAxis t.h t.tClamp r
  let at_ (i j : Nat) : Nat := t.base + j * t.pitch + i * t.size
  [(at_ x.1 y.1, (256 - x.2.2) * (256 - y.2.2)), (at_ x.2.1 y.1, x.2.2 * (256 - y.2.2)),
   (at_ x.1 y.2.1, (256 - x.2.2) * y.2.2), (at_ x.2.1 y.2.1, x.2.2 * y.2.2)]

/-- Channel `k` of weighted texels, in FP16. -/
def Tex.channel (t : Tex) (xs : List (Nat × Nat)) (k : Nat) : Nat :=
  let sum8 (f : Nat → Nat) : Nat := fp16.ofRat .ne false ((xs.map fun x => x.2 * f x.1).sum) 255 (-16)
  let sumF (f : Nat → FVal) : Nat :=
    let vs := xs.map fun x => (f x.1).mul (.fin false x.2 (-16))
    fp16.encode .ne (exactSum (sumZeroSign .ne vs) vs)
  match t.fmt with
  | 0 => sum8 fun x => fieldAt x k 1
  | 1 => sumF fun x => fp16.decode (fieldAt x (2 * k) 2)
  | 2 => if k = 0 then sum8 fun x => x % 256 else if k = 3 then fp16.encode .ne (FVal.ofInt 1) else 0
  | _ => sumF fun x => fp32.decode (fieldAt x (4 * k) 4)

/-- A filtered sample: four FP16 channels. -/
def Tex.colour (t : Tex) (s r : Nat) (texels : List Nat) : Word :=
  let xs := texels.zip ((t.taps s r).map fun x => x.2)
  pack 16 ((List.range 4).map (t.channel xs))

/-- Does a sample through a descriptor read texels? -/
def readsTexels (desc : Nat) : Option Tex := (Tex.of desc).bind fun t => if t.void then none else some t

/-- A sample's value from its texels; through a void texture it is open (log 46 DEDUCED safe). -/
def sampleValue (s : State) (desc st : Nat × Nat) (texels : List Nat) : Word × State :=
  match Tex.of desc.1 with
  | none => (0, s)
  | some t =>
    if t.void then
      let r := choose s (2 ^ 64)
      (BitVec.ofNat 64 r.1, r.2)
    else (t.colour st.1 st.2 texels, s)

/-! ## Boxes and triangles (R273 to R275) -/

/-- A ray of one lane. -/
structure Ray where
  o : V3
  d : V3
  tmin : Nat
  tmax : Nat
  deriving DecidableEq, Repr, Inhabited

def rayOf (g : List Lanes) (l : Nat) : Ray :=
  let w (k h : Nat) : Nat := sub 32 (laneAt (g.getD k Lanes.zero) l) h
  { o := (w 0 0, w 0 1, w 1 0), tmin := w 1 1, d := (w 2 0, w 2 1, w 3 0), tmax := w 3 1 }

def nan32 (x : Nat) : Bool := (fp32.decode x).isNan
def Ray.nan (r : Ray) : Bool := nan32 r.tmin || nan32 r.tmax || !V3.all r.o (fun x => !nan32 x) || !V3.all r.d fun x => !nan32 x

/-- a − b over d, d not zero, rounded in one direction; none where infinities leave no value. -/
def slab (r : Rnd) (a b d : FVal) : Option FVal :=
  let num : Option FVal := match a, b with
    | .inf x, .inf y => if x == y then none else some (.inf x)
    | .inf x, _ => some (.inf x)
    | _, .inf y => some (.inf !y)
    | _, _ => some (exactSum false [a, b.negate])
  match num, d with
  | some (.inf _), .inf _ => none
  | some (.inf x), .fin n _ _ => some (.inf (x != n))
  | some _, .inf _ => some (.fin false 0 0)
  | some v, w => some (fp32.decode (fp32.ofQ r (v.toQ.div w.toQ)))
  | none, _ => none

/-- The lesser and the greater of two values. -/
def FVal.least (a b : FVal) : FVal := if b.lt a then b else a
def FVal.most (a b : FVal) : FVal := if a.lt b then b else a

/-- An axis of a box test: missed, a range, or no stated result. -/
inductive AxisHit where
  | miss
  | range (n f : FVal)
  | unstated
  deriving DecidableEq, Repr, Inhabited

def axisTest (lo hi o d : Nat) : AxisHit :=
  let l := fp32.decode lo
  let h := fp32.decode hi
  let x := fp32.decode o
  let v := fp32.decode d
  if v.zero? then (if x.lt l || h.lt x then .miss else .range (.inf true) (.inf false))
  else match slab .rd l x v, slab .rd h x v, slab .ru l x v, slab .ru h x v with
    | some a, some b, some c, some e => .range (a.least b) (c.most e)
    | _, _, _, _ => .unstated

/-- A child of a node, tested: where the ray enters it, when it does. `open_` decides what no rule states. -/
def childTest (node : Nat) (r : Ray) (open_ : Option FVal) (c : Nat) : Option FVal :=
  let f (k : Nat) : Nat := fieldAt node (24 * c + 4 * k) 4
  let bad := (List.range 6).any (fun k => nan32 (f k)) || (List.range 3).any fun k => (fp32.decode (f (k + 3))).lt (fp32.decode (f k))
  if fieldAt node (0x60 + 8 * c) 8 / 2 ^ 63 = 0 || bad || r.nan then none
  else
    let hits := (List.range 3).map fun k => axisTest (f k) (f (k + 3)) (r.o.at_ k) (r.d.at_ k)
    if hits.contains .miss then none
    else if hits.contains .unstated then open_
    else
      let go (acc : FVal × FVal) (h : AxisHit) : FVal × FVal := match h with
        | .range n x => (acc.1.most n, acc.2.least x)
        | _ => acc
      let e := hits.foldl go (fp32.decode r.tmin, fp32.decode r.tmax)
      if e.2.lt e.1 then none else some e.1

/-- What `rbox` writes for a lane (R274). -/
def boxResult (node : Nat) (r : Ray) (open_ : Nat → Option FVal) : Word :=
  let hits := (List.range 4).filterMap fun c => (childTest node r (open_ c) c).map fun e => (c, e)
  let order := (sortBy (fun a b => !b.2.lt a.2) hits).map fun x => x.1
  BitVec.ofNat 64 (hits.length + ((order.zipIdx).map fun x => x.1 * 2 ^ (8 + 2 * x.2)).sum)

/-- A triangle's test: a miss, the exact t, β1 and β2, or, where some number is infinite, what has a value: whether it is a hit for
certain, t's encoding, β1 and β2. -/
inductive TriHit where
  | miss
  | hit (t b1 b2 : Q)
  | ext (sure : Bool) (t : Option Nat) (b1 b2 : Option Q)
  deriving DecidableEq, Repr, Inhabited

/-- x between a lower and an upper encoding. -/
def between (lo : Nat) (x : Q) (hi : Nat) : Bool :=
  (match fp32.decode lo with | .inf neg => neg | v => v.toQ.le x) && match fp32.decode hi with | .inf neg => !neg | v => x.le v.toQ

/-- A quotient of numbers that may be infinite: a number, an infinity with its sign, or none. -/
def extDiv : FVal → FVal → Option (Except Bool Q)
  | .nan, _ | _, .nan | .inf _, .inf _ => none
  | .fin .., .inf _ => some (.ok (Q.int 0))
  | .inf a, .fin b .. => some (.error (a != b))
  | a, b => some (.ok (a.toQ.div b.toQ))

/-- A triangle's test with an infinity in it: a condition of R275 that has a value and fails makes a miss, all of them with a value that
holds a hit, and what has no value is open (log 46 DEDUCED safe). -/
def triExt (tri : Nat) (r : Ray) : TriHit :=
  let minus (a b : FVal) : FVal := exactSum false [a, b.negate]
  let p (v k : Nat) : FVal := fp32.decode (fieldAt tri (12 * v + 4 * k) 4)
  let e1 (k : Nat) : FVal := minus (p 1 k) (p 0 k)
  let e2 (k : Nat) : FVal := minus (p 2 k) (p 0 k)
  let w (k : Nat) : FVal := minus (fp32.decode (r.o.at_ k)) (p 0 k)
  let d (k : Nat) : FVal := fp32.decode (r.d.at_ k)
  let cross (a b : Nat → FVal) (k : Nat) : FVal :=
    minus ((a ((k + 1) % 3)).mul (b ((k + 2) % 3))) ((a ((k + 2) % 3)).mul (b ((k + 1) % 3)))
  let dot (a b : Nat → FVal) : FVal := exactSum false ((List.range 3).map fun k => (a k).mul (b k))
  let det := dot e1 (cross d e2)
  let un := dot w (cross d e2)
  let vn := dot d (cross w e1)
  let sum := exactSum false [un, vn]
  let zero : FVal := .fin false 0 0
  let sg (x : FVal) : FVal := if det.lt zero then x.negate else x
  let t := extDiv (dot e2 (cross w e1)) det
  let when (x : FVal) (b : Bool) : Option Bool := if det.isNan || x.isNan then none else some b
  let conds : List (Option Bool) :=
    [when det !det.zero?, when un !(sg un).lt zero, when vn !(sg vn).lt zero, when sum !(sg det).lt (sg sum),
     t.map fun q => match q with
       | .ok q => between r.tmin q r.tmax
       | .error neg => if neg then fp32.decode r.tmin == .inf true else fp32.decode r.tmax == .inf false]
  let beta (x : FVal) : Option Q := match extDiv x det with | some (.ok q) => some q | _ => none
  if det.zero? || conds.contains (some false) then .miss
  else .ext (conds.all Option.isSome) (t.map fun q => match q with
    | .ok q => fp32.ofQ .ne q
    | .error neg => inf32 + if neg then 2 ^ 31 else 0) (beta un) (beta vn)

/-- A triangle's test (R275). -/
def triTest (tri : Nat) (r : Ray) : TriHit :=
  let f (v k : Nat) : Nat := fieldAt tri (12 * v + 4 * k) 4
  let all := (List.range 9).map fun k => f (k / 3) (k % 3)
  if r.nan || all.any nan32 then .miss
  else if !(all ++ (List.range 3).map r.o.at_ ++ (List.range 3).map r.d.at_).all fin32 then
    triExt tri r
  else
    let p (v k : Nat) : Q := q32 (f v k)
    let e1 (k : Nat) : Q := (p 1 k).sub (p 0 k)
    let e2 (k : Nat) : Q := (p 2 k).sub (p 0 k)
    let w (k : Nat) : Q := (q32 (r.o.at_ k)).sub (p 0 k)
    let d (k : Nat) : Q := q32 (r.d.at_ k)
    let cross (a b : Nat → Q) (k : Nat) : Q :=
      ((a ((k + 1) % 3)).mul (b ((k + 2) % 3))).sub ((a ((k + 2) % 3)).mul (b ((k + 1) % 3)))
    let dot (a b : Nat → Q) : Q := Q.sum ((List.range 3).map fun k => (a k).mul (b k))
    let det := dot e1 (cross d e2)
    if det.n = 0 then .miss
    else
      let b1 := (dot w (cross d e2)).div det
      let b2 := (dot d (cross w e1)).div det
      let t := (dot e2 (cross w e1)).div det
      if 0 ≤ b1.n && 0 ≤ b2.n && (b1.add b2).le (Q.int 1) && between r.tmin t r.tmax then .hit t b1 b2 else .miss

/-- The two registers of a miss, and of a hit (R275). -/
def triMiss : Word × Word := (BitVec.ofNat 64 (inf32 + 2 ^ 32 * 0xFFFFFFFF), 0)
def triPair (tri : Nat) (t b1 b2 : Q) : Word × Word :=
  let e (q : Q) : Nat := fp32.ofQ .ne q
  (pack 32 [e t, fieldAt tri 0x24 4], pack 32 [e b1, e b2])

/-- The address of a triangle's texture descriptor, 0 for none. -/
def triDesc (tri : Nat) : Nat := fieldAt tri 0x38 8

/-- A texture coordinate of a hit: the exact mix of FP16 coordinates, rounded once. -/
def triCoord (tri : Nat) (b1 b2 : Q) (k : Nat) : Nat :=
  let v (i : Nat) : FVal := fp16.decode (fieldAt tri (0x2C + 4 * i + 2 * k) 2)
  let ws := [((Q.int 1).sub b1).sub b2, b1, b2]
  if (List.range 3).all fun i => (v i).isFin then
    fp32.ofQ .ne (Q.sum ((List.range 3).map fun i => (ws.getD i (Q.int 0)).mul (v i).toQ))
  else
    let terms := (List.range 3).map fun i =>
      let w := ws.getD i (Q.int 0)
      (FVal.fin (decide (w.n < 0)) w.n.natAbs 0).mul (v i)
    fp32.encode .ne (exactSum false terms)

/-! ## Grids and samples -/

/-- A bucket in flight of a launch. -/
def bucket? (s : State) (lid b : Nat) : Option Bucket :=
  (s.renders.find? fun r => r.lid == lid).bind fun r => r.flight.find? fun x => x.bix == b
/-- One changed. -/
def modRender (s : State) (lid : Nat) (f : Render → Render) : State :=
  { s with renders := s.renders.map fun r => if r.lid == lid then f r else r }
def modBucket (s : State) (lid b : Nat) (f : Bucket → Bucket) : State :=
  modRender s lid fun r => { r with flight := r.flight.map fun x => if x.bix == b then f x else x }

/-- The grid that a crew shades. -/
def crewGrid (s : State) (c : Crew) : Option Grid :=
  match c.kind with
  | .vertex b g => (bucket? s c.launch b).bind fun x => x.grids.find? fun y => y.num == g
  | _ => none

/-- A grid of a bucket changed. -/
def modGrid (s : State) (lid b g : Nat) (f : Grid → Grid) : State :=
  modBucket s lid b fun x => { x with grids := x.grids.map fun y => if y.num == g then f y else y }

/-- Does a crew shade a grid, or resolve a bucket? -/
def Crew.isVertex (c : Crew) : Bool := match c.kind with | .vertex .. => true | _ => false
def Crew.isResolve (c : Crew) : Bool := match c.kind with | .resolve _ => true | _ => false

/-- Register `k` of attribute K of a vertex (R261). -/
def grdvValue (g : Grid) (att x k : Nat) : Word :=
  match g.verts[x]? with
  | none => 0
  | some v =>
    let group (p : V3) : Word := if k = 0 then pack 32 [p.at_ 0, p.at_ 1] else pack 32 [p.at_ 2, 0]
    match att with
    | 0 => group v.p0
    | 1 => group v.p1
    | 2 => group v.ds
    | 3 => group v.dt
    | 4 => group v.n
    | 5 => pack 32 [v.s, v.t]
    | 6 => pack 32 [g.pid, g.attr]
    | _ => pack 16 [x % (g.nu + 1), x / (g.nu + 1), g.nu, g.nv]

/-- Register `k` of sample `n` of pixel `p` of a bucket (R270). -/
def rsubValue (cam : Cam) (b : Bucket) (p n k : Nat) : Word :=
  let px := b.bix % cam.cols * cam.b + p % cam.b
  let py := b.bix / cam.cols * cam.b + p / cam.b
  let x := if cam.b * cam.b ≤ p || cam.iw ≤ px || cam.ih ≤ py || cam.spp ≤ n then blankSample
    else sampleAt b.samples (p * cam.spp + n)
  if k = 0 then BitVec.ofNat 64 x.1 else BitVec.ofNat 64 x.2

/-! ## Issue -/

/-- A render future on registers from `d` (R260). -/
def addJob (s : State) (d : VReg) (n : Nat) (act : Mask) (job : RJob) (bytes : List (PA × Nat)) : State :=
  complete (addFut s (.v d.val n) (.render act job) bytes false)

/-- Aligned and translated reads of the lanes, or their cause (R229, R260). -/
def renderReads (s : State) (ls : List (Nat × Nat)) (n : Nat) (k : List LaneAcc → State → State) : State :=
  match misaligned n ls with
  | b :: bs => raise s (laneTrap .misalign (b :: bs))
  | [] =>
    let r := translateLanes s .read 0 (ls.map fun l => (l.1, l.2, 0))
    match r.1 with
    | .trap t => raise r.2 t
    | .wait => parkAs r.2 .migrate
    | .ok ls => k ls r.2

/-- Is the line of a triangle or a descriptor that is read at issue uncorrectable (R232, R390)? -/
def headLost (s : State) (p : Nat) (l : LaneAcc) : Bool := laneBad s p .block (if l.va % 64 == 0 then 64 else 32) l

/-- A read made at issue, once the accesses that go before it are done; until then the state is `s0` (R209, R213). Of an uncorrectable
line nothing is read: the lane's result is poison (R232). -/
def readNow (s0 s : State) (ls : List LaneAcc) (n : Nat) (k : List (Nat × Nat) → State → State) : State :=
  if !(depsFor s s.cur s.cur.fr.po (bytesOf ls n) false).isEmpty || ls.any (laneHeld s s.cur.pair .block n) then s0
  else
    let r := readLanes s s.cur.pair s.cur.launch .block n (ls.filter fun l => !headLost s s.cur.pair l)
    k r.1 r.2

/-- The address in bits [56:0] of a register, by lane. -/
def addr57 (s : State) (v : VReg) (act : Mask) : List (Nat × Nat) :=
  (lanesOf act).map fun l => (l, (laneAt (getV s v) l).toNat % 2 ^ 57)

/-- A ray group's registers. -/
def rayRegs (s : State) (g : VReg) : List Lanes := (List.range 4).map fun k => s.cur.vreg (g.val + k)

def execGrdv (d : VReg) (a : AReg) (k : MReg) (s : State) : Res :=
  run (.grdv d a k) s fun m s =>
    if !s.cur.isVertex then illegal s
    else addJob s d (if k.val ≤ 4 then 2 else 1) (actOf s m) (.grdv (getA s a) k.val) []

/-- The vertices that lanes name, those of the grid. -/
def laneVerts (ix : Affine) (v : Nat) (act : Mask) : List (Nat × Nat) :=
  ((lanesOf act).map fun l => (l, (affineAt ix l).toNat)).filter fun x => decide (x.2 < v)

/-- Does a `grdv` of the same attribute of one of these vertices still wait (log 47 DEDUCED unsafe)? -/
def grdvWaits (c : Crew) (v k : Nat) (xs : List (Nat × Nat)) : Bool :=
  c.futs.any fun f => match f.kind with
    | .render act (.grdv ix j) => j == k && (laneVerts ix v act).any fun y => xs.any fun x => x.2 == y.2
    | _ => false

/-- A vertex's record after a lane's write (R262). -/
def writeVert (db k : Nat) (v : Vert) (a b : Word) : Vert :=
  let new (diced : V3) : V3 := V3.of fun i => clampTo db (diced.at_ i) (if i = 0 then sub 32 a 0 else if i = 1 then sub 32 a 1 else sub 32 b 0)
  match k with
  | 0 => { v with p0 := new v.d0 }
  | 1 => { v with p1 := new v.d1 }
  | _ => { v with col := a }

/-- `grdw` on a grid: of several lanes that name one vertex, which writes is open (R262, log 49 DEDUCED safe). -/
def writeGrid (s : State) (g : Grid) (k : Nat) (xs : List (Nat × Nat)) (v0 v1 : Lanes) : Grid :=
  { g with verts := g.verts.zipIdx.map fun y =>
      match xs.filter fun x => x.2 == y.2 with
      | [] => y.1
      | l :: ls =>
        let w := ((l :: ls).getD (Config.choice (s.tick + y.2) % (ls.length + 1)) l).1
        writeVert g.db k y.1 (laneAt v0 w) (laneAt v1 w) }

/-- Do a spilled grid's bytes lie behind a link that retrains, from a port, or in a page that migrates (R23, R258, R345, R393)? -/
def gridHeld (s : State) (from_ : Port) (g : Grid) : Bool := g.spilled.any fun a => mustWait s from_ a g.bytes

/-- `grdw` waits for earlier acquires of its crew, and for a `grdv` that is to see what stood before (R213, R261, R262). -/
def execGrdw (v : VReg) (a : AReg) (k : MReg) (s : State) : Res :=
  run (.grdw v a k) s fun m s =>
    if !s.cur.isVertex then illegal s
    else consuming s (actOf s m) (if k.val ≤ 1 then [v.val, v.val + 1] else [v.val]) fun act s =>
      match crewGrid s s.cur, s.cur.kind with
      | some g, .vertex b n =>
        let xs := laneVerts (getA s a) g.vertices act
        if gridHeld s (corePort s.cur.pair) g || (k.val ≤ 1 && grdvWaits s.cur g.vertices k.val xs) || !(depsFor s s.cur s.cur.fr.po [] false).isEmpty then s
        else
          let new := writeGrid s g k.val xs (getV s v) (s.cur.vreg (v.val + 1))
          let s := { s with tick := s.tick + g.vertices }
          complete (modGrid s s.cur.launch b n fun _ => new)
      | _, _ => complete s

def execRsub (d : VReg) (a : AReg) (c : CReg) (s : State) : Res :=
  run (.rsub d a c) s fun m s =>
    if !s.cur.isResolve then illegal s
    else addJob s d 2 (actOf s m) (.rsub (getA s a) (getC s c)) []

/-- The texel reads of lanes that sample a descriptor each at its own coordinates. -/
def texelAddrs (ls : List (Nat × Nat × Nat × Nat)) : List (Nat × Nat) :=
  ls.flatMap fun x => match readsTexels x.2.1 with
    | some t => (t.taps x.2.2.1 x.2.2.2).map fun y => (x.1, y.1)
    | none => []

/-- Texels misaligned by their own size (R260). -/
def texelsBad (ls : List (Nat × Nat × Nat × Nat)) : List (Nat × Nat) :=
  ls.flatMap fun x => match readsTexels x.2.1 with
    | some t => misaligned t.size ((t.taps x.2.2.1 x.2.2.2).map fun y => (x.1, y.1))
    | none => []

/-- A texel's bytes as a place: those of its own size that are read. -/
def texelReads (s : State) (ls : List (Nat × Nat × Nat × Nat)) (k : List LaneAcc → State → State) : State :=
  match texelsBad ls with
  | b :: bs => raise s (laneTrap .misalign (b :: bs))
  | [] => renderReads s (texelAddrs ls) 1 k

def execSamp (d a : VReg) (c : CReg) (s : State) : Res :=
  run (.samp d a c) s fun m s0 =>
    consuming s0 (actOf s0 m) [a.val] fun act s =>
      let at_ := (getC s c).toNat
      renderReads s ((lanesOf act).map fun l => (l, at_)) 32 fun ds s1 =>
        readNow s s1 (ds.take 1) 32 fun got s2 =>
          let desc := (got.headD (0, 0)).2
          let st := getV s2 a
          let ls := (lanesOf act).map fun l => (l, desc, sub 32 (laneAt st l) 0, sub 32 (laneAt st l) 1)
          texelReads s2 ls fun ts s3 => addJob s3 d 1 act (.samp desc st ts ds) (bytesOf ts 16)

def execRbox (d g n : VReg) (s : State) : Res :=
  run (.rbox d g n) s fun m s =>
    consuming s (actOf s m) (n.val :: groupOf g.val 4) fun act s =>
      renderReads s (addr57 s n act) 128 fun ls s =>
        addJob s d 1 act (.rbox (rayRegs s g) ls) (bytesOf ls 128)

def execRtri (d g n : VReg) (s : State) : Res :=
  run (.rtri d g n) s fun m s =>
    consuming s (actOf s m) (n.val :: groupOf g.val 4) fun act s =>
      renderReads s (addr57 s n act) 64 fun ls s =>
        addJob s d 2 act (.rtri (rayRegs s g) ls) (bytesOf ls 64)

/-- Lanes whose triangle is hit and has a texture: the descriptor's address and the coordinates. -/
def alphaLanes (ray : List Lanes) (tris : List (Nat × Nat)) : List (Nat × Nat × Nat × Nat) :=
  tris.filterMap fun x => match triTest x.2 (rayOf ray x.1) with
    | .hit _ b1 b2 => if triDesc x.2 = 0 then none
      else some (x.1, triDesc x.2, triCoord x.2 b1 b2 0, triCoord x.2 b1 b2 1)
    | .ext true _ (some b1) (some b2) => if triDesc x.2 = 0 then none
      else some (x.1, triDesc x.2, triCoord x.2 b1 b2 0, triCoord x.2 b1 b2 1)
    | _ => none

/-- Lanes with the bytes of their descriptor in the place of its address. -/
def withDescs (ls : List (Nat × Nat × Nat × Nat)) (descs : List (Nat × Nat)) : List (Nat × Nat × Nat × Nat) :=
  ls.map fun x => (x.1, kgetD descs x.1 0, x.2.2)

/-- `rtri.alpha`: descriptors are read when it issues, texels when its result arrives (R275, log 47 DEDUCED unsafe). -/
def execRtriAlpha (d g n : VReg) (s : State) : Res :=
  run (.rtriAlpha d g n) s fun m s0 =>
    consuming s0 (actOf s0 m) (n.val :: groupOf g.val 4) fun act s =>
      renderReads s (addr57 s n act) 64 fun ls s1 =>
        readNow s s1 ls 64 fun tris s2 =>
          let ray := rayRegs s2 g
          let al := alphaLanes ray tris
          renderReads s2 (al.map fun x => (x.1, x.2.1)) 32 fun ds s3 =>
            readNow s s3 ds 32 fun descs s4 =>
              texelReads s4 (withDescs al descs) fun ts s5 =>
                addJob s5 d 2 act (.alpha ray tris descs ts (ls ++ ds)) (bytesOf ts 16)

/-! ## Ray stacks (R276, R277) -/

/-- A stack's descriptor. -/
def stackOff (w : Word) : Nat := w.toNat % 2 ^ 18
def stackDepth (w : Word) : Nat := w.toNat / 2 ^ 24 % 64
/-- Where entry `i` of lane `l` lies. -/
def entryAddr (w : Word) (l i : Nat) : Nat := stackOff w + 32 + 8 * (l * stackDepth w + i)
/-- A byte of the block's scratchpad. -/
def spadByte (s : State) (a : Nat) : Nat := (paRead s ⟨.spad s.cur.block, a⟩).toNat

/-- The causes of `rpsh` and `rpop` in order, then the effect once the crew's accesses to the area are done. `full` says
which depths overflow (log 48 DEDUCED unsafe). -/
def stackOp (s : State) (w : Word) (act : Mask) (full : Nat → Bool) (k : State → State) : State :=
  let size := 32 + 256 * stackDepth w
  let ls := lanesOf act
  if act == 0 then complete s
  else if stackOff w % 8 != 0 then raise s (laneTrap .misalign (ls.map fun l => (l, stackOff w)))
  else if scratchOf s < stackOff w + size then raise s (laneTrap .spbound (ls.map fun l => (l, stackOff w)))
  else if !(depsFor s s.cur s.cur.fr.po [(⟨.spad s.cur.block, stackOff w⟩, size)] false).isEmpty then s
  else
    match ls.filter fun l => full (spadByte s (stackOff w + l)) with
    | [] => k s
    | b :: bs => raise s (laneTrap .spbound ((b :: bs).map fun l => (l, entryAddr w l (spadByte s (stackOff w + l)))))

/-- Bytes written to the block's scratchpad. -/
def spadWrite (s : State) (a : Nat) (bs : List Byte) : State := paWrites s ⟨.spad s.cur.block, a⟩ bs

def execRpsh (a : VReg) (c : CReg) (s : State) : Res :=
  run (.rpsh a c) s fun m s =>
    let w := getC s c
    consuming s (actOf s m) [a.val] fun act s =>
      stackOp s w act (fun n => decide (stackDepth w ≤ n)) fun s =>
        complete ((lanesOf act).foldl (fun s l =>
          let n := spadByte s (stackOff w + l)
          let s := spadWrite s (entryAddr w l n) (leBytes 8 (laneAt (getV s a) l).toNat)
          spadWrite s (stackOff w + l) (leBytes 1 (n + 1))) s)

def execRpop (d : VReg) (c : CReg) (s : State) : Res :=
  run (.rpop d c) s fun m s =>
    let w := getC s c
    let act := actOf s m
    stackOp s w act (fun n => decide (stackDepth w < n)) fun s =>
      let top (l : Nat) : Word :=
        let n := spadByte s (stackOff w + l)
        if n = 0 then 0 else BitVec.ofNat 64 (paNat s ⟨.spad s.cur.block, entryAddr w l (n - 1)⟩ 8)
      let t := (lanesOf act).foldl (fun s l =>
        let n := spadByte s (stackOff w + l)
        if n = 0 then s else spadWrite s (stackOff w + l) (leBytes 1 (n - 1))) s
      addJob t d 1 act (.rpop (mkLanes top)) []

/-- `rhit` (R276). Its sources for poison are what it reads: both registers of the new pair, the t of the kept one, and the register of
TMAX, of which it keeps a half (log 79 DEDUCED unsafe). -/
def execRhit (d a g : VReg) (s : State) : Res :=
  run (.rhit d a g) s fun m s =>
    consuming s (actOf s m) [a.val, a.val + 1, d.val, g.val + 3] fun act s =>
      let t (v : VReg) (l : Nat) : FVal := fp32.decode (sub 32 (laneAt (getV s v) l) 0)
      let near := maskOf ((lanesOf act).filter fun l => !(t a l).isNan && !(t d l).isNan && (t a l).lt (t d l))
      let a0 := getV s a
      let a1 := s.cur.vreg (a.val + 1)
      complete (modCur s fun c =>
        let c := (c.putV d.val near a0 0).putV (d.val + 1) near a1 0
        let lim := mkLanes fun l => pack 32 [sub 32 (laneAt (c.vreg (g.val + 3)) l) 0, sub 32 (laneAt a0 l) 0]
        c.putV (g.val + 3) near lim 0)

/-! ## Arrival -/

/-- Texels by lane, four for each in their order, read in their sizes. -/
def readTexels (s : State) (c : Crew) (descOf : Nat → Nat) : List LaneAcc → List (Nat × Nat) × State
  | [] => ([], s)
  | l :: ls =>
    let n := match readsTexels (descOf l.lane) with | some t => t.size | none => 1
    let r := laneRead s c.pair c.launch .block l n
    let t := readTexels r.2 c descOf ls
    ((l.lane, r.1) :: t.1, t.2)

/-- The texels of a lane. -/
def texelsOf (ts : List (Nat × Nat)) (l : Nat) : List Nat := (ts.filter fun x => x.1 == l).map fun x => x.2

/-- Samples of several lanes: lane, descriptor and coordinates. -/
def sampleLanes (s : State) (ts : List (Nat × Nat)) : List (Nat × Nat × Nat × Nat) → List (Nat × Word) × State
  | [] => ([], s)
  | x :: xs =>
    let r := sampleValue s (x.2.1, 0) x.2.2 (texelsOf ts x.1)
    let t := sampleLanes r.2 ts xs
    ((x.1, r.1) :: t.1, t.2)

/-- Does a sampled alpha pass a triangle's threshold (R275)? -/
def alphaPasses (tri : Nat) (w : Word) : Bool :=
  let a := fp16.decode (sub 16 w 3)
  let th := fp32.decode (fieldAt tri 0x28 4)
  !a.isNan && !th.isNan && !a.lt th

/-- The pairs that `rtri` writes for lanes with their triangles; `pass` is the alpha test, none where its coordinates have no value. What
no rule states of a hit is open, and so is whether it is one (log 46 DEDUCED safe). -/
def triPairs (s : State) (ray : List Lanes) (pass : Nat → Option Bool) : List (Nat × Nat) → List (Nat × Word × Word) × State
  | [] => ([], s)
  | x :: xs =>
    let r : (Word × Word) × State := match triTest x.2 (rayOf ray x.1) with
      | .miss => (triMiss, s)
      | .hit t b1 b2 => (if (pass x.1).getD true then triPair x.2 t b1 b2 else triMiss, s)
      | .ext sure t b1 b2 =>
        let go := choose s 2
        let a := choose go.2 (2 ^ 32)
        let b := choose a.2 (2 ^ 32)
        let c := choose b.2 (2 ^ 32)
        let hit := match pass x.1 with | some p => p && (sure || go.1 == 1) | none => go.1 == 1
        let e (q : Option Q) (junk : Nat) : Nat := match q with | some q => fp32.ofQ .ne q | none => junk
        (if hit then (pack 32 [t.getD a.1, fieldAt x.2 0x24 4], pack 32 [e b1 b.1, e b2 c.1]) else triMiss, c.2)
    let t := triPairs r.2 ray pass xs
    ((x.1, r.1) :: t.1, t.2)

/-- Two registers by lane. -/
def pairAt (ps : List (Nat × Word × Word)) (k l : Nat) : Word :=
  let p := kgetD ps l (0, 0)
  if k = 0 then p.1 else p.2

/-- The values a render future returns, register by register and lane by lane (R261, R270 to R275). -/
def jobValues (s : State) (c : Crew) (act : Mask) (job : RJob) : (Nat → Nat → Word) × State :=
  match job with
  | .grdv ix k =>
    let g := crewGrid s c
    (fun r l => match g with | some g => grdvValue g k (affineAt ix l).toNat r | none => 0, s)
  | .rsub ix n =>
    let b : Option Bucket := match c.kind with | .resolve b => bucket? s c.launch b | _ => none
    let cam := Cam.ofBytes (match s.renders.find? fun r => r.lid == c.launch with | some r => r.cam | none => [])
    (fun r l => match b with | some b => rsubValue cam b (affineAt ix l).toNat n.toNat r | none => 0, s)
  | .samp desc st ts _ =>
    let t := readTexels s c (fun _ => desc) ts
    let v := sampleLanes t.2 t.1 ((lanesOf act).map fun l => (l, desc, sub 32 (laneAt st l) 0, sub 32 (laneAt st l) 1))
    (fun _ l => kgetD v.1 l 0, v.2)
  | .rbox ray ls =>
    let r := readLanes s c.pair c.launch .block 128 ls
    let k := choose r.2 1
    let open_ (l ch : Nat) : Option FVal :=
      let w := Config.choice (s.tick + 4 * l + ch)
      if w % 2 = 0 then none else some (.fin (w / 2 % 2 == 1) (w / 4) (-200))
    (fun _ l => match kget r.1 l with | some x => boxResult x (rayOf ray l) (open_ l) | none => 0,
      { k.2 with tick := k.2.tick + 128 })
  | .rtri ray ls =>
    let r := readLanes s c.pair c.launch .block 64 ls
    let v := triPairs r.2 ray (fun _ => some true) r.1
    (pairAt v.1, v.2)
  | .alpha ray tris descs ts _ =>
    let t := readTexels s c (fun l => kgetD descs l 0) ts
    let al := withDescs (alphaLanes ray tris) descs
    let a := sampleLanes t.2 t.1 al
    let pass (l : Nat) : Option Bool := match kget a.1 l with
      | some w => some (alphaPasses (kgetD tris l 0) w)
      | none => if triDesc (kgetD tris l 0) = 0 then some true else none
    let v := triPairs a.2 ray pass tris
    (pairAt v.1, v.2)
  | .rpop v => (fun _ l => laneAt v l, s)

/-- The places a job reads when it returns. -/
def RJob.places : RJob → List LaneAcc
  | .samp _ _ ls _ | .rbox _ ls | .rtri _ ls | .alpha _ _ _ ls _ => ls
  | _ => []

/-- The places that a job read at issue. -/
def RJob.heads : RJob → List LaneAcc
  | .samp _ _ _ hs | .alpha _ _ _ _ hs => hs
  | _ => []

/-- The most bytes that a job reads at a place. -/
def RJob.size : RJob → Nat
  | .rbox .. => 128
  | .rtri .. => 64
  | _ => 16

/-- Does a job read vertices of a spilled grid that cannot be reached now (R23, R261)? -/
def jobGridHeld (s : State) (c : Crew) : RJob → Bool
  | .grdv .. => (crewGrid s c).any (gridHeld s (corePort c.pair))
  | _ => false

/-- A render result arrives; lanes whose data is uncorrectable receive poison (R232, R260, R390). -/
def finishRender (s : State) (c : Crew) (f : Fut) (bad : Mask) : State :=
  match f.kind with
  | .render act job =>
    if !depsDone s c.cid f.deps || job.places.any (laneHeld s c.pair .block job.size) || jobGridHeld s c job then s
    else
      let bad := badLanes s c.pair .block job.size job.places bad ||| maskOf ((job.heads.filter (headLost s c.pair)).map fun l => l.lane)
      let ls := (job.places ++ job.heads).filter fun l => inMask bad l.lane
      let s := countUncorr s (ls.map fun l => l.pa)
      let v := jobValues s c act job
      dropFut (putDest v.2 c.cid f.dest act v.1 (maskOf (ls.map fun l => l.lane))) c.cid f.id
  | _ => s

def execRenderResultArrival (p sl id : Nat) (bad : BitVec 32) (s : State) : Res :=
  .next (match (crewsOn s p).find? fun c => c.slot == sl with
    | some c => match c.futs.find? fun f => f.id == id with
      | some f => finishRender s c f bad
      | none => s
    | none => s)

end Sys2Proof.Machine
end

