-- ==== Sys2Proof/Machine/Render.lean ====
section
/-! DEFINITION. Render launches: start, binning, buckets and their deques, dicing, shading, rasterising and resolve (R247 to
R259, R268 to R270, R313 to R315). -/

namespace Sys2Proof.Machine

open Sys2Proof

/-! ## What the units read (R246, R249, R251) -/

/-- A render launch in progress. -/
def render? (s : State) (lid : Nat) : Option Render := s.renders.find? fun r => r.lid == lid

/-- What a unit's read of global memory gives. -/
inductive UnitRead where
  | bytes (bs : List Byte) (s : State)
  | moving
  | held
  | failed (s : State)
  deriving DecidableEq, Repr, Inhabited

/-- `n` bytes at an address as relaxed device-scope loads from a port; `bad`: a line is uncorrectable. -/
def unitRead (s : State) (from_ : Port) (lid va n : Nat) (bad : Bool) : UnitRead :=
  if moving s va n then .moving
  else
    let ps := (List.range n).map fun i => vaPA? s (va + i)
    let pas := ps.filterMap id
    if pas.length < n then .failed s
    else if pas.any (linkHeld s from_) then .held
    else if bad then .failed (countUncorr s (pas.take 1))
    else if pas.any (badAt s) then .failed (countUncorr s (pas.filter (badAt s)))
    else .bytes (pas.map (paRead s)) (pas.foldl (fun s p => match p.sp with | .loc => noteRead s lid p.a | _ => s) s)

/-- A render launch failure: reported, with no pixel written and the launch's writes discarded; its completion advances its counter
(R249, R286, log 49 DEDUCED safe). -/
def failRender (s : State) (lid : Nat) : State := abortLaunch (report s "RENDER" [lid]) lid

/-! ## Start (R247, R249, R313) -/

/-- The deques of the working dies: bucket row `by` goes to the die of rank `by` mod D. -/
def fillDeques (cam : Cam) (dies : List Nat) : List (Nat × List Nat) :=
  dies.zipIdx.map fun x => (x.1, (List.range cam.count).filter fun b => b / cam.cols % dies.length == x.2)

/-- A render launch starts: four units to each working die (R315, log 45 DEDUCED unsafe). -/
def startRender (s : State) (l : Launch) (bs : List Byte) : State :=
  let cam := Cam.ofBytes bs
  let dies := (List.range 4).filter fun d => s.dev.diesUp.contains d
  let r : Render :=
    { lid := l.lid, cam := bs, units := (List.range (4 * dies.length)).map fun u => (u, u), closed := [], queues := [], lists := [],
      spillUsed := [], deques := fillDeques cam dies, flight := [], left := cam.count }
  freePool { s with renders := s.renders ++ [r] } l.lid

def execRenderLaunchStart (id : Nat) (bad : Bool) (s : State) : Res :=
  .next (match launchAt? s id with
    | none => s
    | some l =>
      if !(startTurn s l && l.lr.render) || stalled s id || paramWaits s l then s
      else match unitRead s .h id l.lr.param 128 bad with
        | .moving => stall s id
        | .held => s
        | .failed t => failRender (startLaunch t id) id
        | .bytes bs _ =>
          let t := startLaunch s id
          if !camOk bs then failRender t id
          else match unitRead t .h id l.lr.param 128 false with
            | .bytes _ t => startRender t l bs
            | _ => startRender t l bs)

/-! ## Binning (R251 to R253, R315) -/

/-- The die whose stripe holds a bucket: that of its row. -/
def Render.owner (r : Render) (cam : Cam) (b : Nat) : Nat := (r.deques.getD (b / cam.cols % r.deques.length) (0, [])).1

/-- The die of a unit: four to each. -/
def Render.unitDie (r : Render) (u : Nat) : Nat := (r.deques.getD (u / 4) (0, [])).1

/-- The references in the insert queue of a unit to a die: patch, bucket, and place in the die's part of the spill area. -/
def Render.queue (r : Render) (u d : Nat) : List (Nat × Nat × Nat) :=
  match r.queues.find? fun q => q.1 == u && q.2.1 == d with
  | some q => q.2.2
  | none => []

/-- That queue changed. -/
def Render.setQueue (r : Render) (u d : Nat) (l : List (Nat × Nat × Nat)) : Render :=
  { r with queues := (r.queues.filter fun q => !(q.1 == u && q.2.1 == d)) ++ [(u, d, l)] }

/-- Has a unit a full insert queue: 64 patch references? -/
def Render.full (r : Render) (u : Nat) : Bool :=
  r.deques.any fun x => decide (64 ≤ (distinct ((r.queue u x.1).map fun y => y.1)).length)

/-- Where the part of the spill area that a die uses begins (R248). -/
def Cam.part (cam : Cam) (d : Nat) : Nat := cam.spill + d * cam.spsz

/-- References that the spill area of die `d` holds or has room set aside for. -/
def Render.refCount (r : Render) (cam : Cam) (d : Nat) : Nat :=
  ((r.queues.filter fun q => q.2.1 == d).map fun q => q.2.2.length).sum +
    ((r.lists.filter fun x => r.owner cam x.1 == d).map fun x => x.2.length).sum

/-- Bytes that a unit of a die stores for a launch, where their pages let it. -/
def unitWrites (s : State) (lid va : Nat) (bs : List Byte) : State :=
  bs.zipIdx.foldl (fun s x => match xlateFresh s .write (va + x.2) with
    | .ok pa _ => paWrite (claimAt s lid pa) pa x.1
    | _ => s) s

/-- Must a unit's store to `n` bytes at `va` wait: for a page that migrates, a link, or the pool its shadow needs (R345, R354,
R393)? -/
def unitWaits (s : State) (from_ : Port) (lid va n : Nat) : Bool :=
  mustWait s from_ va n || (List.range ((va % 128 + n + 127) / 128)).any fun i =>
    match xlateFresh s .write (va / 128 * 128 + 128 * i) with
    | .ok pa _ => claimMoves s lid pa
    | _ => false

/-- A grid goes to the top of the room left in a die's part of the spill area: what its bytes are is open (R246, log 9 DESIGN CHOICE
safe). -/
def spillAt (cam : Cam) (r : Render) (d n : Nat) : Nat :=
  cam.part d + (cam.spsz - (kgetD r.spillUsed d 0 - 4 * r.refCount cam d) - n)
def spill (s : State) (r : Render) (d n : Nat) : State :=
  let t := unitWrites s r.lid (spillAt (Cam.ofBytes r.cam) r d n) ((List.range n).map fun i => Config.junkByte (s.tick + i))
  modRender { t with tick := t.tick + 1 } r.lid fun x => { x with spillUsed := kmod x.spillUsed d (· + n) }

/-- The buckets that a patch's bound meets. -/
def bucketsOf (cam : Cam) (b : Bound) : List Nat := (List.range cam.count).filter fun k => b.meets cam k

/-- Patch `p` enters the insert queues of unit `u`, with room set aside for its references; none when a spill area cannot hold
them. -/
def binPatch (s : State) (r : Render) (u p : Nat) (bs : List Nat) : Option State :=
  let cam := Cam.ofBytes r.cam
  r.deques.foldl (fun t x => t.bind fun t =>
    let mine := bs.filter fun b => r.owner cam b == x.1
    if mine.isEmpty then some t
    else if cam.spsz < kgetD r.spillUsed x.1 0 + 4 * mine.length then none
    else
      let first := r.refCount cam x.1
      some (modRender t r.lid fun y =>
        { y.setQueue u x.1 (y.queue u x.1 ++ mine.zipIdx.map fun b => (p, b.1, 4 * (first + b.2))) with
          spillUsed := kmod y.spillUsed x.1 (· + 4 * mine.length) })) (some s)

/-- A unit goes on to its next patch. -/
def nextPatch (s : State) (lid u : Nat) : State :=
  modRender s lid fun r => { r with units := r.units.map fun x => if x.1 == u then (u, x.2 + r.units.length) else x }

/-- Does a retraining module lie between a unit and a die (R253, R315)? -/
def Render.cut (r : Render) (s : State) (u d : Nat) : Bool := (ringLinks (r.unitDie u) d).any s.dev.retraining.contains

/-- Unit `u` closes its queues to the dies that no retraining module cuts off (R315). -/
def closeQueues (s : State) (r : Render) (u : Nat) : State :=
  let ds := (r.deques.map fun x => x.1).filter fun d => !r.cut s u d
  modRender s r.lid fun y => { y with closed := y.closed ++ (ds.map fun d => (u, d)).filter fun x => !y.closed.contains x }

/-- Unit `u` binds and bins its next patch, or closes its queues. -/
def bin (s : State) (l : Launch) (r : Render) (u : Nat) (bad : Bool) : State :=
  match r.units.find? fun x => x.1 == u with
  | none => s
  | some (_, p) =>
    if l.failed || stalled s l.lid then s
    else if l.lr.blks ≤ p then closeQueues s r u
    else if r.full u then s
    else match unitRead s (.v (r.unitDie u)) l.lid (l.lr.qtb + 416 * p) 416 bad with
      | .moving => stall s l.lid
      | .held => s
      | .failed t => failRender t l.lid
      | .bytes m t =>
        let t := nextPatch t l.lid u
        let cam := Cam.ofBytes r.cam
        match pieceOf p m with
        | none => addDie t (r.unitDie u) 0
        | some x => match binPatch t r u p (bucketsOf cam (boundOf cam x)) with
          | some t => t
          | none => failRender t l.lid

def execPatchBin (id u : Nat) (bad : Bool) (s : State) : Res :=
  .next (match launchAt? s id, render? s id with
    | some l, some r => bin s l r u bad
    | _, _ => s)

/-- The least patch that waits for die `d`, when every unit's queue has passed it or closed: nothing is known of one that a
retraining module cuts off (R315, log 49 DEDUCED safe). -/
def leastPatch (s : State) (r : Render) (d : Nat) : Option (Nat × Nat) :=
  let heads := r.units.filterMap fun x => (r.queue x.1 d).head?.map fun h => (h.1, x.1)
  match sortBy (fun a b => decide (a.1 ≤ b.1)) heads with
  | [] => none
  | h :: _ =>
    if r.units.all fun x => ((r.closed.contains (x.1, d) && (r.queue x.1 d).isEmpty) || !r.cut s x.1 d) &&
        (r.closed.contains (x.1, d) || decide (h.1 < x.2)) then some h else none

/-- Its references enter the bucket lists: 4 bytes of patch index each, little-endian, in the die's part of the spill area (R246). -/
def merge (s : State) (r : Render) (d : Nat) : State :=
  match leastPatch s r d with
  | none => s
  | some (p, u) =>
    let q := r.queue u d
    let base := (Cam.ofBytes r.cam).part d
    let mine := (q.filter fun x => x.1 == p).map fun x => (x.2.1, base + x.2.2)
    if mine.any fun x => moving s x.2 4 then stall s r.lid
    else if mine.any fun x => unitWaits s (.v d) r.lid x.2 4 then s
    else
      let s := mine.foldl (fun s x => unitWrites s r.lid x.2 (leBytes 4 p)) s
      modRender s r.lid fun y =>
        { y.setQueue u d (q.filter fun x => x.1 != p) with
          lists := mine.foldl (fun l x => kset l x.1 (kgetD l x.1 [] ++ [x.2])) y.lists }

/-! ## Buckets (R253, R254, R313, R314) -/

/-- May the buckets whose lists die `d` holds start? -/
def Render.ready (r : Render) (d : Nat) : Bool :=
  r.units.all fun x => r.closed.contains (x.1, d) && (r.queue x.1 d).isEmpty

/-- Slices of a die's bucket memory that are taken. -/
def slicesUsed (s : State) (d : Nat) : Nat :=
  (s.renders.map fun r =>
    (Cam.ofBytes r.cam).slices * (r.flight.filter fun b => b.die == d).length).sum

/-- Bucket `b` starts on die `d`. -/
def beginBucket (s : State) (r : Render) (cam : Cam) (b d : Nat) : State :=
  let x : Bucket :=
    { bix := b, die := d, refs := kgetD r.lists b [], pieces := [], grids := [], nextGrid := 0, share := cam.share,
      samples := [], resolving := none, pixel := 0, waits := [] }
  addDie (modRender s r.lid fun y => { y with flight := y.flight ++ [x] }) d 1

/-- A die's deque changed. -/
def setDeque (s : State) (lid d : Nat) (l : List Nat) : State :=
  modRender s lid fun r => { r with deques := r.deques.map fun x => if x.1 == d then (d, l) else x }

/-- Die `d` starts the head of its own deque. -/
def startOwn (s : State) (r : Render) (d : Nat) : State :=
  let cam := Cam.ofBytes r.cam
  match kgetD r.deques d [] with
  | [] => s
  | b :: bs =>
    if r.ready (r.owner cam b) && decide (slicesUsed s d + cam.slices ≤ 16) then
      beginBucket (setDeque s r.lid d bs) r cam b d
    else s

/-- Does a launch go on? -/
def renderGoes (s : State) (id : Nat) : Option Render :=
  match launchAt? s id with
  | some l => if l.failed || stalled s id then none else render? s id
  | none => none

def execInsertQueueMerge (id d : Nat) (s : State) : Res :=
  .next (match renderGoes s id with | some r => merge s r d | none => s)

def execBucketStart (id d : Nat) (s : State) : Res :=
  .next (match renderGoes s id with | some r => startOwn s r d | none => s)

/-- The deque that holds the most buckets, of the lower die number of several. -/
def fullest (r : Render) : Option (Nat × List Nat) :=
  (sortBy (fun a b => decide (a.1 ≤ b.1)) r.deques).foldl (fun m x => match m with
    | some y => if y.2.length < x.2.length then some x else some y
    | none => some x) none

/-- Die `d`, its own deque empty, steals the tail of the fullest. -/
def steal (s : State) (r : Render) (d : Nat) : State :=
  let cam := Cam.ofBytes r.cam
  if (kget r.deques d).any fun l => l.isEmpty then
    match fullest r with
    | some (v, l) =>
      (match l.getLast? with
       | some b =>
         if 2 ≤ l.length && r.ready (r.owner cam b) && decide (slicesUsed s d + cam.slices ≤ 16) then
           addDie (beginBucket (setDeque s r.lid v l.dropLast) r cam b d) d 2
         else s
       | none => s)
    | none => s
  else s

def execBucketSteal (id d : Nat) (s : State) : Res :=
  .next (match renderGoes s id with | some r => steal s r d | none => s)

/-! ## Dicing (R255 to R258) -/

/-- A grid is written to the share, or whole to the spill area, or waits for room. -/
def storeGrid (s : State) (r : Render) (b : Bucket) (g : Grid) (rest : List Piece) : State :=
  let cam := Cam.ofBytes r.cam
  let put (s : State) (g : Grid) (n : Nat) : State := modBucket s r.lid b.bix fun x =>
    { x with pieces := rest, grids := x.grids ++ [g], nextGrid := x.nextGrid + 1, share := x.share - n }
  if g.bytes ≤ b.share then put s g g.bytes
  else if kgetD r.spillUsed b.die 0 + g.bytes ≤ cam.spsz then
    let at_ := spillAt cam r b.die g.bytes
    if moving s at_ g.bytes then stall s r.lid
    else if unitWaits s (.v b.die) r.lid at_ g.bytes then s
    else put (addDie (spill s r b.die g.bytes) b.die 3) { g with spilled := some at_ } 0
  else s

/-- The next dicing action of a bucket: a piece split, dropped or diced, or its next reference read from the bucket's list, and the
patch it names (R246, log 49 DEDUCED safe). -/
def dice (s : State) (l : Launch) (r : Render) (b : Bucket) : State :=
  let cam := Cam.ofBytes r.cam
  let set (s : State) (ps : List Piece) (refs : List Nat) : State :=
    modBucket s r.lid b.bix fun x => { x with pieces := ps, refs := refs }
  match b.pieces, b.refs with
  | p :: rest, _ =>
    (match diceOf cam p with
     | .cull => set s rest b.refs
     | .split => set s (((children p).filter fun c => (boundOf cam c).meets cam b.bix) ++ rest) b.refs
     | .grid nu nv => storeGrid s r b (gridOf p b.nextGrid nu nv) rest)
  | [], [] => s
  | [], at_ :: refs =>
    match unitRead s (.v b.die) r.lid at_ 4 false with
    | .moving => stall s r.lid
    | .held => s
    | .failed t => failRender t r.lid
    | .bytes q t =>
      match unitRead t (.v b.die) r.lid (l.lr.qtb + 416 * leNat q) 416 false with
      | .moving => stall s r.lid
      | .held => s
      | .failed t => failRender t r.lid
      | .bytes m t => set t ((pieceOf (leNat q) m).toList) refs

def execDicePatch (id b : Nat) (s : State) : Res :=
  .next (match launchAt? s id, renderGoes s id, bucket? s id b with
    | some l, some r, some x => dice s l r x
    | _, _, _ => s)

/-! ## Shading (R259, R270) -/

/-- A bucket's block becomes resident on core `p`. -/
def placeRender (s : State) (l : Launch) (bix : Nat) (grid : Option Nat) (n p : Nat) : State :=
  let kind : CrewKind := match grid with | some g => .vertex bix g | none => .resolve bix
  let b := newBlock s l.lid bix n kind p (256 * l.lr.scr) (65536 * l.lr.tsw) none []
  let cam := Cam.ofBytes (match render? s l.lid with | some r => r.cam | none => [])
  let verts := match grid.bind fun g => (bucket? s l.lid bix).bind fun x => x.grids.find? fun y => y.num == g with
    | some g => g.vertices
    | none => 32 * n
  let crew (j : Nat) : Crew :=
    let c (r : Nat) : Word := match r with
      | 0 => BitVec.ofNat 64 l.lr.param
      | 1 => BitVec.ofNat 64 bix
      | 2 => BitVec.ofNat 64 j
      | 3 => BitVec.ofNat 64 cam.count
      | _ => 0
    { Crew.none with
      launch := l.lid, block := b.1, idx := j, region := l.lr.regn, kind := kind,
      c := Vector.ofFn fun r => c r.val,
      a := Vector.ofFn fun r => if r.val = 0 then ⟨BitVec.ofNat 64 (32 * j), 1⟩ else ⟨0, 0⟩,
      vn := l.lr.vn, tn := l.lr.til, lm := maskBelow (verts - 32 * j) }
  let entry := if grid.isSome then l.lr.entry else l.lr.last
  let s := (List.range n).foldl (fun s j =>
    let k := fresh s
    startCrew k.2 p { crew j with cid := k.1 } (BitVec.ofNat 57 entry)) b.2
  let s := modBucket s l.lid bix fun x => match grid with
    | some g => { x with grids := x.grids.map fun y => if y.num == g then { y with st := .shading b.1 } else y }
    | none => { x with resolving := some b.1 }
  progressRegion s l.lr.regn

/-- The block that bucket `b` of launch `id` waits for is placed when its turn has come (R329). -/
def placeBucket (s : State) (id b : Nat) (resolve : Bool) : State :=
  match nextPlace s with
  | some (.render l _ x g n, p) => if l.lid == id && x == b && g.isNone == resolve then placeRender s l x g n p else s
  | _ => s

def execGridShadeStart (id b : Nat) (s : State) : Res := .next (placeBucket s id b false)

/-- Has every crew of a block retired? -/
def blockDone (s : State) (bid : Nat) : Bool :=
  match blockAt? s bid with
  | some b => decide (b.crews ≤ b.retired.length)
  | none => true

/-- The first grid of a bucket that has not passed, once its crews have retired (R259). -/
def handoff (s : State) (lid : Nat) (b : Bucket) : State :=
  match b.grids.find? fun g => g.st != .passed with
  | some g =>
    (match g.st with
     | .shading bid => if blockDone s bid then modGrid s lid b.bix g.num fun x => { x with st := .passed } else s
     | _ => s)
  | none => s

def execGridHandoff (id b : Nat) (s : State) : Res :=
  .next (match renderGoes s id, bucket? s id b with
    | some _, some x => handoff s id x
    | _, _ => s)

/-! ## Rasterising (R263 to R268) -/

/-- The first grid of a bucket, once it has passed, is sampled and its room freed; a spilled one is read back over the links first (R23,
R258). -/
def rasterise (s : State) (r : Render) (b : Bucket) : State :=
  match b.grids with
  | [] => s
  | g :: rest =>
    if g.st != .passed || gridHeld s (.v b.die) g then s
    else
      let n := g.bytes
      let s := modBucket s r.lid b.bix fun x => { x with
        grids := rest, samples := sampleGrid (Cam.ofBytes r.cam) b.bix g x.samples,
        share := if g.spilled.isSome then x.share else x.share + n }
      if g.spilled.isSome then modRender s r.lid fun x => { x with spillUsed := kmod x.spillUsed b.die (· - n) } else s

def execGridRasterise (id b : Nat) (s : State) : Res :=
  .next (match renderGoes s id, bucket? s id b with
    | some r, some x => rasterise s r x
    | _, _ => s)

/-! ## Resolve (R269, R270) -/

/-- A bucket's last pixel has been written: its slices are free. -/
def retireBucket (s : State) (lid b : Nat) : State :=
  modRender s lid fun r => { r with flight := r.flight.filter (fun x => x.bix != b), left := r.left - 1 }

/-- The box filter on the pixels left of a bucket; it stops at one whose store must wait, and aborts at one that cannot be
made. -/
def boxFilter (s : State) (lid : Nat) (cam : Cam) (b : Bucket) (bad : Bool) : List (Nat × Nat × Nat) → State
  | [] => retireBucket s lid b.bix
  | x :: xs =>
    let va := cam.img + x.2.2 * cam.pitch + x.2.1 * cam.size
    let wait (f : Bucket → Bucket) : State :=
      modBucket s lid b.bix fun y => f { y with pixel := (bucketPixels cam b.bix).length - (xs.length + 1) }
    match xlateFresh s .write va with
    | .migrating => stall (wait id) lid
    | .absent .. => wait fun y => { y with waits := [va] }
    | .denied => abortLaunch (report s "PIXEL" [lid, va]) lid
    | .ok pa _ =>
      if linkHeld s (.v b.die) pa then wait id
      else if claimMoves s lid pa then stall (wait id) lid
      else if bad && pa.sp != .loc then abortLaunch (report s "PIXEL" [lid, va]) lid
      else boxFilter (paWrites (claimAt s lid pa) pa (pixelBytes cam b.samples x.1)) lid cam b bad xs

/-- Bucket `b` is resolved: by the box filter, or its resolve block is placed. -/
def resolve (s : State) (r : Render) (b : Bucket) (bad : Bool) : State :=
  let cam := Cam.ofBytes r.cam
  if !b.sampled || !b.waits.isEmpty || b.resolving.isSome then s
  else if cam.rcr then placeBucket s r.lid b.bix true
  else boxFilter s r.lid cam b bad ((bucketPixels cam b.bix).drop b.pixel)

/-- A bucket's next pixels, or its resolve block (R269, R270, log 51 DEDUCED unsafe). -/
def execBucketResolve (id b : Nat) (bad : Bool) (s : State) : Res :=
  .next (match renderGoes s id, bucket? s id b with
    | some r, some x => resolve s r x bad
    | _, _ => s)

/-- Buckets whose resolve block has retired. -/
def settleBuckets (s : State) : State :=
  s.renders.foldl (fun s r => r.flight.foldl (fun s b => match b.resolving with
    | some k => if blockDone s k then retireBucket s r.lid b.bix else s
    | none => s) s) s

end Sys2Proof.Machine
end

