-- ==== Sys2Proof/Machine/Dispatch.lean ====
section
/-! DEFINITION. One arm for each constructor of Instr. -/

namespace Sys2Proof.Machine

open Sys2Proof

/-- The meaning of an instruction or an event. -/
def exec (i : Instr) (s : State) : Host.Outcome State Fault Refusal :=
  match i with
  | .br o => Sys2Proof.Machine.execBr o s
  | .brcZ t o => Sys2Proof.Machine.execBrcZ t o s
  | .brcNz t o => Sys2Proof.Machine.execBrcNz t o s
  | .brcNeg t o => Sys2Proof.Machine.execBrcNeg t o s
  | .brv m o => Sys2Proof.Machine.execBrv m o s
  | .call l o => Sys2Proof.Machine.execCall l o s
  | .nop => Sys2Proof.Machine.execNop s
  | .jmpi a => Sys2Proof.Machine.execJmpi a s
  | .ret a => Sys2Proof.Machine.execRet a s
  | .elect m => Sys2Proof.Machine.execElect m s
  | .yield => Sys2Proof.Machine.execYield s
  | .endd => Sys2Proof.Machine.execEnd s
  | .trap a => Sys2Proof.Machine.execTrap a s
  | .rft => Sys2Proof.Machine.execRft s
  | .pdone => Sys2Proof.Machine.execPdone s
  | .wcnt a => Sys2Proof.Machine.execWcnt a s
  | .sigchk => Sys2Proof.Machine.execSigchk s
  | .sread d r => Sys2Proof.Machine.execSread d r s
  | .swrite c r => Sys2Proof.Machine.execSwrite c r s
  | .mcfgWrite c => Sys2Proof.Machine.execMcfgWrite c s
  | .ftmapWrite c => Sys2Proof.Machine.execFtmapWrite c s
  | .cadd d a b => Sys2Proof.Machine.execCadd d a b s
  | .caddImm d a imm => Sys2Proof.Machine.execCaddImm d a imm s
  | .csub d a b => Sys2Proof.Machine.execCsub d a b s
  | .cmul d a b => Sys2Proof.Machine.execCmul d a b s
  | .cmulh d a b => Sys2Proof.Machine.execCmulh d a b s
  | .cmad d a b => Sys2Proof.Machine.execCmad d a b s
  | .cand d a b => Sys2Proof.Machine.execCand d a b s
  | .cor d a b => Sys2Proof.Machine.execCor d a b s
  | .cxor d a b => Sys2Proof.Machine.execCxor d a b s
  | .cnot d a => Sys2Proof.Machine.execCnot d a s
  | .cshl d a b => Sys2Proof.Machine.execCshl d a b s
  | .cshr d a b => Sys2Proof.Machine.execCshr d a b s
  | .csar d a b => Sys2Proof.Machine.execCsar d a b s
  | .cmin d a b => Sys2Proof.Machine.execCmin d a b s
  | .cminu d a b => Sys2Proof.Machine.execCminu d a b s
  | .cmax d a b => Sys2Proof.Machine.execCmax d a b s
  | .cmaxu d a b => Sys2Proof.Machine.execCmaxu d a b s
  | .ccmpEq d a b => Sys2Proof.Machine.execCcmpEq d a b s
  | .ccmpNe d a b => Sys2Proof.Machine.execCcmpNe d a b s
  | .ccmpLt d a b => Sys2Proof.Machine.execCcmpLt d a b s
  | .ccmpLe d a b => Sys2Proof.Machine.execCcmpLe d a b s
  | .ccmpLtu d a b => Sys2Proof.Machine.execCcmpLtu d a b s
  | .ccmpLeu d a b => Sys2Proof.Machine.execCcmpLeu d a b s
  | .csel d a b => Sys2Proof.Machine.execCsel d a b s
  | .cmov d a => Sys2Proof.Machine.execCmov d a s
  | .cbfe d a b => Sys2Proof.Machine.execCbfe d a b s
  | .cpopc d a => Sys2Proof.Machine.execCpopc d a s
  | .cclz d a => Sys2Proof.Machine.execCclz d a s
  | .amov d a => Sys2Proof.Machine.execAmov d a s
  | .aidx d c => Sys2Proof.Machine.execAidx d c s
  | .aaddA d a b => Sys2Proof.Machine.execAaddA d a b s
  | .aaddC d a c => Sys2Proof.Machine.execAaddC d a c s
  | .asubA d a b => Sys2Proof.Machine.execAsubA d a b s
  | .asubC d a c => Sys2Proof.Machine.execAsubC d a c s
  | .amul d a c => Sys2Proof.Machine.execAmul d a c s
  | .ashl d a c => Sys2Proof.Machine.execAshl d a c s
  | .lca d a => Sys2Proof.Machine.execLca d a s
  | .lcv d a => Sys2Proof.Machine.execLcv d a s
  | .lav d a => Sys2Proof.Machine.execLav d a s
  | .lvc d a => Sys2Proof.Machine.execLvc d a s
  | .lvcx d a => Sys2Proof.Machine.execLvcx d a s
  | .growV d a => Sys2Proof.Machine.execGrowV d a s
  | .growT d a => Sys2Proof.Machine.execGrowT d a s
  | .shrinkV d a => Sys2Proof.Machine.execShrinkV d a s
  | .shrinkT d a => Sys2Proof.Machine.execShrinkT d a s
  | .qbind k a => Sys2Proof.Machine.execQbind k a s
  | .qstat d k => Sys2Proof.Machine.execQstat d k s
  | .cpy a => Sys2Proof.Machine.execCpy a s
  | .cpyw a b => Sys2Proof.Machine.execCpyw a b s
  | .tcpy a => Sys2Proof.Machine.execTcpy a s
  | .lnch d a => Sys2Proof.Machine.execLnch d a s
  | .bar a => Sys2Proof.Machine.execBar a s
  | .bara d a => Sys2Proof.Machine.execBara d a s
  | .bare a b => Sys2Proof.Machine.execBare a b s
  | .barw a b => Sys2Proof.Machine.execBarw a b s
  | .wait a b => Sys2Proof.Machine.execWait a b s
  | .waitExt a b => Sys2Proof.Machine.execWaitExt a b s
  | .vadd d a b t => Sys2Proof.Machine.execVadd d a b t s
  | .fadd d a b t => Sys2Proof.Machine.execFadd d a b t s
  | .vsub d a b t => Sys2Proof.Machine.execVsub d a b t s
  | .fsub d a b t => Sys2Proof.Machine.execFsub d a b t s
  | .vmul d a b t => Sys2Proof.Machine.execVmul d a b t s
  | .fmul d a b t => Sys2Proof.Machine.execFmul d a b t s
  | .vmulh d a b t => Sys2Proof.Machine.execVmulh d a b t s
  | .vmad d a b t => Sys2Proof.Machine.execVmad d a b t s
  | .ffma d a b t => Sys2Proof.Machine.execFfma d a b t s
  | .vand d a b t => Sys2Proof.Machine.execVand d a b t s
  | .vor d a b t => Sys2Proof.Machine.execVor d a b t s
  | .vxor d a b t => Sys2Proof.Machine.execVxor d a b t s
  | .vshl d a b t => Sys2Proof.Machine.execVshl d a b t s
  | .vshr d a b t => Sys2Proof.Machine.execVshr d a b t s
  | .vsar d a b t => Sys2Proof.Machine.execVsar d a b t s
  | .vmin d a b t => Sys2Proof.Machine.execVmin d a b t s
  | .fmin d a b t => Sys2Proof.Machine.execFmin d a b t s
  | .vminu d a b t => Sys2Proof.Machine.execVminu d a b t s
  | .vmax d a b t => Sys2Proof.Machine.execVmax d a b t s
  | .fmax d a b t => Sys2Proof.Machine.execFmax d a b t s
  | .vmaxu d a b t => Sys2Proof.Machine.execVmaxu d a b t s
  | .vbfe d a b t => Sys2Proof.Machine.execVbfe d a b t s
  | .vbfi d a b t => Sys2Proof.Machine.execVbfi d a b t s
  | .vnot d a t => Sys2Proof.Machine.execVnot d a t s
  | .vabs d a t => Sys2Proof.Machine.execVabs d a t s
  | .vneg d a t => Sys2Proof.Machine.execVneg d a t s
  | .vpopc d a t => Sys2Proof.Machine.execVpopc d a t s
  | .fabs d a t => Sys2Proof.Machine.execFabs d a t s
  | .fneg d a t => Sys2Proof.Machine.execFneg d a t s
  | .frnd d a t => Sys2Proof.Machine.execFrnd d a t s
  | .fclass d a t => Sys2Proof.Machine.execFclass d a t s
  | .vcmp m a b r t => Sys2Proof.Machine.execVcmp m a b r t s
  | .fcmp m a b r t => Sys2Proof.Machine.execFcmp m a b r t s
  | .vcmpLtu m a b t => Sys2Proof.Machine.execVcmpLtu m a b t s
  | .fcmpUo m a b t => Sys2Proof.Machine.execFcmpUo m a b t s
  | .vcmpLeu m a b t => Sys2Proof.Machine.execVcmpLeu m a b t s
  | .vclz d a t => Sys2Proof.Machine.execVclz d a t s
  | .vperm d a b => Sys2Proof.Machine.execVperm d a b s
  | .vsel d a b k => Sys2Proof.Machine.execVsel d a b k s
  | .frcp d a t => Sys2Proof.Machine.execFrcp d a t s
  | .frsq d a t => Sys2Proof.Machine.execFrsq d a t s
  | .fsqrt d a t => Sys2Proof.Machine.execFsqrt d a t s
  | .fexp2 d a t => Sys2Proof.Machine.execFexp2 d a t s
  | .flog2 d a t => Sys2Proof.Machine.execFlog2 d a t s
  | .fsin d a t => Sys2Proof.Machine.execFsin d a t s
  | .fcos d a t => Sys2Proof.Machine.execFcos d a t s
  | .cvt d a y t => Sys2Proof.Machine.execCvt d a y t s
  | .dot2F32x2 d a b => Sys2Proof.Machine.execDot2F32x2 d a b s
  | .dot4F16x4 d a b => Sys2Proof.Machine.execDot4F16x4 d a b s
  | .dot4Bf16x4 d a b => Sys2Proof.Machine.execDot4Bf16x4 d a b s
  | .dot4I16x4 d a b => Sys2Proof.Machine.execDot4I16x4 d a b s
  | .dot8I8x8 d a b => Sys2Proof.Machine.execDot8I8x8 d a b s
  | .dot8Binary8 d a b f => Sys2Proof.Machine.execDot8Binary8 d a b f s
  | .cvn d a y f => Sys2Proof.Machine.execCvn d a y f s
  | .cvw d a t f => Sys2Proof.Machine.execCvw d a t f s
  | .cvs d a b f => Sys2Proof.Machine.execCvs d a b f s
  | .welf d a t => Sys2Proof.Machine.execWelf d a t s
  | .wmrg d a t => Sys2Proof.Machine.execWmrg d a t s
  | .shfl d a b => Sys2Proof.Machine.execShfl d a b s
  | .shflx d a b => Sys2Proof.Machine.execShflx d a b s
  | .bcst d a j => Sys2Proof.Machine.execBcst d a j s
  | .voteAny d a => Sys2Proof.Machine.execVoteAny d a s
  | .voteAll d a => Sys2Proof.Machine.execVoteAll d a s
  | .voteBal d a => Sys2Proof.Machine.execVoteBal d a s
  | .rdc d a o e => Sys2Proof.Machine.execRdc d a o e s
  | .scan d a o e => Sys2Proof.Machine.execScan d a o e s
  | .mmov d a => Sys2Proof.Machine.execMmov d a s
  | .mand d a b => Sys2Proof.Machine.execMand d a b s
  | .mor d a b => Sys2Proof.Machine.execMor d a b s
  | .mxor d a b => Sys2Proof.Machine.execMxor d a b s
  | .mnot d a => Sys2Proof.Machine.execMnot d a s
  | .mpop d a => Sys2Proof.Machine.execMpop d a s
  | .mfirst d a => Sys2Proof.Machine.execMfirst d a s
  | .ld d m z x => Sys2Proof.Machine.execLd d m z x s
  | .st v m z => Sys2Proof.Machine.execSt v m z s
  | .lds d m z x => Sys2Proof.Machine.execLds d m z x s
  | .sts v m z => Sys2Proof.Machine.execSts v m z s
  | .ldc d m z x => Sys2Proof.Machine.execLdc d m z x s
  | .atomAdd d m w => Sys2Proof.Machine.execAtomAdd d m w s
  | .atomAnd d m w => Sys2Proof.Machine.execAtomAnd d m w s
  | .atomOr d m w => Sys2Proof.Machine.execAtomOr d m w s
  | .atomXor d m w => Sys2Proof.Machine.execAtomXor d m w s
  | .atomMin d m w => Sys2Proof.Machine.execAtomMin d m w s
  | .atomMax d m w => Sys2Proof.Machine.execAtomMax d m w s
  | .atomMinu d m w => Sys2Proof.Machine.execAtomMinu d m w s
  | .atomMaxu d m w => Sys2Proof.Machine.execAtomMaxu d m w s
  | .atomExch d m w => Sys2Proof.Machine.execAtomExch d m w s
  | .atomFadd d m w => Sys2Proof.Machine.execAtomFadd d m w s
  | .atomFmin d m w => Sys2Proof.Machine.execAtomFmin d m w s
  | .atomFmax d m w => Sys2Proof.Machine.execAtomFmax d m w s
  | .cas d m w => Sys2Proof.Machine.execCas d m w s
  | .pref m z => Sys2Proof.Machine.execPref m z s
  | .pacq d m z x => Sys2Proof.Machine.execPacq d m z x s
  | .fence => Sys2Proof.Machine.execFence s
  | .drain => Sys2Proof.Machine.execDrain s
  | .cctlWb a b => Sys2Proof.Machine.execCctlWb a b s
  | .cctlInv a b => Sys2Proof.Machine.execCctlInv a b s
  | .cctlIinv a b => Sys2Proof.Machine.execCctlIinv a b s
  | .locq d a k => Sys2Proof.Machine.execLocq d a k s
  | .mmaE8 t a b y => Sys2Proof.Machine.execMmaE8 t a b y s
  | .mmasE8 t a b y => Sys2Proof.Machine.execMmasE8 t a b y s
  | .mmauE8 t a b y => Sys2Proof.Machine.execMmauE8 t a b y s
  | .mmaE16 t a b y => Sys2Proof.Machine.execMmaE16 t a b y s
  | .mmasE16 t a b y => Sys2Proof.Machine.execMmasE16 t a b y s
  | .mmauE16 t a b y => Sys2Proof.Machine.execMmauE16 t a b y s
  | .gang a => Sys2Proof.Machine.execGang a s
  | .mzero t a => Sys2Proof.Machine.execMzero t a s
  | .mldw a b => Sys2Proof.Machine.execMldw a b s
  | .mdrnTs t a b y => Sys2Proof.Machine.execMdrnTs t a b y s
  | .mdrnQ t q b y => Sys2Proof.Machine.execMdrnQ t q b y s
  | .mdrnPeer t a b y => Sys2Proof.Machine.execMdrnPeer t a b y s
  | .mrow t q y => Sys2Proof.Machine.execMrow t q y s
  | .grdv d a k => Sys2Proof.Machine.execGrdv d a k s
  | .grdw v a k => Sys2Proof.Machine.execGrdw v a k s
  | .rsub d a c => Sys2Proof.Machine.execRsub d a c s
  | .samp d a c => Sys2Proof.Machine.execSamp d a c s
  | .rbox d g n => Sys2Proof.Machine.execRbox d g n s
  | .rtri d g n => Sys2Proof.Machine.execRtri d g n s
  | .rtriAlpha d g n => Sys2Proof.Machine.execRtriAlpha d g n s
  | .rpsh a c => Sys2Proof.Machine.execRpsh a c s
  | .rpop d c => Sys2Proof.Machine.execRpop d c s
  | .rhit d a g => Sys2Proof.Machine.execRhit d a g s
  | .nrq d a n => Sys2Proof.Machine.execNrq d a n s
  | .hintLo p => Sys2Proof.Machine.execHintLo p s
  | .hintHi p => Sys2Proof.Machine.execHintHi p s
  | .hintMod p => Sys2Proof.Machine.execHintMod p s
  | .hintJoin p => Sys2Proof.Machine.execHintJoin p s
  | .growGrant p tile => Sys2Proof.Machine.execGrowGrant p tile s
  | .shrinkComplete p sl fid => Sys2Proof.Machine.execShrinkComplete p sl fid s
  | .joinFusion p sl j => Sys2Proof.Machine.execJoinFusion p sl j s
  | .fragmentReload p sl => Sys2Proof.Machine.execFragmentReload p sl s
  | .endRetire p sl fid => Sys2Proof.Machine.execEndRetire p sl fid s
  | .yieldHoldExpiry p sl fid => Sys2Proof.Machine.execYieldHoldExpiry p sl fid s
  | .promotion p sl fid => Sys2Proof.Machine.execPromotion p sl fid s
  | .trapDelivery p sl => Sys2Proof.Machine.execTrapDelivery p sl s
  | .hbudExpiry p sl => Sys2Proof.Machine.execHbudExpiry p sl s
  | .swapOut p => Sys2Proof.Machine.execSwapOut p s
  | .swapIn => Sys2Proof.Machine.execSwapIn s
  | .placeBlock => Sys2Proof.Machine.execPlaceBlock s
  | .latchRelease b n => Sys2Proof.Machine.execLatchRelease b n s
  | .engineCommandComplete p => Sys2Proof.Machine.execEngineCommandComplete p s
  | .rsPowerUp p => Sys2Proof.Machine.execRsPowerUp p s
  | .feedPush p => Sys2Proof.Machine.execFeedPush p s
  | .nrqDispatch p => Sys2Proof.Machine.execNrqDispatch p s
  | .nrqComplete p bad => Sys2Proof.Machine.execNrqComplete p bad s
  | .loadComplete p sl id bad => Sys2Proof.Machine.execLoadComplete p sl id bad s
  | .storeTranslate p sl => Sys2Proof.Machine.execStoreTranslate p sl s
  | .atomicRetire k n bad => Sys2Proof.Machine.execAtomicRetire k n bad s
  | .atomErr k => Sys2Proof.Machine.execAtomErr k s
  | .promotionHint k => Sys2Proof.Machine.execPromotionHint k s
  | .pacqSnapshot k => Sys2Proof.Machine.execPacqSnapshot k s
  | .promoteRequest k => Sys2Proof.Machine.execPromoteRequest k s
  | .pacqComplete k bad => Sys2Proof.Machine.execPacqComplete k bad s
  | .copyComplete id bad flip => Sys2Proof.Machine.execCopyComplete id bad flip s
  | .copyChainMemberStart id => Sys2Proof.Machine.execCopyChainMemberStart id s
  | .tcpyComplete id bad => Sys2Proof.Machine.execTcpyComplete id bad s
  | .barrierOperation k => Sys2Proof.Machine.execBarrierOperation k s
  | .barrierWithdrawal k => Sys2Proof.Machine.execBarrierWithdrawal k s
  | .barrierCombinerSend d k => Sys2Proof.Machine.execBarrierCombinerSend d k s
  | .waitPoll cid fid => Sys2Proof.Machine.execWaitPoll cid fid s
  | .ringConsume n bad => Sys2Proof.Machine.execRingConsume n bad s
  | .ringEnable n v => Sys2Proof.Machine.execRingEnable n v s
  | .ringDisable n v => Sys2Proof.Machine.execRingDisable n v s
  | .ringResume n => Sys2Proof.Machine.execRingResume n s
  | .beaconPulse => Sys2Proof.Machine.execBeaconPulse s
  | .launchTransfer p => Sys2Proof.Machine.execLaunchTransfer p s
  | .launchStart id => Sys2Proof.Machine.execLaunchStart id s
  | .launchComplete id bad => Sys2Proof.Machine.execLaunchComplete id bad s
  | .groupCommit g => Sys2Proof.Machine.execGroupCommit g s
  | .shadowCopyBack d k => Sys2Proof.Machine.execShadowCopyBack d k s
  | .faultRecord k => Sys2Proof.Machine.execFaultRecord k s
  | .batchAgeExpiry => Sys2Proof.Machine.execBatchAgeExpiry s
  | .batchDeliver => Sys2Proof.Machine.execBatchDeliver s
  | .fresResolve b => Sys2Proof.Machine.execFresResolve b s
  | .shootdownGo => Sys2Proof.Machine.execShootdownGo s
  | .shootdownDone => Sys2Proof.Machine.execShootdownDone s
  | .mmrlRelease => Sys2Proof.Machine.execMmrlRelease s
  | .ptrtWrite v => Sys2Proof.Machine.execPtrtWrite v s
  | .placRefill v => Sys2Proof.Machine.execPlacRefill v s
  | .ckctGo => Sys2Proof.Machine.execCkctGo s
  | .checkpointSwitch => Sys2Proof.Machine.execCheckpointSwitch s
  | .checkpointStreamAck bad => Sys2Proof.Machine.execCheckpointStreamAck bad s
  | .commitGo => Sys2Proof.Machine.execCommitGo s
  | .commitApply bad => Sys2Proof.Machine.execCommitApply bad s
  | .rgrsRes r => Sys2Proof.Machine.execRgrsRes r s
  | .rgrsRel r => Sys2Proof.Machine.execRgrsRel r s
  | .budgetDebit p k => Sys2Proof.Machine.execBudgetDebit p k s
  | .budgetExhausted k => Sys2Proof.Machine.execBudgetExhausted k s
  | .wdog k => Sys2Proof.Machine.execWdog k s
  | .renderLaunchStart id bad => Sys2Proof.Machine.execRenderLaunchStart id bad s
  | .patchBin id u bad => Sys2Proof.Machine.execPatchBin id u bad s
  | .insertQueueMerge id d => Sys2Proof.Machine.execInsertQueueMerge id d s
  | .bucketStart id d => Sys2Proof.Machine.execBucketStart id d s
  | .bucketSteal id d => Sys2Proof.Machine.execBucketSteal id d s
  | .dicePatch id b => Sys2Proof.Machine.execDicePatch id b s
  | .gridShadeStart id b => Sys2Proof.Machine.execGridShadeStart id b s
  | .gridHandoff id b => Sys2Proof.Machine.execGridHandoff id b s
  | .gridRasterise id b => Sys2Proof.Machine.execGridRasterise id b s
  | .bucketResolve id b bad => Sys2Proof.Machine.execBucketResolve id b bad s
  | .refreshEpoch k => Sys2Proof.Machine.execRefreshEpoch k s
  | .start fail => Sys2Proof.Machine.execStart fail s
  | .startFailRestart => Sys2Proof.Machine.execStartFailRestart s
  | .dcmdRst => Sys2Proof.Machine.execDcmdRst s
  | .dcmdRplc => Sys2Proof.Machine.execDcmdRplc s
  | .dcmdFwld n => Sys2Proof.Machine.execDcmdFwld n s
  | .attestation => Sys2Proof.Machine.execAttestation s
  | .ulctEn en => Sys2Proof.Machine.execUlctEn en s
  | .ulctCls => Sys2Proof.Machine.execUlctCls s
  | .ulctRoll => Sys2Proof.Machine.execUlctRoll s
  | .wsctGo => Sys2Proof.Machine.execWsctGo s
  | .weightStoreLoad bad => Sys2Proof.Machine.execWeightStoreLoad bad s
  | .spareRemap u => Sys2Proof.Machine.execSpareRemap u s
  | .spareForceSave p => Sys2Proof.Machine.execSpareForceSave p s
  | .correctedError u d => Sys2Proof.Machine.execCorrectedError u d s
  | .uncorr l => Sys2Proof.Machine.execUncorr l s
  | .linkRetrain k => Sys2Proof.Machine.execLinkRetrain k s
  | .powerCheck w => Sys2Proof.Machine.execPowerCheck w s
  | .coolantFault => Sys2Proof.Machine.execCoolantFault s
  | .coolantTimeout => Sys2Proof.Machine.execCoolantTimeout s
  | .hostRegisterWrite off v => Sys2Proof.Machine.execHostRegisterWrite off v s
  | .driverPreemptRequest r => Sys2Proof.Machine.execDriverPreemptRequest r s
  | .storePerformed k => Sys2Proof.Machine.execStorePerformed k s
  | .renderResultArrival p sl id bad => Sys2Proof.Machine.execRenderResultArrival p sl id bad s
  | .instructionFetch p sl fid k => Sys2Proof.Machine.execInstructionFetch p sl fid k s
  | .iinvAcknowledged p sl fid => Sys2Proof.Machine.execIinvAcknowledged p sl fid s
  | .refreshEpochEnd k => Sys2Proof.Machine.execRefreshEpochEnd k s
  | .linkRetrainComplete k => Sys2Proof.Machine.execLinkRetrainComplete k s
  | .coolantRestored => Sys2Proof.Machine.execCoolantRestored s
  | .hostPeerAccess who va n data => Sys2Proof.Machine.execHostPeerAccess who va n data s
  | .memoryScrubbing d fixed => Sys2Proof.Machine.execMemoryScrubbing d fixed s
  | .registerLaneError p sl v lane => Sys2Proof.Machine.execRegisterLaneError p sl v lane s

end Sys2Proof.Machine
end

