-- ==== Sys2Proof/Machine/Turns.lean ====
section
/-! DEFINITION. What a turn does: an issue cycle of a quarter (R27, R57, R196), cycles of the clocks (R15), free actions of
caches and of the outside, events; and what follows every turn at once. -/

namespace Sys2Proof.Machine

open Sys2Proof

/-- A row of the table without bits: an event. -/
def isEvent (i : Instr) : Bool := (encode i).isNone

/-! ## Issue -/

/-- Did a trap come of an instruction: a handler entered or on its way, a crew ended, a launch replayed? -/
def trapTaken (s t : State) : Bool :=
  decide (s.reports.length < t.reports.length) ||
    (t.cur.alive && t.cur.cid == s.cur.cid && (t.cur.cst.lvl != s.cur.cst.lvl || t.cur.entering.isSome))

/-- Is a word a modifiers hint too many, whatever its payload (R52)? -/
def secondMod (run : List Hint) (w : Nat) : Bool := w / 2 ^ 24 == 0xFE && !runAdmits run (.mod (BitVec.ofNat 24 w))

/-- The word under the issue stage runs: its meaning, or ILLEGAL, at a high hint that it follows, at its own address when it breaks a
limit of the run, or at the run (R52, R60). Of several ILLEGAL offences the spec names none first: this one of the word goes before
those of hints that it does not accept (log 72 DESIGN CHOICE unsafe). -/
def issueWord (s : State) : Res :=
  match decode s.ir with
  | .ok i => exec i s
  | .error _ =>
    .next (match (dueImprec s .nop {}).or (failedTrap s.cur.fr), s.cur.fr.run.getLast? with
      | some t, _ => raise s t
      | none, some (.hi p) => illegalAt s (Hint.hi p).word (s.cur.fr.pc - 4)
      | none, _ => if secondMod s.cur.fr.run s.ir then illegalAt s s.ir s.cur.fr.pc else illegal s)

/-- The issuing fragment with its whole run behind it and the word that ends the run under the issue stage. -/
def atConsumer (s : State) : State :=
  match ahead s.cur s.cur.fr with
  | none => s
  | some (run, w) => { modFr s (fun f => withRun f run) with ir := w }

/-- A crew owed a PREEMPT stands at an instruction boundary: a cause of its next instruction goes first (R33, R196). -/
def boundary (s : State) : Res :=
  match issueWord (atConsumer s) with
  | .next t => .next (if trapTaken s t then t else takePreempt s)
  | r => r

/-- Is a PREEMPT due for the crew at issue? -/
def owed (s : State) : Bool := s.cur.preDue.isSome && s.cur.cst.lvl == .none

/-- A core's bookkeeping after a fragment of crew `cid` has issued word `ir`: the run or the further cycles it holds its
quarter for, and the skid of the crew's stores (R57, R122, R235). -/
def account (s t : State) (p q : Nat) (waiting : List (Nat × Nat)) : State :=
  let who := (s.cur.cid, s.cur.fr.fid)
  let old := s.cur.stores.map fun x => x.id
  let older (x : StoreReq) : StoreReq := if old.contains x.id then { x with skid := x.skid + 1 } else x
  let t := modCrew t who.1 fun c => { c with stores := c.stores.map older }
  let inRun := match crew? t who.1 with
    | some c => c.all.any fun f => f.fid == who.2 && !f.run.isEmpty && f.park == .none
    | none => false
  let cost := match decode s.ir with | .ok i => issueCost i | .error _ => 1
  let t := modQuarter t p q fun k =>
    { k with turn := if inRun || 1 < cost then some who else none, busy := cost - 1, region := s.cur.region }
  passOver t p q who waiting

/-- An issue cycle of a quarter that is not capped (R27); it is counted before what issues in it may leave the core (R322). -/
def issueCycle (s : State) (p q : Nat) : Res :=
  let s := releaseTurn s p q
  let k := quarterAt s p q
  let waiting := ((quarterFrags s p q).filter fun x => ready s x.1 x.2).map nameOf
  if 0 < k.busy then
    match k.turn with
    | none => .next (modQuarter s p q fun k => { k with busy := 0 })
    | some t =>
      let s := modQuarter s p q fun k => { k with busy := k.busy - 1, turn := if k.busy = 1 then none else k.turn }
      .next (debitRest (countCycle (passOver s p q t waiting) p k.region) p k.region)
  else
    match pick s p q with
    | none => .next (idleCycle s p q)
    | some x =>
      match (focus s p x.1.slot).bind fun t => focusFrag t x.2.fid with
      | none => .next s
      | some s =>
        let s := modQuarter s p q fun k => { k with promo := k.promo.filter fun t => t != nameOf x }
        let s := modFr s fun f => { f with passed := 0 }
        let s := { s with ir := ((kget s.cur.ibuf s.cur.fr.pc.toNat).getD 0).toNat }
        if owed s then
          match boundary s with
          | .next t => .next (passOver (modQuarter t p q fun k => { k with turn := none }) p q (nameOf x) waiting)
          | r => r
        else
          let waits := match decode s.ir with | .ok i => held s i | .error _ => false
          if waits then .next s
          else
            let s := countCycle s p s.cur.region
            match issueWord s with
            | .next t => .next (account s t p q waiting)
            | r => r

/-- A cycle under the issue duty: is it an issue cycle, and the account after it? Each cycle gives `duty` sixteenths of one, an issue
cycle takes sixteen, and four in a row hold one; which of the cycles that the account allows is one is open (R30, R394, log 34 DESIGN
CHOICE safe). -/
def dutyCycle (s : State) (d : Duty) : Bool × Duty × State :=
  if 16 ≤ s.dev.duty then (true, Duty.zero, s)
  else
    let c := d.credit + s.dev.duty
    let r := if 16 ≤ c && c < 32 && d.capped < 3 then choose s 2 else (if d.capped < 3 && c < 16 then 1 else 0, s)
    if r.1 = 0 then (true, ⟨c - 16, 0⟩, r.2) else (false, ⟨c, d.capped + 1⟩, r.2)

/-- A cycle of a quarter (R30, R369, R394). -/
def issueTurn (s : State) (p q : Nat) : Res :=
  let r := dutyCycle s (quarterAt s p q).duty
  let t := modQuarter r.2.2 p q fun k => { k with duty := r.2.1 }
  if r.1 then issueCycle t p q
  else .next (if (pick s p q).isSome then modCore t p fun c => countEvt c 0x02 1 else t)

/-! ## Clocks -/

/-- A cycle of a core and its engine (R199, R363, R369, R394). -/
def coreCycle (s : State) (p : Nat) : State :=
  let tick (c : Crew) : Crew :=
    if c.pair != p then c
    else { c with
      hbud := if c.cst.lvl == .preempt then c.hbud - 1 else c.hbud
      preDue := c.preDue.map (· + 1) }
  let d := dutyCycle s (coreAt s p).engDuty
  let s := d.2.2
  let s := { s with cur := tick s.cur, crews := s.crews.map tick }
  modCore s p fun c =>
    let c := { c with
      engOn := d.1, engDuty := d.2.1,
      ccyc := (c.ccyc + 1) % 2 ^ 64, remapAge := if c.remapping = 0 then c.remapAge else c.remapAge + 1 }
    if opqSize ≤ c.opq.length then countEvt c 0x06 1 else c

/-- A cycle of the H die: its clock, the Beacon's distance and the watchdogs (R368, R381). -/
def hostCycle (s : State) : State :=
  watchdogCycle { s with now := s.now + 1, ctr := { s.ctr with bAge := s.ctr.bAge.map (· + 1) } }

/-- A cycle of a die: of the H die, of a V die's barrier combiner (R378), or of an M die's refresh phase (R363). -/
def dieCycle (s : State) (k : Nat) : State :=
  if k = 0 then hostCycle s
  else if k ≤ 4 then
    { s with combiner := s.combiner.map fun e => if e.die + 1 = k then { e with age := e.age + 1 } else e }
  else
    { s with ctr := { s.ctr with
      rfph := s.ctr.rfph.setIfInBounds (k - 5) ((s.ctr.rfph.getD (k - 5) 0 + 1) % 2 ^ 17) } }

/-- A cycle of the fault unit: the open batch's oldest record ages (R350). -/
def faultCycle (s : State) : State :=
  if s.xl.recs.isEmpty then s else { s with xl := { s.xl with recAge := s.xl.recAge + 1 } }

/-! ## What follows at once -/

/-- The fragment that a trap has suspended: a handler's F, or F of a trap whose delivery has begun (R193). -/
def suspended (c : Crew) (f : Frag) : Bool :=
  (c.cst.lvl != .none && f.fid == c.trapped) || c.entering.any fun b => b.fid == f.fid

/-- Fragments whose next address is their join's, at a continuation too (R179, R303); F arrives after its return (R198). -/
def arriveJoins (s : State) : State :=
  let arrive (c : Crew) : Crew :=
    c.mapFrags fun f =>
      if (f.park == .none || f.park == .cont) && f.run.isEmpty && !suspended c f then
        match f.join with
        | some j => match c.joins.find? fun r => r.jid == j with
          | some r => if r.j == f.pc then { f with park := .join } else f
          | none => f
        | none => f
      else f
  { s with cur := if s.cur.alive then arrive s.cur else s.cur, crews := s.crews.map arrive }

/-- The empty result queue that a fragment's next instruction would pop (R295). -/
def emptyQueue (s : State) (c : Crew) (f : Frag) : Option Nat :=
  match ahead c f with
  | none => none
  | some (run, w) => match decode w with
    | .ok i =>
      let t := { s with cur := focused c (withRun f run) }
      (popped t.cur (uses t i)).find? fun k => (c.qregs.getD k default).count == 0
    | .error _ => none

/-- Fragments that would pop an empty result queue sleep on it, with no part of a run (R26, R57, R295). -/
def sleepOnQueues (s : State) : State :=
  let sleep (c : Crew) : Crew :=
    if c.qregs.toList.any fun q => isResultQ q && q.count == 0 then
      c.mapFrags fun f =>
        if f.park != .none || !runnable c f then f
        else match emptyQueue s c f with
          | some k => { f with pc := tpcOf f, run := [], park := .queue k }
          | none => f
    else c
  { s with cur := if s.cur.alive then sleep s.cur else s.cur, crews := s.crews.map sleep }

/-- Does the device read a counter now: a local one always, another's after a write of its own to it, whatever that left there (R380, log
33 DEDUCED safe)? -/
def seesCounter (s : State) (at_ : PA) : Bool :=
  match at_.sp with
  | .sys | .peer _ => s.wrote.any fun w => overlaps w.1 w.2 at_ 8
  | _ => true

/-- Is a park's condition met? -/
def parkClear (s : State) (c : Crew) (f : Frag) : Bool :=
  match f.park with
  | .wcnt sel q => decide (wcntCount s c sel ≤ q)
  | .drain => c.stores.isEmpty
  | .fence _ rel sc => fenceClear s c f rel sc
  | .barTok at_ k | .barw at_ k => barMet s c at_ k
  | .wait at_ _ target _ _ => seesCounter s at_ && found s c.pair at_ target
  | .qbind k => !bindWaits { s with cur := c } k
  | .queue k => !isResultQ (c.qregs.getD k default) || (c.qregs.getD k default).count != 0
  | .storeBatch _ [] => c.stores.isEmpty
  | _ => false

/-- A parked instruction completes, or issues again to take a recorded fault (R195). -/
def settleFrag (s : State) (cid fid : Nat) : State :=
  match (focusCid s cid).bind fun t => focusFrag t fid with
  | none => s
  | some t =>
    if !parkClear t t.cur t.cur.fr then s
    else
      let st := stampNow t
      let t := modFr st.2 fun f => { f with stamp := st.1 }
      let again := modFr t fun f => { f with park := .none }
      match t.cur.fr.park with
      | .wcnt .. => if (dueImprec t (.wcnt 0) {}).isSome then again else completeParked t
      | .drain => if (dueImprec t .drain {}).isSome then again else completeParked t
      | .fence acq rel sc =>
        if (dueImprec t .fence {}).isSome then again else completeParked (fenceDone t acq rel sc)
      | .barTok at_ _ => completeParked (barReturn t at_)
      | .barw at_ _ => if (dueImprec t (.barw 0 0) {}).isSome then again else completeParked (barReturn t at_)
      | .wait at_ _ _ _ _ => completeParked (waitReturn t at_)
      | .qbind _ => completeParked (bindDone t)
      | .storeBatch .. | .queue _ => again
      | _ => s

/-- Every parked instruction whose condition is met (log 22 DEDUCED safe). -/
def settleParks (s : State) : State :=
  ((allCrews s).flatMap fun c => (c.all.filter fun f => parkClear s c f).map fun f => (c.cid, f.fid)).foldl
    (fun s x => settleFrag s x.1 x.2) s

/-- Saved crews whose counter is found at its target (R31); every wait has now looked. -/
def settleSaved (s : State) : State :=
  { s with
    saved := s.saved.map (fun k => match k.waitsOn with
      | some (at_, _) => if seesCounter s at_ then wakeSaved s k else k
      | none => k),
    wrote := [] }

/-- Traps whose delivery has begun (R193, R376). -/
def settleTraps (s : State) : State :=
  ((allCrews s).filter fun c => c.entering.isSome).foldl (fun s c => match focusCid s c.cid with
    | some t => settleTrap t
    | none => s) s

/-- Saves that wait (R201). -/
def settleSaves (s : State) : State :=
  ((allCrews s).filter fun c => c.saving != 0).foldl (fun s c => match focusCid s c.cid with
    | some t => trySave (noteMet t)
    | none => s) s

/-- Tiles of retired crews whose commands have completed go back to their pool (R187). -/
def settleGhosts (s : State) : State :=
  s.ghosts.foldl (fun s g =>
    if engHolds s g.pair g.cid then s
    else modCore { s with ghosts := s.ghosts.filter fun x => x.cid != g.cid } g.pair fun c =>
      { c with tfree := c.tfree + g.tn }) s

/-- Blocks whose crews have all retired leave their core, with the save slot that one held (R187, R327). -/
def retireBlocks (s : State) : State :=
  s.blocks.foldl (fun s b =>
    if b.retired.length < b.crews || blockBusy s b then s
    else
      let s := match (launchAt? s b.launch).bind fun l => regionAt? s l.lr.regn with
        | some r => keepBlock s b r
        | none => s
      let s := { s with blocks := s.blocks.filter fun x => x.bid != b.bid }
      modLaunch s b.launch fun l => { l with retiredBlocks := l.retiredBlocks + 1 }) s

/-- Pairs that are being taken out of service (R389). -/
def settleRemaps (s : State) : State :=
  s.cores.foldl (fun s x => if x.2.remapping = 0 then s else settleRemap s x.1) s

/-- What follows every turn. -/
def afterTurn (s : State) : State :=
  settleRemaps (settleBuckets (retireBlocks (settleGhosts (settleBlocks (settleSaves (settleTraps (sleepOnQueues
    (settleSaved (settleParks (arriveJoins s))))))))))

/-! ## Turns -/

/-- One turn. -/
def turn (t : Turn) (s : State) : Res :=
  match t with
  | .issue p q => issueTurn s p q
  | .coreCycle p => .next (coreCycle s p)
  | .dieCycle k => .next (dieCycle s k)
  | .faultCycle => .next (faultCycle s)
  | .evict p k => .next (match (coreAt s p).l1[k]? with | some l => if lineHeld s p l then s else dropLine s p l | none => s)
  | .evictCode p k => .next (modCore s p fun c => { c with icache := dropAt c.icache k })
  | .dropTlb p k => .next (modCore s p fun c => { c with tlb := dropAt c.tlb k })
  | .dropTlb2 c k => .next { s with tlb2 := kset s.tlb2 c (dropAt (kgetD s.tlb2 c []) k) }
  | .loadElement cid fut k => .next (nrqElement (loadElement s cid fut k) cid fut k)
  | .copyElement id k => .next (copyElement s id k)
  | .lineError n bad => .next { s with badLines := (s.badLines.filter fun l => l != n) ++ if bad then [n] else [] }
  | .rollStep => .next (rollStep s)
  | .atomArrive i => .next (arriveAtom s i)
  | .outside none a b => .next { s with sys := s.sys.write a b }
  | .outside (some n) a b => .next { s with peers := kset s.peers n ((peerMem s n).write a b) }
  | .driverStore a b => .next (if linkHeld s .h ⟨.loc, a⟩ || s.dev.retraining.contains 20 || outHeld s a then s else homeWrite s a b)
  | .event e => if isEvent e then exec e s else .next s

/-- A turn taken, with what follows at once. -/
def take (t : Turn) (s : State) : Res :=
  match turn t s with
  | .next u => .next (afterTurn u)
  | r => r

/-! ## A fetched word -/

/-- A crew that is ready to issue on core 0: the one that `withFetchWord` uses when none is there. -/
def Crew.fresh : Crew :=
  { Crew.none with
    alive := true, cid := 1, lm := 0xFFFFFFFF, vn := 128, tn := 32,
    fr := { Frag.zero with fid := 1, fl := 0xFFFFFFFF, xm := 0xFFFFFFFF, entry := some 0 } }

end Sys2Proof.Machine
end

