-- ==== Sys2Proof/Machine/Step.lean ====
section
/-! DEFINITION. The step, and a word placed where the next step takes it from. -/

namespace Sys2Proof.Machine

open Sys2Proof

/-- One step: the next turn of the agenda, or a free one when it is empty (log 1 DESIGN CHOICE safe). -/
def step (s : State) : Host.Outcome State Fault Refusal :=
  match s.agenda with
  | t :: rest => take t { s with agenda := rest }
  | [] => take (Config.nextTurn s.tick) { s with tick := s.tick + 1 }

/-- A word in the instruction buffer of the crew at issue, at its fragment's `PC`, a word of zeros behind it (a hint issues only
with what ends its run in the buffer), with that fragment's turn at the head of the agenda; a crew is placed when there is none
(log 1 DESIGN CHOICE safe). -/
def State.withFetchWord (s : State) (nbits w : Nat) : State :=
  let k := if s.cur.alive then s.cur else Crew.fresh
  let f := { k.fr with entry := some (k.fr.entry.getD 0), hold := none, park := .none, run := [] }
  let k := { k with fr := f, entering := none, saving := 0, preDue := none,
                    ibuf := [(f.pc.toNat, BitVec.ofNat 32 (w % 2 ^ nbits)), ((f.pc + 4).toNat, 0)] }
  let s := { s with cur := k, agenda := [.issue k.pair (k.slot % 4)], nextId := max s.nextId 2 }
  modQuarter s k.pair (k.slot % 4) fun q => { q with turn := some (k.cid, f.fid), busy := 0, duty := ⟨16, 3⟩ }

end Sys2Proof.Machine
end

