-- ==== Sys2Proof/Safety.lean ====
section
/-! DEFINITION. What a safe run is, and the terms claims are stated in: when an instruction reaches its own effect, and what
a step leaves as it was. -/

namespace Sys2Proof

open Sys2Proof.Machine

/-- A step that neither faults nor is refused. -/
def Safe (s : State) : Prop := ∃ t, step s = .next t

/-- The registers beyond its allotment that an instruction names (R42, R306). -/
def tooHigh (s : State) (i : Instr) : List Nat := beyond s.cur (uses s i) (isNrq i)

/-- An instruction reaches its own effect (R26, R43, R55, R196): a crew is at issue; no operand, queue or unit holds it; no
recorded fault and none of an earlier issue is due; it accepts every hint before it; its registers are allotted. -/
structure Ready (s : State) (i : Instr) : Prop where
  alive : s.cur.alive = true
  free : held s i = false
  due : dueImprec s i (uses s i) = none
  kept : failedTrap s.cur.fr = none
  hints : badHint (accepts i) s.cur.fr.run = none
  allotted : tooHigh s i = []

/-- The issuing fragment after an instruction that completes at `pc`: its run and its word are folded into `dmk`, the run is
spent and it is parked no more (R57, R173, R188). -/
def after (s : State) (pc : VAddr) : Frag :=
  { s.cur.fr with dmk := foldRun s.cur.fr.dmk s.cur.fr.run s.ir, run := [], pc := pc, park := .none }

/-- The address of the next word. -/
def nextPc (s : State) : VAddr := s.cur.fr.pc + 4

/-- The second operand of a uniform instruction: the wide immediate of its hints, else the register (R54, R104). -/
def wideOr (s : State) (v : Word) : Word := (curMods s).wide.getD v

/-- What a uniform instruction does: `cd` gets the value unless it is `cz`, the fragment moves to `pc`, and nothing else
changes anywhere (R98). -/
def SetsUniform (s : State) (i : Instr) (d : CReg) (v : Word) (pc : VAddr) : Prop :=
  ∃ t, exec i s = .next t ∧
    (∀ r : CReg, getC t r = if r = d ∧ d.val ≠ 63 then v else getC s r) ∧
    t = { s with cur := { s.cur with c := t.cur.c, fr := after s pc } }

/-- What an affine instruction does (R98, R107). -/
def SetsAffine (s : State) (i : Instr) (d : AReg) (b : Word) (st : BitVec 32) : Prop :=
  ∃ t, exec i s = .next t ∧
    (∀ r : AReg, getA t r = if r = d ∧ d.val ≠ 31 then ⟨b, st⟩ else getA s r) ∧
    t = { s with cur := { s.cur with a := t.cur.a, fr := after s (nextPc s) } }

/-- An instruction that only moves its fragment. -/
def OnlyMoves (s : State) (i : Instr) (pc : VAddr) : Prop :=
  exec i s = .next { s with cur := { s.cur with fr := after s pc } }

/-- An instruction that raises a cause at its own address, by the shared operation that takes it (R193). -/
def Raises (s : State) (i : Instr) (t : Trap) : Prop := exec i s = .next (raise s t)

/-! ## Lane by lane -/

/-- The lanes an instruction works on (R119). -/
def active (s : State) : Mask := actOf s (curMods s)

/-- No active lane of the registers listed holds poison (R120), and the instruction names no window of a bound queue (R295,
R296). -/
structure Clean (s : State) (i : Instr) (srcs : List Nat) : Prop where
  sound : ∀ r ∈ srcs, s.cur.poisonOf r &&& active s = 0
  pops : popped s.cur (uses s i) = []
  feeds : fed s.cur (uses s i) = []

/-- What an instruction with one varying destination does: lane `l` of the active lanes gets `f l` and, where `bad l`, poison,
unless the destination is `vz`; every other lane of every register keeps its value and its poison; `nsf` and `DSRC` are as
given; the fragment moves on; nothing else changes anywhere (R98, R119, R120). -/
def SetsLanes (s : State) (i : Instr) (d : VReg) (f : Nat → Word) (bad : Nat → Bool) (nsf : Word) (dsrc : Bool) : Prop :=
  ∃ t, exec i s = .next t ∧
    (∀ r l : Nat, l < 32 → laneAt (t.cur.vreg r) l =
      if r = d.val ∧ d.val ≠ 127 ∧ inMask (active s) l = true then f l else laneAt (s.cur.vreg r) l) ∧
    (∀ r l : Nat, l < 32 → inMask (t.cur.poisonOf r) l =
      if r = d.val ∧ d.val ≠ 127 ∧ inMask (active s) l = true then bad l else inMask (s.cur.poisonOf r) l) ∧
    t = { s with cur := { s.cur with
      v := t.cur.v, poison := t.cur.poison, nsf := nsf, cst := { s.cur.cst with dsrc := dsrc }, fr := after s (nextPc s) } }

/-- The same, element by element: element `e` of width `w` of an active lane `l` becomes `g l e`, and holds no poison. -/
def SetsElements (s : State) (i : Instr) (d : VReg) (w : Nat) (g : Nat → Nat → Nat) (nsf : Word) : Prop :=
  ∃ f, SetsLanes s i d f (fun _ => false) nsf s.cur.cst.dsrc ∧ ∀ l e, l < 32 → e < 64 / w → sub w (f l) e = g l e

/-- Does any element of an active lane meet a condition? -/
def anyElement (s : State) (w : Nat) (p : Nat → Nat → Bool) : Bool :=
  (lanesOf (active s)).any fun l => (List.range (64 / w)).any (p l)

/-- Does any active lane meet a condition? -/
def anyLane (s : State) (p : Nat → Bool) : Bool := (lanesOf (active s)).any p

/-- `nsf` with a flag set where a condition holds (R75). -/
def withFlag (x : Word) (bit : Nat) (b : Bool) : Word := if b then x ||| BitVec.ofNat 64 (2 ^ bit) else x

/-- What a compare does: the destination mask gets `p l` in the active lanes, 0 in the other lanes of `live(xm)` and in dead
lanes, and keeps its other bits; nothing else changes (R128). -/
def SetsMask (s : State) (i : Instr) (k : MReg) (p : Nat → Bool) : Prop :=
  ∃ t, exec i s = .next t ∧
    (∀ r : MReg, ∀ l : Nat, l < 32 → inMask (getM t r) l =
      if r = k then
        (if inMask (active s) l then p l else inMask (getM s k) l && inMask s.cur.lm l && !inMask (liveXm s) l)
      else inMask (getM s r) l) ∧
    t = { s with cur := { s.cur with m := t.cur.m, fr := after s (nextPc s) } }

/-! ## Memory -/

/-- Every memory of a state is in its canonical form: addresses rise strictly, and no listed byte is the 0 that an unlisted one
reads as. -/
def MemoriesCanonical (s : State) : Prop :=
  s.loc.wf = true ∧ s.sys.wf = true ∧ (∀ x ∈ s.peers, x.2.wf = true) ∧ (∀ x ∈ s.weights, x.2.wf = true) ∧
    (∀ b ∈ s.blocks, b.scratch.wf = true) ∧ (∀ x ∈ s.cores, x.2.tstore.wf = true) ∧ s.ctr.spare.wf = true

end Sys2Proof
end

