-- ==== Sys2Proof/Certificates/Slice0/Obligations.lean ====
section
/-! DEFINITION. The statements for the provers. Each says what an instruction, an event or the machine does, and cites the rules it
follows; `Ready`, `SetsUniform`, `SetsLanes` and the other terms are those of Safety.lean. -/

open Sys2Proof Sys2Proof.Machine

/-! ## Uniform and affine registers -/

/-- R105, with R104 and R147: the results of the uniform sub-ops, with `a` the first source and `b` the second operand of R104
(a wide immediate in place of the register when hints carry one); shift amounts are the low six bits of `b`; the compares give 1
or 0; `csel`, `cmad` read the old destination; the destination is written unless it is `cz`; nothing else changes but the
fragment's advance. -/
def Obligations.UniformResults : Prop :=
  (∀ (s : State) (d a b : CReg) (k : BitVec 14), (d.val = 63 ∨ fullMask s = true) →
     let x := getC s a
     let y := wideOr s (getC s b)
     (Ready s (.cadd d a b) → SetsUniform s (.cadd d a b) d (x + y) (nextPc s)) ∧
     (Ready s (.caddImm d a k) → SetsUniform s (.caddImm d a k) d (x + wideOr s (k.signExtend 64)) (nextPc s)) ∧
     (Ready s (.csub d a b) → SetsUniform s (.csub d a b) d (x - y) (nextPc s)) ∧
     (Ready s (.cmul d a b) → SetsUniform s (.cmul d a b) d (x * y) (nextPc s)) ∧
     (Ready s (.cmulh d a b) →
       SetsUniform s (.cmulh d a b) d ((x.signExtend 128 * y.signExtend 128).extractLsb' 64 64) (nextPc s)) ∧
     (Ready s (.cmad d a b) → SetsUniform s (.cmad d a b) d (getC s d + x * y) (nextPc s)) ∧
     (Ready s (.cmov d a) → SetsUniform s (.cmov d a) d (wideOr s x) (nextPc s)) ∧
     (Ready s (.cnot d a) → SetsUniform s (.cnot d a) d (x ^^^ BitVec.allOnes 64) (nextPc s))) ∧
  (∀ (s : State) (d a b : CReg), (d.val = 63 ∨ fullMask s = true) →
     let x := getC s a
     let y := wideOr s (getC s b)
     (Ready s (.cand d a b) → SetsUniform s (.cand d a b) d (x &&& y) (nextPc s)) ∧
     (Ready s (.cor d a b) → SetsUniform s (.cor d a b) d (x ||| y) (nextPc s)) ∧
     (Ready s (.cxor d a b) → SetsUniform s (.cxor d a b) d (x ^^^ y) (nextPc s)) ∧
     (Ready s (.cshl d a b) → SetsUniform s (.cshl d a b) d (x <<< (y &&& 63)) (nextPc s)) ∧
     (Ready s (.cshr d a b) → SetsUniform s (.cshr d a b) d (x >>> (y &&& 63)) (nextPc s)) ∧
     (Ready s (.csar d a b) → SetsUniform s (.csar d a b) d (x.sshiftRight' (y &&& 63)) (nextPc s))) ∧
  (∀ (s : State) (d a b : CReg), (d.val = 63 ∨ fullMask s = true) →
     let x := getC s a
     let y := wideOr s (getC s b)
     let bit (p : Bool) : Word := if p then 1 else 0
     (Ready s (.cmin d a b) → SetsUniform s (.cmin d a b) d (BitVec.ofInt 64 (min x.toInt y.toInt)) (nextPc s)) ∧
     (Ready s (.cminu d a b) → SetsUniform s (.cminu d a b) d (BitVec.ofNat 64 (min x.toNat y.toNat)) (nextPc s)) ∧
     (Ready s (.cmax d a b) → SetsUniform s (.cmax d a b) d (BitVec.ofInt 64 (max x.toInt y.toInt)) (nextPc s)) ∧
     (Ready s (.cmaxu d a b) → SetsUniform s (.cmaxu d a b) d (BitVec.ofNat 64 (max x.toNat y.toNat)) (nextPc s)) ∧
     (Ready s (.ccmpEq d a b) → SetsUniform s (.ccmpEq d a b) d (bit (decide (x = y))) (nextPc s)) ∧
     (Ready s (.ccmpNe d a b) → SetsUniform s (.ccmpNe d a b) d (bit (decide (x ≠ y))) (nextPc s)) ∧
     (Ready s (.ccmpLt d a b) → SetsUniform s (.ccmpLt d a b) d (bit (decide (x.toInt < y.toInt))) (nextPc s)) ∧
     (Ready s (.ccmpLe d a b) → SetsUniform s (.ccmpLe d a b) d (bit (decide (x.toInt ≤ y.toInt))) (nextPc s)) ∧
     (Ready s (.ccmpLtu d a b) → SetsUniform s (.ccmpLtu d a b) d (bit (decide (x.toNat < y.toNat))) (nextPc s)) ∧
     (Ready s (.ccmpLeu d a b) → SetsUniform s (.ccmpLeu d a b) d (bit (decide (x.toNat ≤ y.toNat))) (nextPc s)) ∧
     (Ready s (.csel d a b) → SetsUniform s (.csel d a b) d (if getC s d = 0 then y else x) (nextPc s))) ∧
  (∀ (s : State) (d a b : CReg) (k : MaskSel), (d.val = 63 ∨ fullMask s = true) →
     let x := getC s a
     let y := wideOr s (getC s b)
     let o := y.toNat % 64
     let n := min (y.toNat / 256 % 128) (64 - o)
     (Ready s (.cbfe d a b) → SetsUniform s (.cbfe d a b) d ((x >>> o) &&& BitVec.ofNat 64 (2 ^ n - 1)) (nextPc s)) ∧
     (Ready s (.cpopc d a) → SetsUniform s (.cpopc d a) d
       (BitVec.ofNat 64 ((List.range 64).filter fun i => x.getLsbD i).length) (nextPc s)) ∧
     (Ready s (.cclz d a) → SetsUniform s (.cclz d a) d
       (BitVec.ofNat 64 (if x = 0 then 64 else 63 - x.toNat.log2)) (nextPc s)) ∧
     (Ready s (.mpop d k) → SetsUniform s (.mpop d k) d
       (BitVec.ofNat 64 ((List.range 32).filter fun i => (maskSrc s k).getLsbD i).length) (nextPc s)))

/-- R107: base and stride of every affine result, computed exactly and then reduced; a stride beyond 32 bits is AFFOVF and
changes no register; a destination other than `az` needs a full mask. -/
def Obligations.AffineResults : Prop :=
  ∀ (s : State) (d a b : AReg) (c : CReg),
    let x := getA s a
    let y := getA s b
    let u := getC s c
    let v := wideOr s u
    let n := v.toNat % 64
    let result (i : Instr) (nb : Word) (ns : Int) : Prop :=
      (-(2 ^ 31) ≤ ns ∧ ns ≤ 2 ^ 31 - 1 → SetsAffine s i d nb (BitVec.ofInt 32 ns)) ∧
      (ns < -(2 ^ 31) ∨ 2 ^ 31 - 1 < ns → Raises s i { cause := .affovf })
    let partly (i : Instr) : Prop := Ready s i → Raises s i { cause := .upartial, lanes := s.cur.lm &&& ~~~s.cur.fr.xm }
    ((d.val = 31 ∨ fullMask s = true) →
      (Ready s (.amov d a) → SetsAffine s (.amov d a) d x.base x.stride) ∧
      (Ready s (.aidx d c) → SetsAffine s (.aidx d c) d u 1) ∧
      (Ready s (.aaddA d a b) → result (.aaddA d a b) (x.base + y.base) (x.stride.toInt + y.stride.toInt)) ∧
      (Ready s (.aaddC d a c) → SetsAffine s (.aaddC d a c) d (x.base + v) x.stride) ∧
      (Ready s (.asubA d a b) → result (.asubA d a b) (x.base - y.base) (x.stride.toInt - y.stride.toInt)) ∧
      (Ready s (.asubC d a c) → SetsAffine s (.asubC d a c) d (x.base - v) x.stride) ∧
      (Ready s (.amul d a c) → result (.amul d a c) (x.base * v) (x.stride.toInt * v.toInt)) ∧
      (Ready s (.ashl d a c) → result (.ashl d a c) (x.base * BitVec.ofNat 64 (2 ^ n)) (x.stride.toInt * 2 ^ n))) ∧
    (d.val ≠ 31 → fullMask s = false →
      partly (.amov d a) ∧ partly (.aidx d c) ∧ partly (.aaddA d a b) ∧ partly (.aaddC d a c) ∧ partly (.asubA d a b) ∧
        partly (.asubC d a c) ∧ partly (.amul d a c) ∧ partly (.ashl d a c))

/-! ## Varying registers -/

/-- Element `e` of width `w` of lane `l` of a varying register. -/
def Sys2Proof.element (s : State) (w : Nat) (r : VReg) (l e : Nat) : Nat := sub w (laneAt (getV s r) l) e

/-- The same of a V-format word's second operand (R39, R41). -/
def Sys2Proof.second (s : State) (w : Nat) (f : Option Fmt) (b : Src) (l e : Nat) : Nat :=
  sub w (srcLane s (curMods s) w f b l) e

/-- R124, R126, R127, R130: the integer forms, element by element. Those that `SAT` may clamp give the exact result clamped to
the signed range of the width under `SAT` 01 and reduced modulo 2^w otherwise, and set `nsf.ISAT` when an element is clamped;
the others set no flag. -/
def Obligations.IntegerResults : Prop :=
  (∀ (s : State) (d a : VReg) (b : Src) (t : IntTy),
     let w := IntTy.width t
     let x (l e : Nat) : Int := toS w (element s w a l e)
     let y (l e : Nat) : Int := toS w (second s w none b l e)
     let z (l e : Nat) : Int := toS w (element s w d l e)
     let clamped (v : Int) : Int := max (-(2 ^ (w - 1))) (min (2 ^ (w - 1) - 1) v)
     let sat : Bool := (curMods s).sat == 1
     let result (i : Instr) (f : Nat → Nat → Int) : Prop :=
       Ready s i → Clean s i (uses s i).r → SetsElements s i d w
         (fun l e => ((if sat then clamped (f l e) else f l e) % 2 ^ w).toNat)
         (withFlag s.cur.nsf 0 (sat && anyElement s w fun l e => decide (clamped (f l e) ≠ f l e)))
     result (.vadd d a b t) (fun l e => x l e + y l e) ∧
     result (.vsub d a b t) (fun l e => x l e - y l e) ∧
     result (.vmul d a b t) (fun l e => x l e * y l e) ∧
     result (.vmad d a b t) (fun l e => z l e + x l e * y l e)) ∧
  (∀ (s : State) (d a : VReg) (b : Src) (t : IntTy) (h : Bit1),
     let w := IntTy.width t
     let x (l e : Nat) : Nat := element s w a l e
     let y (l e : Nat) : Nat := second s w none b l e
     let result (i : Instr) (w : Nat) (f : Nat → Nat → Nat) : Prop :=
       Ready s i → Clean s i (uses s i).r → SetsElements s i d w f s.cur.nsf
     let v := if h.val = 0 then 64 else 32
     let fx (l e : Nat) : Nat := element s v a l e
     let fz (l e : Nat) : Nat := element s v d l e
     let o (l e : Nat) : Nat := second s v none b l e % v
     let n (l e : Nat) : Nat := min (second s v none b l e / 2 ^ 8 % (2 * v)) (v - o l e)
     result (.vmulh d a b t) w (fun l e => (toS w (x l e) * toS w (y l e) / 2 ^ w % 2 ^ w).toNat) ∧
     result (.vand d a b t) w (fun l e => x l e &&& y l e) ∧
     result (.vor d a b t) w (fun l e => x l e ||| y l e) ∧
     result (.vxor d a b t) w (fun l e => x l e ^^^ y l e) ∧
     result (.vshl d a b t) w (fun l e => (x l e <<< (y l e % w)) % 2 ^ w) ∧
     result (.vshr d a b t) w (fun l e => x l e >>> (y l e % w)) ∧
     result (.vsar d a b t) w (fun l e => (toS w (x l e) / 2 ^ (y l e % w) % 2 ^ w).toNat) ∧
     result (.vmin d a b t) w (fun l e => (min (toS w (x l e)) (toS w (y l e)) % 2 ^ w).toNat) ∧
     result (.vminu d a b t) w (fun l e => min (x l e) (y l e)) ∧
     result (.vmax d a b t) w (fun l e => (max (toS w (x l e)) (toS w (y l e)) % 2 ^ w).toNat) ∧
     result (.vmaxu d a b t) w (fun l e => max (x l e) (y l e)) ∧
     result (.vbfe d a b h) v (fun l e => (fx l e >>> o l e) % 2 ^ n l e) ∧
     result (.vbfi d a b h) v (fun l e =>
       (fz l e >>> (o l e + n l e)) <<< (o l e + n l e) + (fx l e % 2 ^ n l e) <<< o l e + fz l e % 2 ^ o l e)) ∧
  (∀ (s : State) (d a : VReg) (t : IntTy),
     let w := IntTy.width t
     let x (l e : Nat) : Nat := element s w a l e
     let result (i : Instr) (f : Nat → Nat → Nat) : Prop :=
       Ready s i → Clean s i [a.val] → SetsElements s i d w f s.cur.nsf
     result (.vnot d a t) (fun l e => 2 ^ w - 1 - x l e) ∧
     result (.vabs d a t) (fun l e => (toS w (x l e)).natAbs % 2 ^ w) ∧
     result (.vneg d a t) (fun l e => (2 ^ w - x l e) % 2 ^ w) ∧
     result (.vpopc d a t) (fun l e => ((List.range w).filter fun k => (x l e).testBit k).length) ∧
     result (.vclz d a t) (fun l e => if x l e = 0 then w else w - 1 - (x l e).log2))

/-- The order of `fmin` and `fmax` on values that are no NaN: by value, −0 below +0 (R125). -/
def Sys2Proof.isBelow (x y : FVal) : Bool :=
  !x.isNan && !y.isNan && (x.lt y || (x.isZero true && y.isZero false))

/-- R125 and R127: the float forms. The exact value is rounded once by the mode of the hints, nearest even by default; the
addend of `ffma` is the register that a hint names, else the destination; `fmin` and `fmax` give the lesser and the greater
operand, with −0 below +0, the one that is no NaN when the other is, and the canonical NaN for two; `fabs`, `fneg` and `fclass`
work on the encoding; `frnd` rounds to an integral value, keeps infinities and gives the canonical NaN for a NaN.
`fadd`, `fsub`, `fmul`, `ffma`, `fmin`, `fmax`, `fabs`, `fneg`, `frnd` and `fclass` complete. -/
def Obligations.FloatResults : Prop :=
  (∀ (s : State) (d a : VReg) (b : Src) (t : FltTy),
     let f := FltTy.fmt t
     let w := FltTy.width t
     let r := rndOf .ne (curMods s).rnd
     let u (l e : Nat) : Nat := element s w a l e
     let x (l e : Nat) : FVal := f.decode (u l e)
     let y (l e : Nat) : FVal := f.decode (second s w (some f) b l e)
     let c (l e : Nat) : FVal := f.decode (element s w ((curMods s).av.getD d) l e)
     let result (i : Instr) (g : Nat → Nat → Nat) : Prop :=
       Ready s i → Clean s i (uses s i).r → SetsElements s i d w g s.cur.nsf
     result (.fadd d a b t) (fun l e => f.addV r (x l e) (y l e)) ∧
     result (.fsub d a b t) (fun l e => f.addV r (x l e) (y l e).negate) ∧
     result (.fmul d a b t) (fun l e => f.encode r ((x l e).mul (y l e))) ∧
     result (.ffma d a b t) (fun l e => f.addV r ((x l e).mul (y l e)) (c l e)) ∧
     result (.fmin d a b t) (fun l e => f.minMax false (u l e) (second s w (some f) b l e)) ∧
     result (.fmax d a b t) (fun l e => f.minMax true (u l e) (second s w (some f) b l e)) ∧
     result (.fabs d a t) (fun l e => if (x l e).isNan then f.nanCode else u l e % 2 ^ (w - 1)) ∧
     result (.fneg d a t) (fun l e => if (x l e).isNan then f.nanCode else u l e ^^^ 2 ^ (w - 1)) ∧
     result (.frnd d a t) (fun l e => roundInt f r (u l e)) ∧
     result (.fclass d a t) (fun l e => classOf f (u l e))) ∧
  (∀ (t : FltTy) (r : Rnd) (x y : Nat), x < 2 ^ FltTy.width t → y < 2 ^ FltTy.width t →
     let f := FltTy.fmt t
     let p := f.decode x
     let q := f.decode y
     (∀ mx, f.minMax mx x y = x ∨ f.minMax mx x y = y ∨
       (f.minMax mx x y = f.nanCode ∧ (f.decode x).isNan = true ∧ (f.decode y).isNan = true)) ∧
     (∀ mx, p.isNan = true → q.isNan = true → f.minMax mx x y = f.nanCode) ∧
     (∀ mx, p.isNan = true → q.isNan = false → f.minMax mx x y = y) ∧
     (∀ mx, p.isNan = false → q.isNan = true → f.minMax mx x y = x) ∧
     (isBelow p q = true → f.minMax false x y = x ∧ f.minMax true x y = y) ∧
     (isBelow q p = true → f.minMax false x y = y ∧ f.minMax true x y = x) ∧
     ((f.decode x).isNan = true → roundInt f r x = f.nanCode) ∧
     (f.decode x = .inf false → roundInt f r x = x) ∧ (f.decode x = .inf true → roundInt f r x = x) ∧
     (∃ k, k < 10 ∧ classOf f x = 2 ^ k))

/-- R131: the special functions write, in each element, the value their operation and type give the operand; R132: the values at
NaN, zeros, infinities, negative operands and 1. -/
def Obligations.SpecialFunctionResults : Prop :=
  (∀ (s : State) (d a : VReg) (t : SfuTy),
    let w := (SfuTy.fmt t).width
    let result (i : Instr) (op : Nat) : Prop :=
      Ready s i → Clean s i [a.val] → SetsElements s i d w (fun l e => sfuEl op t (element s w a l e) % 2 ^ w) s.cur.nsf
    result (.frcp d a t) 0 ∧ result (.frsq d a t) 1 ∧ result (.fsqrt d a t) 2 ∧ result (.fexp2 d a t) 3 ∧
      result (.flog2 d a t) 4 ∧ result (.fsin d a t) 5 ∧ result (.fcos d a t) 6) ∧
  (∀ (t : SfuTy) (x : Nat),
    let f := SfuTy.fmt t
    let v := f.decode x
    let gives (op : Nat) (y : FVal) : Prop := sfuEl op t x = f.encode .ne y
    (v = .nan → ∀ op, op < 7 → gives op .nan) ∧
    (∀ neg e, v = .fin neg 0 e → gives 0 (.inf neg) ∧ gives 1 (.inf neg) ∧ gives 2 v ∧ gives 3 (FVal.ofInt 1) ∧
      gives 4 (.inf true) ∧ gives 5 v ∧ gives 6 (FVal.ofInt 1)) ∧
    (v = .inf false → gives 0 (.fin false 0 0) ∧ gives 1 (.fin false 0 0) ∧ gives 2 v ∧ gives 3 v ∧ gives 4 v ∧ gives 5 .nan ∧
      gives 6 .nan) ∧
    (v = .inf true → gives 0 (.fin true 0 0) ∧ gives 1 .nan ∧ gives 2 .nan ∧ gives 3 (.fin false 0 0) ∧ gives 4 .nan ∧
      gives 5 .nan ∧ gives 6 .nan) ∧
    (∀ m e, v = .fin true m e → m ≠ 0 → gives 1 .nan ∧ gives 2 .nan ∧ gives 4 .nan) ∧
    (v.eqv (.fin false 1 0) = true → gives 4 (.fin false 0 0)))

/-- R128: a lane's bit is whether the relation holds for every element of it. Integers are signed except in `.ltu` and
`.leu`; with a NaN `.eq`, `.lt` and `.le` are false and `.ne` and `.uo` true; −0 equals +0. -/
def Obligations.CompareResults : Prop :=
  ∀ (s : State) (k : MReg) (a b : VReg) (r : Rel) (t : IntTy) (u : FltTy),
    let w := IntTy.width t
    let v := FltTy.width u
    let f := FltTy.fmt u
    let x (l e : Nat) : Nat := element s w a l e
    let y (l e : Nat) : Nat := element s w b l e
    let p (l e : Nat) : FVal := f.decode (element s v a l e)
    let q (l e : Nat) : FVal := f.decode (element s v b l e)
    let every (n : Nat) (g : Nat → Bool) : Bool := (List.range (64 / n)).all g
    let holds (r : Rel) (i j : Int) : Bool :=
      match r with | .eq => decide (i = j) | .ne => decide (i ≠ j) | .lt => decide (i < j) | .le => decide (i ≤ j)
    let nan (l e : Nat) : Bool := (p l e).isNan || (q l e).isNan
    let holdsF (r : Rel) (l e : Nat) : Bool :=
      match r with
      | .eq => !nan l e && !(p l e).lt (q l e) && !(q l e).lt (p l e)
      | .ne => nan l e || (p l e).lt (q l e) || (q l e).lt (p l e)
      | .lt => !nan l e && (p l e).lt (q l e)
      | .le => !nan l e && !(q l e).lt (p l e)
    let result (i : Instr) (g : Nat → Bool) : Prop := Ready s i → Clean s i (uses s i).r → SetsMask s i k g
    result (.vcmp k a b r t) (fun l => every w fun e => holds r (toS w (x l e)) (toS w (y l e))) ∧
    result (.vcmpLtu k a b t) (fun l => every w fun e => decide (x l e < y l e)) ∧
    result (.vcmpLeu k a b t) (fun l => every w fun e => decide (x l e ≤ y l e)) ∧
    result (.fcmp k a b r u) (fun l => every v fun e => holdsF r l e) ∧
    result (.fcmpUo k a b u) (fun l => every v fun e => nan l e)

/-- R133 and R135: the exact value rounded once into the destination type by the mode of the hints, toward zero by default into
integers, then wrapped, or clamped with `ISAT` under `SAT` 01; from float, a NaN and an infinity give 0, or under `SAT` 01 the
bound of their sign, 0 for NaN, with `ISAT`; elements beyond the shorter count are 0; `cvw` gives the exact value of each byte.
-/
def Obligations.ConvertResults : Prop :=
  ∀ (s : State) (d a : VReg) (p q : ElTy) (t : FltTy) (c : Fmt8),
    let m := curMods s
    let w := ElTy.width p
    let v := ElTy.width q
    let n := min (64 / w) (64 / v)
    let sat : Bool := m.sat == 1
    let clamped (z : Int) : Int := max (-(2 ^ (v - 1))) (min (2 ^ (v - 1) - 1) z)
    let narrow (z : Int) : Nat × Bool :=
      if sat then ((clamped z % 2 ^ v).toNat, decide (clamped z ≠ z)) else ((z % 2 ^ v).toNat, false)
    let one (x : Nat) : Nat × Bool :=
      match p, q with
      | .flt f, .flt g => ((FltTy.fmt g).encode (rndOf .ne m.rnd) ((FltTy.fmt f).decode x), false)
      | .int _, .flt g => ((FltTy.fmt g).encode (rndOf .ne m.rnd) (FVal.ofInt (toS w x)), false)
      | .int _, .int _ => narrow (toS w x)
      | .flt f, .int _ =>
        match (FltTy.fmt f).decode x with
        | .nan => (0, sat)
        | .inf neg => if sat then (if neg then 2 ^ (v - 1) else 2 ^ (v - 1) - 1, true) else (0, false)
        | y => narrow (y.toInt (rndOf .rz m.rnd))
    let el (l e : Nat) : Nat × Bool := if e < n then one (element s w a l e) else (0, false)
    (Ready s (.cvt d a p q) → Clean s (.cvt d a p q) [a.val] →
      SetsElements s (.cvt d a p q) d v (fun l e => (el l e).1)
        (withFlag s.cur.nsf 0 (anyElement s v fun l e => (el l e).2))) ∧
    (Ready s (.cvw d a t c) → Clean s (.cvw d a t c) [a.val] →
      SetsElements s (.cvw d a t c) d (FltTy.width t)
        (fun l e => (FltTy.fmt t).encode .ne (Fmt8.decode c (element s 8 a l e))) s.cur.nsf)

/-- R134 and R136: bytes converted into binary8, under a scale for `cvs`, with the flags of R85; the other bytes are 0. -/
def Obligations.QuantiseResults : Prop :=
  ∀ (s : State) (d a b : VReg) (t : FltTy) (c : Fmt8),
    let r := rndOf .ne (curMods s).rnd
    let sat : Bool := (curMods s).sat == 2
    let w := FltTy.width t
    let zero : B8 := ⟨0, false, false⟩
    let cn (l e : Nat) : B8 := if e < 64 / w then Fmt8.convert c r sat ((FltTy.fmt t).decode (element s w a l e)) else zero
    let scaled (l e : Nat) : FVal :=
      if element s 8 b l 0 = 255 then .nan else (fp32.decode (element s 32 a l e)).scale (127 - (element s 8 b l 0 : Int))
    let cs (l e : Nat) : B8 := if e < 2 then Fmt8.convert c r sat (scaled l e) else zero
    let flags (g : Nat → Nat → B8) : Word :=
      withFlag (withFlag s.cur.nsf 2 (anyElement s 8 fun l e => (g l e).sat)) 3 (anyElement s 8 fun l e => (g l e).ovf)
    (Ready s (.cvn d a t c) → Clean s (.cvn d a t c) [a.val] →
      SetsElements s (.cvn d a t c) d 8 (fun l e => (cn l e).byte) (flags cn)) ∧
    (Ready s (.cvs d a b c) → Clean s (.cvs d a b c) [a.val, b.val] →
      SetsElements s (.cvs d a b c) d 8 (fun l e => (cs l e).byte) (flags cs))

/-- R137, R91, R95: a dot product is the exact sum of the addend and the products, rounded once; under version 4 a binary8 one
sums its two halves toward zero first; the integer forms keep the low bits or clamp; the upper half of the lane is 0. -/
def Obligations.DotProductResults : Prop :=
  ∀ (s : State) (d a b : VReg) (c : Fmt8),
    let r := rndOf .ne (curMods s).rnd
    let addend (l : Nat) : FVal := fp32.decode (element s 32 d l 0)
    let products (w : Nat) (dec : Nat → FVal) (l : Nat) : List FVal :=
      (List.range (64 / w)).map fun e => (dec (element s w a l e)).mul (dec (element s w b l e))
    let rounded (x : Nat) (e : Nat) : Nat := if e = 0 then x else 0
    let float (i : Instr) (w : Nat) (dec : Nat → FVal) : Prop :=
      Ready s i → Clean s i [d.val, a.val, b.val] → SetsElements s i d 32
        (fun l e => rounded (fp32.sum r (addend l :: products w dec l)) e) s.cur.nsf
    let halves (l : Nat) : List FVal :=
      let p := products 8 (Fmt8.decode c) l
      [addend l, fp32.decode (fp32.sum .rz (p.take 4)), fp32.decode (fp32.sum .rz (p.drop 4))]
    let exact (w l : Nat) : Int :=
      toS 32 (element s 32 d l 0) +
        ((List.range (64 / w)).map fun e => toS w (element s w a l e) * toS w (element s w b l e)).sum
    let clamped (z : Int) : Int := max (-(2 ^ 31)) (min (2 ^ 31 - 1) z)
    let sat : Bool := (curMods s).sat == 1
    let int (i : Instr) (w : Nat) : Prop :=
      Ready s i → Clean s i [d.val, a.val, b.val] → SetsElements s i d 32
        (fun l e => rounded ((if sat then clamped (exact w l) else exact w l) % 2 ^ 32).toNat e)
        (withFlag s.cur.nsf 0 (sat && anyLane s fun l => decide (clamped (exact w l) ≠ exact w l)))
    float (.dot2F32x2 d a b) 32 fp32.decode ∧ float (.dot4F16x4 d a b) 16 fp16.decode ∧
      float (.dot4Bf16x4 d a b) 16 bf16.decode ∧ int (.dot4I16x4 d a b) 16 ∧ int (.dot8I8x8 d a b) 8 ∧
      (s.cur.nbv.toNat % 16 ≠ 4 → float (.dot8Binary8 d a b c) 8 (Fmt8.decode c)) ∧
      (s.cur.nbv.toNat % 16 = 4 → Ready s (.dot8Binary8 d a b c) → Clean s (.dot8Binary8 d a b c) [d.val, a.val, b.val] →
        SetsElements s (.dot8Binary8 d a b c) d 32 (fun l e => rounded (fp32.sum r (halves l)) e) s.cur.nsf)

/-- R77 and R138 to R140: a sample added to a triple and two triples merged, step by step as the rules round them; a merge into
an empty triple gives the other one, its NaNs canonical, and a merge with an empty triple changes nothing. Stated as what the
registers of the group hold in each lane: the `f32x2` form writes 0 in the upper half of the second register of a lane that it
writes. No poison bit changes. Both forms complete. -/
def Obligations.WelfordResults : Prop :=
  ∀ (s : State) (d a : VReg) (t : Bit1),
    let f := welfFmt t
    let w := if t.val = 0 then 64 else 32
    let r := rndOf .ne (curMods s).rnd
    let n := if t.val = 0 then 3 else 2
    let add (x y : Nat) : Nat := f.addV r (f.decode x) (f.decode y)
    let sub' (x y : Nat) : Nat := f.addV r (f.decode x) (f.decode y).negate
    let mul (x y : Nat) : Nat := f.encode r ((f.decode x).mul (f.decode y))
    let div (x y : Nat) : Nat := f.divV r (f.decode x) (f.decode y)
    let old (l : Nat) : Triple := tripleAt s d.val t l
    let sample (l : Nat) : Triple :=
      let x := element s w a l 0
      let c := old l
      let n' := add c.n (f.encode .ne (FVal.ofInt 1))
      let δ := sub' x c.mu
      let μ := add c.mu (div δ n')
      ⟨n', μ, add c.m2 (mul δ (sub' x μ))⟩
    let merged (l : Nat) : Triple :=
      let x := old l
      let y := tripleAt s a.val t l
      let canon (z : Nat) : Nat := if (f.decode z).isNan then f.nanCode else z
      if (f.decode y.n).zero? then x
      else if (f.decode x.n).zero? then ⟨canon y.n, canon y.mu, canon y.m2⟩
      else
        let n' := add x.n y.n
        let δ := sub' y.mu x.mu
        ⟨n', add x.mu (mul δ (div y.n n')), add (add x.m2 y.m2) (mul (mul δ δ) (div (mul x.n y.n) n'))⟩
    let same (l : Nat) : Bool := (f.decode (tripleAt s a.val t l).n).zero?
    let result (i : Instr) (g : Nat → Triple) (kept : Nat → Bool) : Prop :=
      i.wf = true → Ready s i → Clean s i (uses s i).r → ∃ u, exec i s = .next u ∧
        (∀ l, l < 32 → inMask (active s) l = true → tripleAt u d.val t l = g l) ∧
        (∀ l, l < 32 → inMask (active s) l = true → kept l = false → t.val ≠ 0 →
          sub 32 (laneAt (u.cur.vreg (d.val + 1)) l) 1 = 0) ∧
        (∀ k l, l < 32 → inMask (active s) l = false ∨ kept l = true → laneAt (u.cur.vreg k) l = laneAt (s.cur.vreg k) l) ∧
        (∀ k, k < d.val ∨ d.val + n ≤ k → u.cur.vreg k = s.cur.vreg k) ∧
        (∀ k, u.cur.poisonOf k = s.cur.poisonOf k) ∧
        u = { s with cur := { s.cur with
          v := u.cur.v, poison := u.cur.poison, fr := after s (nextPc s) } }
    result (.welf d a t) sample (fun _ => false) ∧ result (.wmrg d a t) merged same

/-- R120, R129, R130, R141 and R143 to R146: what lanes gather of one another. A dead lane reads as zero, which sets `DSRC`;
copied poison poisons the whole destination lane; `vsel` moves the whole lane of the register that the mask bit chooses. A
reduction is over the active lanes, a scan over those up to the lane: a sum modulo 2^w or rounded once, the least, or the
greatest, of floats by the order of `fmin` and `fmax` among those that are no NaN, and the canonical NaN when all are. When `bcst`
counts its chosen lane as a dead one read is log 65's reading. `shfl`,
`shflx`, `bcst`, the three votes, `vsel`, `vperm`, `rdc` and `scan` complete. -/
def Obligations.CrossLaneResults : Prop :=
  (∀ (s : State) (d a b : VReg) (j : Fin 32) (k : MReg),
     let dead (n : Nat) : Bool := !inMask s.cur.lm n
     let lane (n : Nat) : Word := if dead n then 0 else laneAt (getV s a) n
     let bad (n : Nat) : Bool := !dead n && inMask (s.cur.poisonOf a.val) n
     let index (x : Bool) (l e : Nat) : Nat :=
       let i := element s 8 b l e
       if x then (8 * l + e) ^^^ i else i
     let gather (x : Bool) (l : Nat) : Word :=
       pack 8 ((List.range 8).map fun e => sub 8 (lane (index x l e / 8)) (index x l e % 8))
     let any8 (p : Nat → Bool) : Bool := (List.range 8).any p
     let shuffle (i : Instr) (x : Bool) : Prop :=
       Ready s i → Clean s i [b.val] → SetsLanes s i d (gather x) (fun l => any8 fun e => bad (index x l e / 8)) s.cur.nsf
         (s.cur.cst.dsrc || anyLane s fun l => any8 fun e => dead (index x l e / 8))
     let hit (l : Nat) : Bool := laneAt (getV s a) l != 0
     let vote (i : Instr) (v : Word) : Prop :=
       Ready s i → Clean s i [a.val] → SetsLanes s i d (fun _ => v) (fun _ => false) s.cur.nsf s.cur.cst.dsrc
     let from_ (l : Nat) : VReg := if inMask (getM s k) l then a else b
     shuffle (.shfl d a b) false ∧ shuffle (.shflx d a b) true ∧
       (Ready s (.bcst d a j) → Clean s (.bcst d a j) [] → SetsLanes s (.bcst d a j) d (fun _ => lane j.val)
         (fun _ => bad j.val) s.cur.nsf (s.cur.cst.dsrc || (dead j.val && active s != 0))) ∧
       vote (.voteAny d a) (if anyLane s hit then 1 else 0) ∧
       vote (.voteAll d a) (if (lanesOf (active s)).all hit then 1 else 0) ∧
       vote (.voteBal d a) (BitVec.ofNat 64 (((lanesOf (active s)).filter hit).map fun l => 2 ^ l).sum) ∧
       (Ready s (.vsel d a b k) → Clean s (.vsel d a b k) [] → SetsLanes s (.vsel d a b k) d
         (fun l => laneAt (getV s (from_ l)) l) (fun l => inMask (s.cur.poisonOf (from_ l).val) l) s.cur.nsf s.cur.cst.dsrc) ∧
       (Ready s (.vperm d a b) → Clean s (.vperm d a b) [d.val, a.val, b.val] → SetsElements s (.vperm d a b) d 8
         (fun l e =>
           let c := element s 8 b l e
           if 128 ≤ c then 0 else if c / 8 % 2 = 1 then element s 8 d l (c % 8) else element s 8 a l (c % 8)) s.cur.nsf)) ∧
  (∀ (s : State) (d a : VReg) (o : RedOp) (t : IntTy) (u : FltTy),
     let lanes (up : Bool) (l : Nat) : List Nat := (lanesOf (active s)).filter fun j => !up || decide (j ≤ l)
     let w := IntTy.width t
     let v := FltTy.width u
     let f := FltTy.fmt u
     let r := rndOf .ne (curMods s).rnd
     let xs (up : Bool) (l e : Nat) : List Nat := (lanes up l).map fun j => element s w a j e
     let ys (up : Bool) (l e : Nat) : List Nat := (lanes up l).map fun j => element s v a j e
     let done (i : Instr) (n : Nat) (g : Nat → Nat → Nat) : Prop :=
       ∃ p, SetsLanes s i d p (fun _ => false) s.cur.nsf s.cur.cst.dsrc ∧
         ∀ l e, l < 32 → inMask (active s) l = true → e < 64 / n → sub n (p l) e = g l e
     let int (i : Instr) (up : Bool) : Prop :=
       Ready s i → Clean s i [a.val] → ∃ g, done i w g ∧ ∀ l e, inMask (active s) l = true → l < 32 →
         (o = .add → g l e = (xs up l e).sum % 2 ^ w) ∧
         (o ≠ .add → g l e ∈ xs up l e) ∧
         (o = .min → ∀ x ∈ xs up l e, toS w (g l e) ≤ toS w x) ∧
         (o = .max → ∀ x ∈ xs up l e, toS w x ≤ toS w (g l e)) ∧
         (o = .minu → ∀ x ∈ xs up l e, g l e ≤ x)
     let flt (i : Instr) (up : Bool) : Prop :=
       Ready s i → Clean s i [a.val] → ∃ g, done i v g ∧ ∀ l e, inMask (active s) l = true → l < 32 →
         (o = .add → g l e = f.sum r ((ys up l e).map f.decode)) ∧
         (o ≠ .add → g l e ∈ ys up l e ∨ g l e = f.nanCode) ∧
         (o ≠ .add → (∀ y ∈ ys up l e, (f.decode y).isNan = true) → g l e = f.nanCode) ∧
         (o ≠ .add → (∃ y ∈ ys up l e, (f.decode y).isNan = false) → g l e ∈ ys up l e ∧ (f.decode (g l e)).isNan = false) ∧
         (o = .min → ∀ y ∈ ys up l e, isBelow (f.decode y) (f.decode (g l e)) = false) ∧
         (o = .max → ∀ y ∈ ys up l e, isBelow (f.decode (g l e)) (f.decode y) = false)
     int (.rdc d a o (.int t)) false ∧ int (.scan d a o (.int t)) true ∧
       flt (.rdc d a o (.flt u)) false ∧ flt (.scan d a o (.flt u)) true)

/-- R147 and R148: the mask group. A result for `xm` keeps to the fragment's living lanes; one for `lm` does not exist. -/
def Obligations.MaskResults : Prop :=
  ∀ (s : State) (d a b : MaskSel),
    let x := maskSrc s a
    let y := maskSrc s b
    let result (i : Instr) (v : Mask) : Prop :=
      i.wf = true → Ready s i → ∃ t, exec i s = .next t ∧
        (∀ k, d = .m k → t = { s with cur := { s.cur with m := t.cur.m, fr := after s (nextPc s) } } ∧
          ∀ r, getM t r = if r = k then v else getM s r) ∧
        (d = .xm → t = { s with cur := { s.cur with
          fr := { after s (nextPc s) with xm := v &&& s.cur.fr.fl &&& s.cur.lm } } })
    result (.mmov d a) x ∧ result (.mand d a b) (x &&& y) ∧ result (.mor d a b) (x ||| y) ∧
      result (.mxor d a b) (x ^^^ y) ∧ result (.mnot d a) (x ^^^ BitVec.allOnes 32) ∧
      (x = 0 → result (.mfirst d a) 0) ∧
      ∀ l, l < 32 → inMask x l = true → (∀ j, j < l → inMask x j = false) →
        result (.mfirst d a) (BitVec.ofNat 32 (2 ^ l))

/-- R109 and R110: the lifts write a register or every active lane; the lowerings take the lowest active lane, and `lvcx` raises
NONUNIF, with the lanes that differ, when the active lanes disagree. -/
def Obligations.LiftAndLowerResults : Prop :=
  ∀ (s : State) (v : VReg) (c : CReg) (a : AReg),
    let x (l : Nat) : Word := laneAt (getV s v) l
    let differ (l : Nat) : Mask := maskOf ((lanesOf (active s)).filter fun k => x k != x l)
    (Ready s (.lca a c) →
      (a.val = 31 ∨ fullMask s = true → SetsAffine s (.lca a c) a (getC s c) 0) ∧
      (a.val ≠ 31 → fullMask s = false → Raises s (.lca a c) { cause := .upartial, lanes := s.cur.lm &&& ~~~s.cur.fr.xm })) ∧
    (Ready s (.lcv v c) → Clean s (.lcv v c) [] → SetsLanes s (.lcv v c) v (fun _ => getC s c) (fun _ => false) s.cur.nsf
      s.cur.cst.dsrc) ∧
    (Ready s (.lav v a) → Clean s (.lav v a) [] → SetsLanes s (.lav v a) v
      (fun l => (getA s a).base + BitVec.ofInt 64 ((getA s a).stride.toInt * (l : Int))) (fun _ => false) s.cur.nsf
      s.cur.cst.dsrc) ∧
    ((c.val = 63 ∨ fullMask s = true) → Clean s (.lvc c v) [v.val] →
      (active s = 0 → (Ready s (.lvc c v) → OnlyMoves s (.lvc c v) (nextPc s)) ∧
        (Ready s (.lvcx c v) → OnlyMoves s (.lvcx c v) (nextPc s))) ∧
      ∀ l, l < 32 → inMask (active s) l = true → (∀ j, j < l → inMask (active s) j = false) →
        (Ready s (.lvc c v) → SetsUniform s (.lvc c v) c (x l) (nextPc s)) ∧
        (differ l = 0 → Ready s (.lvcx c v) → SetsUniform s (.lvcx c v) c (x l) (nextPc s)) ∧
        (differ l ≠ 0 → Ready s (.lvcx c v) → Raises s (.lvcx c v) { cause := .nonunif, lanes := differ l }))

/-! ## Control -/

/-- The target of a branch whose offset field holds `o` words (R48, R176). -/
def Sys2Proof.targetAt (s : State) {n : Nat} (o : BitVec n) : VAddr := s.cur.fr.pc + BitVec.ofInt 57 (4 * o.toInt)

/-- R59, R176, R177: where branches, calls and indirect branches go. The value of an indirect branch that is no multiple of 4
or has bits 63:57 set raises BADPC with the value. `nop` only moves on. -/
def Obligations.BranchResults : Prop :=
  ∀ (s : State) (c : CReg) (o : BitVec 18),
    let v := getC s c
    let cond (i : Instr) (b : Bool) : Prop := Ready s i → OnlyMoves s i (if b then targetAt s o else nextPc s)
    let jump (i : Instr) : Prop := Ready s i →
      (v.toNat % 4 = 0 ∧ v.toNat < 2 ^ 57 → OnlyMoves s i (v.setWidth 57)) ∧
      (v.toNat % 4 ≠ 0 ∨ 2 ^ 57 ≤ v.toNat → Raises s i { cause := .badpc, addr := v.toNat })
    cond (.br o) true ∧ cond .nop false ∧ cond (.brcZ c o) (decide (v = 0)) ∧ cond (.brcNz c o) (decide (v ≠ 0)) ∧
      cond (.brcNeg c o) (decide (v.toInt < 0)) ∧ jump (.jmpi c) ∧ jump (.ret c) ∧
      ((c.val = 63 ∨ fullMask s = true) → Ready s (.call c o) →
        SetsUniform s (.call c o) c ((nextPc s).setWidth 64) (targetAt s o))

/-- R178, with R188's event folds: a split that leaves one side empty goes on whole, with a new join record when a hint gives
one; a split of both sides keeps the fall-through child, with the inactive lanes, and adds the taken child; the 257th record
raises DIVOVF. -/
def Obligations.SplitResults : Prop :=
  ∀ (s : State) (k : MReg) (o : BitVec 23), Ready s (.brv k o) →
    let i : Instr := .brv k o
    let live := s.cur.fr.xm &&& s.cur.lm
    let taken := live &&& getM s k
    let rest := live &&& ~~~(getM s k)
    let idle := s.cur.fr.fl &&& s.cur.lm &&& ~~~live
    let folded := (after s (nextPc s)).dmk
    let hint := (curMods s).join
    let record (j : Int) : JoinRec :=
      ⟨s.nextId, s.cur.fr.pc + BitVec.ofInt 57 (4 * j), s.cur.fr.fl &&& s.cur.lm, s.cur.fr.join⟩
    let joins := s.cur.joins ++ (hint.map record).toList
    let link := if hint.isSome then some s.nextId else s.cur.fr.join
    let whole (pc : VAddr) (x : Mask) (evt : Nat) : Prop :=
      exec i s = .next { s with
        nextId := s.nextId + (if hint.isSome then 1 else 0)
        cur := { s.cur with
          joins := joins, fr := { after s pc with xm := x, dmk := crcWord folded evt, join := link } } }
    (hint.isSome = true → 256 ≤ s.cur.joins.length → Raises s i { cause := .divovf, info := 256 }) ∧
    (hint.isNone = true ∨ s.cur.joins.length < 256 →
      (taken = 0 → whole (nextPc s) rest 2) ∧
      (taken ≠ 0 → rest = 0 → whole (targetAt s o) taken 1) ∧
      (taken ≠ 0 → rest ≠ 0 → ∃ t, exec i s = .next t ∧
        (t.cur.fr.pc = nextPc s ∧ t.cur.fr.fl = rest ||| idle ∧ t.cur.fr.xm = rest ∧
          t.cur.fr.dmk = crcWord folded 2 ∧ t.cur.fr.join = link ∧ t.cur.fr.entry = s.cur.fr.entry) ∧
        (∃ g, t.cur.frags.getLast? = some g ∧ g.pc = targetAt s o ∧ g.fl = taken ∧ g.xm = taken ∧
          g.dmk = crcWord folded 1 ∧ g.join = link ∧ g.entry.isSome = true) ∧
        t.cur.joins = joins ∧ t.cur.frags.length = s.cur.frags.length + 1 ∧
        t = { s with
          nextId := t.nextId, cores := t.cores
          cur := { s.cur with fr := t.cur.fr, frags := t.cur.frags, joins := t.cur.joins } }))

/-- R149, R182, R183, R189 and R51, R52: `elect` keeps `xm` in a mask and leaves the lowest live lane; `yield` sets its hold; `sigchk`
resets the daymark and folds nothing, and on a mismatch reports SIGMISS and replays its launch (what the report holds is log 25's
reading); each hint joins its run and folds with the instruction that ends it (log 21's reading). -/
def Obligations.FragmentControlResults : Prop :=
  ∀ (s : State) (k : MReg) (p : BitVec 24),
    let setsFr (i : Instr) (f : Frag) : Prop := exec i s = .next { s with cur := { s.cur with fr := f } }
    let joins (i : Instr) (h : Hint) : Prop :=
      s.cur.alive = true → dueImprec s i {} = none → failedTrap s.cur.fr = none →
      runBreaks s.cur.fr.run h = false → runAdmits s.cur.fr.run h = true →
      setsFr i { s.cur.fr with run := s.cur.fr.run ++ [h], pc := nextPc s, park := .none }
    let checked : Frag := { s.cur.fr with dmk := 0xFFFFFFFF, run := [], pc := nextPc s, park := .none }
    (Ready s (.elect k) → ∃ t, exec (.elect k) s = .next t ∧
      (∀ r, getM t r = if r = k then s.cur.fr.xm else getM s r) ∧
      (∀ l, l < 32 → inMask (liveXm s) l = true → (∀ j, j < l → inMask (liveXm s) j = false) →
        t.cur.fr.xm = BitVec.ofNat 32 (2 ^ l) &&& s.cur.fr.fl) ∧
      (liveXm s = 0 → t.cur.fr.xm = 0) ∧
      t = { s with cur := { s.cur with
        m := t.cur.m, fr := { after s (nextPc s) with xm := t.cur.fr.xm } } }) ∧
    (Ready s .yield → setsFr .yield { after s (nextPc s) with hold := some 0, passed := 0 }) ∧
    (Ready s .sigchk → ((curMods s).wide.getD 0).setWidth 32 = s.cur.fr.dmk →
      setsFr .sigchk checked) ∧
    (Ready s .sigchk → ((curMods s).wide.getD 0).setWidth 32 ≠ s.cur.fr.dmk → exec .sigchk s = .next (replayLaunch (report
      { s with cur := { s.cur with fr := checked } } "SIGMISS"
        [s.cur.fr.dmk.toNat, ((curMods s).wide.getD 0).toNat % 2 ^ 32]) s.cur.launch .sigmiss)) ∧
    joins (.hintLo p) (.lo p) ∧ joins (.hintHi p) (.hi p) ∧ joins (.hintMod p) (.mod p) ∧ joins (.hintJoin p) (.join p)

/-- What a state holds once a handler has been entered at `at_` (R193): the trap registers, the level, the handler's fragment
with a full mask, the interrupted one suspended at `resume`; every other register and all memory as before. -/
structure Entered (s t : State) (c : Trap) (resume : VAddr) (lvl : Level) (at_ : Nat) : Prop where
  cause : t.cur.tcause = BitVec.ofNat 64 c.cause.code
  pc : t.cur.tpc = resume.setWidth 64
  addr : t.cur.taddr = BitVec.ofNat 64 c.addr
  lanes : t.cur.tlanes = c.lanes.setWidth 64
  info : t.cur.tinfo = BitVec.ofNat 64 c.info
  mask : t.cur.txm = s.cur.fr.xm.setWidth 64
  level : t.cur.cst.lvl = lvl
  status : t.cur.cst.dsrc = s.cur.cst.dsrc ∧ t.cur.cst.dln = s.cur.cst.dln
  handler : t.cur.fr.pc = BitVec.ofNat 57 at_ ∧ t.cur.fr.fl = s.cur.lm ∧ t.cur.fr.xm = s.cur.lm ∧
    t.cur.fr.dmk = 0xFFFFFFFF ∧ t.cur.fr.run = [] ∧ t.cur.fr.park = .none ∧ t.cur.fr.handler = true ∧
    t.cur.fr.entry.isSome = true
  suspended : t.cur.trapped = s.cur.fr.fid ∧
    ∃ f, t.cur.frags.head? = some f ∧ f.fid = s.cur.fr.fid ∧ f.pc = resume ∧ f.fl = s.cur.fr.fl ∧ f.xm = s.cur.fr.xm
  registers : t.cur.c = s.cur.c ∧ t.cur.a = s.cur.a ∧ t.cur.v = s.cur.v ∧ t.cur.poison = s.cur.poison ∧ t.cur.m = s.cur.m ∧
    t.cur.lm = s.cur.lm ∧ t.cur.nbv = s.cur.nbv ∧ t.cur.nsf = s.cur.nsf ∧ t.cur.gang = s.cur.gang ∧
    t.cur.tk0 = s.cur.tk0 ∧ t.cur.tk1 = s.cur.tk1 ∧ t.cur.sfra = s.cur.sfra ∧ t.cur.ftmap = s.cur.ftmap ∧
    t.cur.ftst = s.cur.ftst ∧ t.cur.tiles = s.cur.tiles ∧ t.cur.qregs = s.cur.qregs
  rest : t = { s with
    cur := t.cur, cores := t.cores, blocks := t.blocks, nextId := t.nextId, xl := { s.xl with stalls := t.xl.stalls } }

/-- Nothing keeps a trap of the crew at issue waiting, and no launch it parked on still owes it a status (R193, R292, R376). -/
def Sys2Proof.TrapsAtOnce (s : State) : Prop :=
  s.cur.stores = [] ∧ ∀ f ∈ s.cur.all, barParked f = false ∧ ∀ cd since lid, f.park ≠ .lnch cd since lid

/-- R184, R193, R194 and R197: `trap` outside a handler, in a region with a user handler, enters it with TRAPI, the operand in
`tinfo` and the next instruction's address in `tpc`; in a region without one the crew is ended with TRAPI, and in a handler,
where it is a second cause, with DOUBLE, whose first cause is `tcause` as it stands (log 69's reading). Any other cause that an instruction raises at its own address, not a page's and not
PREEMPT, enters the handler with `tpc` at the first hint of the instruction's run. `trap` completes by its entry. -/
def Obligations.TrapEntryResults : Prop :=
  (∀ (s : State) (a : CReg) (r : Region), Ready s (.trap a) → regionAt? s s.cur.region = some r →
     (s.cur.cst.lvl = .none → TrapsAtOnce s → r.uha ≠ 0 → ∃ t, exec (.trap a) s = .next t ∧
       Entered s t { cause := .trapi, info := (getC s a).toNat } (nextPc s) .user r.uha ∧
       t.cur.frags.head?.map (fun f => f.dmk) = some (after s (nextPc s)).dmk) ∧
     (s.cur.cst.lvl = .none → TrapsAtOnce s → r.uha = 0 → (launchAt? s s.cur.launch).isSome = true → ∃ t,
       exec (.trap a) s = .next t ∧ t.cur.alive = false ∧ { name := "CREWEND", args :=
         [7, 0, 0, (getC s a).toNat, s.cur.cid, s.cur.launch, s.cur.region, r.fdom] } ∈ t.reports) ∧
     (s.cur.cst.lvl ≠ .none → (launchAt? s s.cur.launch).isSome = true → ∃ t, exec (.trap a) s = .next t ∧ t.cur.alive = false ∧
       { name := "CREWEND", args := [9, s.cur.tcause.toNat % 256 + 256 * 7, s.cur.cid, s.cur.launch, s.cur.region, r.fdom] }
         ∈ t.reports)) ∧
  (∀ (s : State) (i : Instr) (c : Trap) (r : Region), Raises s i c → regionAt? s s.cur.region = some r → r.uha ≠ 0 →
     c.cause ≠ .pgnp → c.cause ≠ .preempt → c.imp = none → c.store = false → s.cur.cst.lvl = .none → TrapsAtOnce s →
     ∃ t, exec i s = .next t ∧
       Entered s t c (s.cur.fr.pc - BitVec.ofNat 57 (4 * s.cur.fr.run.length)) .user r.uha)

/-- R198, R200 and R201: `rft` at a handler's level removes the handler's fragments and gives the interrupted one the address in
`tpc` and the lanes of `txm` it still has, with a full mask as the handler's (a `tpc` that the handler has changed takes it off a
join it had arrived at); outside a handler it is ILLEGAL; a `tpc` that is no
address raises BADPC. `pdone` outside the pre-emption handler is ILLEGAL; there it and `rft` ask for the save: with nothing left
to wait for, the crew leaves its core, saved with reason 1 or, where its record cannot be written, ended with SAVEF; until then it
waits, its registers as they were, with no budget. Both forms complete. -/
def Obligations.ReturnResults : Prop :=
  ∀ (s : State),
    let illegal (i : Instr) : Prop := Raises s i { cause := .illegal, info := s.ir }
    let saves (i : Instr) : Prop := s.cur.stores = [] →
      (quiet s = true → saveMoves s = false → ∃ t, exec i s = .next t ∧ t.cur.alive = false ∧
        ((∃ k ∈ t.saved, k.cid = s.cur.cid ∧ k.reason = 1 ∧ k.idx = s.cur.idx ∧ k.block = s.cur.block ∧ k.vn = s.cur.vn ∧
            k.tn = s.cur.tn) ∨
          { name := "SAVEF", args := [s.cur.cid, s.cur.launch, s.cur.region, fdomOf s s.cur.region] } ∈ t.reports)) ∧
      (quiet s = false ∨ saveMoves s = true → ∃ t, exec i s = .next t ∧ t.cur.alive = true ∧ t.cur.cid = s.cur.cid ∧
        t.cur.saving = 1 ∧ t.cur.hbud = 0 ∧ t.cur.c = s.cur.c ∧ t.cur.a = s.cur.a ∧ t.cur.v = s.cur.v ∧ t.cur.m = s.cur.m ∧
        t.saved = s.saved ∧ t.loc = s.loc)
    (Ready s .rft → s.cur.cst.lvl = .none → illegal .rft) ∧
    (Ready s .pdone → s.cur.cst.lvl ≠ .preempt → illegal .pdone) ∧
    (Ready s .rft → s.cur.cst.lvl = .preempt → fullMask s = true → saves .rft) ∧
    (Ready s .pdone → s.cur.cst.lvl = .preempt → fullMask s = true → saves .pdone) ∧
    (Ready s .rft → s.cur.cst.lvl = .user ∨ s.cur.cst.lvl = .supervisor → fullMask s = true →
      (s.cur.tpc.toNat % 4 ≠ 0 ∨ 2 ^ 57 ≤ s.cur.tpc.toNat → Raises s .rft { cause := .badpc, addr := s.cur.tpc.toNat }) ∧
      (s.cur.tpc.toNat % 4 = 0 → s.cur.tpc.toNat < 2 ^ 57 → s.cur.cst.ppre = false → s.cur.imprec = [] →
        s.cur.fr.handler = true → (∃ f ∈ s.cur.frags, f.handler = false ∧ f.fid = s.cur.trapped) →
        ∃ t, exec .rft s = .next t ∧
          (∃ f ∈ s.cur.frags, f.handler = false ∧ f.fid = s.cur.trapped ∧ t.cur.fr = { f with
            pc := s.cur.tpc.setWidth 57, xm := s.cur.txm.setWidth 32 &&& f.fl &&& s.cur.lm, preds := t.cur.fr.preds,
            park := if f.park = .join ∧ s.cur.tpc.setWidth 57 ≠ f.pc then .none else f.park }) ∧
          (∀ g ∈ s.cur.frags, g.handler = false → g.fid ≠ s.cur.trapped →
            ∃ h ∈ t.cur.frags, h = { g with preds := h.preds }) ∧
          (∀ h ∈ t.cur.frags, h.handler = false ∧ h.fid ≠ s.cur.trapped) ∧
          t = { s with cur := { s.cur with
            cst := { s.cur.cst with lvl := .none }, fr := t.cur.fr, frags := t.cur.frags } }))

/-! ## Waiting, special registers -/

/-- A fragment that has issued and waits (R26, R32). -/
def Sys2Proof.Parks (s : State) (i : Instr) (p : Park) : Prop :=
  exec i s = .next { s with cur := { s.cur with fr := { s.cur.fr with park := p, word := s.ir } } }

/-- R185, R186, R187, R236 and R242: `wcnt` goes on when what its classes count is at most its limit, and parks otherwise;
`drain` goes on when no store of the crew is untranslated; a fence with nothing to wait for (what it waits for is log 26's reading)
releases, then acquires, at its scope; what counts as an outstanding engine command is log 73's; `end` waits for the crew's futures, engine commands, copies and stores; then the fragment's lanes leave the crew, and
with its last lane the crew leaves its core, which has its units back. -/
def Obligations.WaitingAndEndResults : Prop :=
  (∀ (s : State) (a : CReg),
     let v := (getC s a).toNat
     let sel := if v % 16 = 0 then 15 else v % 16
     let limit := v / 2 ^ 16 % 64
     let on (k n : Nat) : Nat := if sel / 2 ^ k % 2 = 1 then n else 0
     let count := on 0 (storesLeft s s.cur) + on 1 (copiesOf s s.cur.cid false) + on 2 (copiesOf s s.cur.cid true) +
       on 3 (engCount s s.cur.pair s.cur.cid)
     let o := (curMods s).ord
     let acq := decide (o = 0 ∨ o = 1 ∨ o = 3)
     let rel := decide (o = 0 ∨ o = 2 ∨ o = 3)
     let sc := scopeOf .device (curMods s).scp
     (Ready s (.wcnt a) → (count ≤ limit → OnlyMoves s (.wcnt a) (nextPc s)) ∧
       (limit < count → Parks s (.wcnt a) (.wcnt sel limit))) ∧
     (Ready s .drain → s.cur.stores = [] → OnlyMoves s .drain (nextPc s)) ∧
     (Ready s .fence → s.cur.stores = [] →
       (fenceClear s s.cur s.cur.fr rel sc = true → ∃ t, exec .fence s = .next t ∧
         t.cur = { s.cur with fr := after s (nextPc s) } ∧
         t = { fenceDone s acq rel sc with cur := t.cur }) ∧
       (fenceClear s s.cur s.cur.fr rel sc = false → Parks s .fence (.fence acq rel sc)))) ∧
  (∀ (s : State), Ready s .endd → s.cur.stores = [] →
     let quietCrew : Bool := s.cur.futs.all (fun f => f.dest == .none) && engCount s s.cur.pair s.cur.cid == 0 &&
       copiesOf s s.cur.cid false == 0 && copiesOf s s.cur.cid true == 0
     let left := s.cur.lm &&& ~~~s.cur.fr.fl
     (quietCrew = false → Parks s .endd .ending) ∧
     (quietCrew = true → left = 0 → ∃ t, exec .endd s = .next t ∧ t.cur = Crew.none ∧ t.crews.length = s.crews.length ∧
       (coreAt t s.cur.pair).vfree = (coreAt s s.cur.pair).vfree + s.cur.vn / 8 ∧
       (∀ b, blockAt? s s.cur.block = some b → (blockAt? t s.cur.block).map (fun x => x.retired) = some (b.retired ++ [s.cur.idx])) ∧
       t.loc = s.loc ∧ t.sys = s.sys ∧ t.peers = s.peers) ∧
     (quietCrew = true → left ≠ 0 → ∃ t, exec .endd s = .next t ∧ t.cur.lm = left ∧
       (∀ f ∈ s.cur.frags, f.fl &&& ~~~s.cur.fr.fl ≠ 0 → ∃ g ∈ t.cur.all, g.fid = f.fid ∧ g.fl = f.fl &&& ~~~s.cur.fr.fl) ∧
       t = { s with cur := { s.cur with lm := left, fr := t.cur.fr, frags := t.cur.frags } }))

/-- R190, R364 and the rules that own the registers: what `sread` gives; `ftmap` and `ftst` are the supervisor handler's. -/
def Obligations.SpecialRegisterReads : Prop :=
  ∀ (s : State) (d : CReg) (n : Fin 16),
    let k := s.cur
    let c := coreAt s k.pair
    let die := k.pair / 48
    let reads (r : SReg) (v : Word) : Prop :=
      (d.val = 63 ∨ fullMask s = true) → Ready s (.sread d r) → SetsUniform s (.sread d r) d v (nextPc s)
    let supervised (r : SReg) (v : Word) : Prop :=
      (s.cur.cst.lvl = .supervisor → reads r v) ∧
      (s.cur.cst.lvl ≠ .supervisor → Ready s (.sread d r) → Raises s (.sread d r) { cause := .illegal, info := s.ir })
    reads .xm (k.fr.xm.setWidth 64) ∧ reads .lm (k.lm.setWidth 64) ∧ reads .fl (k.fr.fl.setWidth 64) ∧
    reads .cst (BitVec.ofNat 64 (128 * k.cst.dsrc.toNat + 64 * k.cst.dln.toNat +
      16 * (match k.cst.lvl with | .none => 0 | .user => 1 | .supervisor => 2 | .preempt => 3) + 8 * k.cst.ppre.toNat +
      4 * (!k.imprec.isEmpty).toNat)) ∧
    reads .dmk (k.fr.dmk.setWidth 64) ∧ reads .tcause k.tcause ∧ reads .tpc k.tpc ∧ reads .taddr k.taddr ∧
    reads .tlanes k.tlanes ∧ reads .tinfo k.tinfo ∧ reads .txm k.txm ∧ reads .tk0 k.tk0 ∧ reads .tk1 k.tk1 ∧
    reads .hbud (BitVec.ofNat 64 k.hbud) ∧ reads .nbv k.nbv ∧ reads .nsf k.nsf ∧ reads .gang k.gang ∧
    reads .mcfg c.mcfgHeld ∧
    reads .mst (BitVec.ofNat 64 (256 * (decide (s.ctr.rfph.getD die 0 / 4096 = 31)).toNat + 128 * c.rsOn.toNat +
      min c.opq.length 64)) ∧
    reads .sfra k.sfra ∧ supervised .ftmap k.ftmap ∧ supervised .ftst k.ftst ∧ reads .bpc s.ctr.bpc ∧
    reads .ccyc (BitVec.ofNat 64 c.ccyc) ∧ reads .rfph (BitVec.ofNat 64 (s.ctr.rfph.getD die 0)) ∧
    (∀ r, regionAt? s k.region = some r → reads .wdc (BitVec.ofNat 64 (kgetD s.rg.wdc r.instF 0))) ∧
    reads (.pme n) (c.pme.get n) ∧ reads (.pmc n) (BitVec.ofNat 64 (c.pmc.get n))

/-- R190, R74, R75, R148, R151, R191, R348, R364: what `swrite` writes and when it is ILLEGAL: the trap registers with no
handler, the counters and `ftmap` outside the supervisor handler, a version other than 4 or 5; all but `xm` need a full mask.
`swrite ftmap` leaves the address in `ftmap` and a status in `ftst`: 2 for a page already mapped, 3 for one neither first-touch
nor swapped, of another size than the pool's pages or with a malformed walk, none of which changes anything else; 1 with an empty
pool, `FT` cleared in the page's entry, or in its sixteen, whose other bits stay (which status a crew without a pool gets, and that
each of the sixteen is cleared, are log 30's); else the frame popped from the pool, at which the page is zeroed or copied from the
entry's place, whose entry or sixteen entries then map it with its permissions, before a release at device scope. `swrite` completes
for every register it may write. -/
def Obligations.SpecialRegisterWrites : Prop :=
  (∀ (s : State) (c : CReg) (n : Fin 16),
     let v := getC s c
     let fr := after s (nextPc s)
     let full := fullMask s = true
     let writes (r : SReg) (k : Crew) : Prop :=
       Ready s (.swrite c r) → exec (.swrite c r) s = .next { s with cur := k }
     let k := { s.cur with fr := fr }
     let illegal (i : Instr) : Prop := Ready s i → Raises s i { cause := .illegal, info := s.ir }
     let inHandler (r : SReg) (k : Crew) : Prop :=
       (s.cur.cst.lvl ≠ .none → full → writes r k) ∧ (s.cur.cst.lvl = .none → illegal (.swrite c r))
     let counter (r : SReg) (f : Core → Core) : Prop :=
       (s.cur.cst.lvl ≠ .supervisor → illegal (.swrite c r)) ∧
       (s.cur.cst.lvl = .supervisor → full → Ready s (.swrite c r) →
         exec (.swrite c r) s = .next { modCore s s.cur.pair f with cur := k })
     writes .xm { k with fr := { fr with xm := v.setWidth 32 &&& s.cur.fr.fl &&& s.cur.lm } } ∧
     (full → writes .cst { k with cst := { s.cur.cst with
       dsrc := s.cur.cst.dsrc && v.getLsbD 7, dln := s.cur.cst.dln && v.getLsbD 6 } }) ∧
     inHandler .tcause { k with tcause := v } ∧ inHandler .tpc { k with tpc := v } ∧ inHandler .taddr { k with taddr := v } ∧
     inHandler .tlanes { k with tlanes := v } ∧ inHandler .tinfo { k with tinfo := v } ∧ inHandler .txm { k with txm := v } ∧
     (full → writes .tk0 { k with tk0 := v }) ∧ (full → writes .tk1 { k with tk1 := v }) ∧
     (full → writes .nsf { k with nsf := v &&& 15 }) ∧
     (full → v.toNat % 16 = 4 ∨ v.toNat % 16 = 5 → writes .nbv { k with nbv := v &&& 15 }) ∧
     (full → v.toNat % 16 ≠ 4 → v.toNat % 16 ≠ 5 → illegal (.swrite c .nbv)) ∧
     counter (.pme n) (fun x => { x with pme := x.pme.set n (v &&& 0x1FF) }) ∧
     counter (.pmc n) (fun x => { x with pmc := x.pmc.set n (v.toNat % 2 ^ 48) }) ∧
     (full → Ready s (.mcfgWrite c) → exec (.mcfgWrite c) s = .next { modCore s s.cur.pair fun x =>
       { x with mcfgHeld := v &&& 1, opq := x.opq ++ [.mcfg s.cur.cid (v &&& 1)] } with cur := k }) ∧
     (s.cur.cst.lvl ≠ .supervisor → illegal (.ftmapWrite c))) ∧
  (∀ (s : State) (c : CReg), Ready s (.ftmapWrite c) → s.cur.cst.lvl = .supervisor → fullMask s = true →
     touchMoves s = false → touchHeld s (getC s c).toNat = false → releaseHeld s s.cur.pair .device = false →
     let va := (getC s c).toNat
     let ends (u : State) (st : Nat) : Prop := exec (.ftmapWrite c) s = .next { u with
       cur := { s.cur with ftmap := getC s c, ftst := BitVec.ofNat 64 st, fr := after s (nextPc s) } }
     let done (st : Nat) : Prop := ends s st
     let entries (u : State) (bits at_ : Nat) (f : State → Nat → Nat → Nat) : State :=
       if bits = 16 then
         (List.range 16).foldl (fun u k => homeWrites u (at_ / 128 * 128 + 8 * k) (leBytes 8 (f u (at_ / 128 * 128 + 8 * k) k))) u
       else homeWrites u at_ (leBytes 8 (f u at_ 0))
     let untouched (bits at_ : Nat) : State := entries s bits at_ fun u a _ => (pteAt u a &&& ~~~(0x40#64)).toNat
     let placed (u : State) (e : BitVec 64) (bits at_ frame : Nat) : State :=
       let page := if pteFT e then List.replicate (2 ^ bits) (0 : Byte) else paBytes u (leafPA e bits 0) (2 ^ bits)
       entries (homeWrites u frame page) bits at_ fun _ _ k =>
         3 + e.toNat / 4 % 8 * 4 + (if bits = 16 then 32 else 0) + (frame + 4096 * k)
     let inst := (regionAt? s s.cur.region).elim 0 fun r => r.instM
     let pool := kget s.rg.touchPool inst
     (canonical va = false ∨ walk s va = .malformed → done 3) ∧
     (∀ e bits at_, canonical va = true → walk s va = .leaf e bits at_ →
       (pteV e = true → done 2) ∧ (pteV e = false → pteFT e = false → pteSW e = false → done 3) ∧
       (pteV e = false → pteFT e = true ∨ pteSW e = true →
         (pool = none → ends (untouched bits at_) 1) ∧
         (∀ p, pool = some p → (p.bits ≠ bits → done 3) ∧
           (p.bits = bits → (p.pop s = none → ends (untouched bits at_) 1) ∧ (∀ frame q u, p.pop s = some (frame, q, u) →
             ends (releaseAt (placed { u with rg := { u.rg with touchPool := kset u.rg.touchPool inst q } } e bits at_ frame)
               s.cur.pair .device) frame))))))

/-- R101: with fewer than all live lanes under `xm`, an instruction that writes a uniform register or an affine register, one
that changes an allotment and `swrite` to each register that it may write but `xm` (the trap registers in a handler, the counters and
`ftmap` in the supervisor's) raise UPARTIAL with the lanes that are missing, and R372: `bar`, `bara` and `bare`, which name no lane,
UPARTIAL with none. -/
def Obligations.PartialMaskTraps : Prop :=
  ∀ (s : State) (d a b : CReg) (x y w : AReg) (v : VReg) (o : BitVec 18) (q : MReg) (m : MOp) (z : Size) (e : Bool) (n : Bit1)
    (r : SReg) (k : MaskSel) (j : Fin 16), fullMask s = false →
    let missing : Trap := { cause := .upartial, lanes := s.cur.lm &&& ~~~s.cur.fr.xm }
    let up (i : Instr) : Prop := Ready s i → Raises s i missing
    (d.val ≠ 63 →
      (∀ k : BitVec 14, up (.caddImm d a k)) ∧ up (.cadd d a b) ∧ up (.csub d a b) ∧ up (.cmul d a b) ∧ up (.cmulh d a b) ∧
      up (.cmad d a b) ∧ up (.cand d a b) ∧ up (.cor d a b) ∧ up (.cxor d a b) ∧ up (.cnot d a) ∧ up (.cshl d a b) ∧
      up (.cshr d a b) ∧ up (.csar d a b) ∧ up (.cmin d a b) ∧ up (.cminu d a b) ∧ up (.cmax d a b) ∧ up (.cmaxu d a b) ∧
      up (.ccmpEq d a b) ∧ up (.ccmpNe d a b) ∧ up (.ccmpLt d a b) ∧ up (.ccmpLe d a b) ∧ up (.ccmpLtu d a b) ∧
      up (.ccmpLeu d a b) ∧ up (.csel d a b) ∧ up (.cmov d a) ∧ up (.cbfe d a b) ∧ up (.cpopc d a) ∧ up (.cclz d a) ∧
      up (.call d o) ∧ (readRefused s r = false → up (.sread d r)) ∧ up (.lvc d v) ∧ up (.lvcx d v) ∧ up (.qstat d q) ∧
      up (.lnch d a) ∧ up (.ldc d m z e) ∧ up (.locq d a n) ∧ up (.mpop d k)) ∧
    (up (.growV d a) ∧ up (.growT d a) ∧ up (.shrinkV d a) ∧ up (.shrinkT d a) ∧
      (Ready s (.bar a) → Raises s (.bar a) { cause := .upartial }) ∧
      (Ready s (.bara d a) → Raises s (.bara d a) { cause := .upartial }) ∧
      (Ready s (.bare a b) → Raises s (.bare a b) { cause := .upartial })) ∧
    (x.val ≠ 31 → up (.amov x y) ∧ up (.aidx x a) ∧ up (.aaddA x y w) ∧ up (.aaddC x y a) ∧ up (.asubA x y w) ∧
      up (.asubC x y a) ∧ up (.amul x y a) ∧ up (.ashl x y a) ∧ up (.lca x a)) ∧
    up (.swrite a .cst) ∧ up (.swrite a .tk0) ∧ up (.swrite a .tk1) ∧ up (.swrite a .nbv) ∧ up (.swrite a .nsf) ∧ up (.mcfgWrite a) ∧
    (s.cur.cst.lvl ≠ .none → up (.swrite a .tcause) ∧ up (.swrite a .tpc) ∧ up (.swrite a .taddr) ∧ up (.swrite a .tlanes) ∧
      up (.swrite a .tinfo) ∧ up (.swrite a .txm)) ∧
    (s.cur.cst.lvl = .supervisor → up (.swrite a (.pme j)) ∧ up (.swrite a (.pmc j)) ∧ up (.ftmapWrite a))

/-! ## Memory -/

/-- The address of a lane's access: base, index times the access size where it is scaled, and the offset of the hints (R227). -/
def Sys2Proof.laneAddress (s : State) (m : MOp) (z : Size) (l : Nat) : Nat :=
  let i := match m.idx with
    | .a r => (getA s r).base + BitVec.ofInt 64 ((getA s r).stride.toInt * (l : Int))
    | .v r => laneAt (getV s r) l
  (getC s m.base + i * (if m.scaled then BitVec.ofNat 64 z.bytes else 1) + (curMods s).wide.getD 0).toNat

/-- The active lanes with their addresses. -/
def Sys2Proof.accesses (s : State) (m : MOp) (z : Size) : List (Nat × Nat) := (lanesOf (active s)).map fun l => (l, laneAddress s m z l)

/-- A cause met by some of the active lanes: the lowest such lane's address, and every such lane (R192, R229). -/
def Sys2Proof.RaisesFor (s : State) (i : Instr) (c : Cause) (ls : List (Nat × Nat)) : Prop :=
  Raises s i { cause := c, addr := (ls.headD (0, 0)).2, lanes := maskOf (ls.map fun x => x.1) }

/-- The scope of an access: `d` without ordering, the device with it, or what its hint names (R211). -/
def Sys2Proof.accessScope (s : State) (d : Scope) : Scope := scopeOf (if (curMods s).ord = 0 then d else .device) (curMods s).scp

/-- What an accepted load leaves: one more future behind the destination; no register and no memory has changed yet (R26, R231).
`u` is the state once the lanes have been translated. -/
def Sys2Proof.AcceptsLoad (s u : State) (i : Instr) (dest : Dest) (kind : FutKind) : Prop :=
  ∃ t, exec i s = .next t ∧ ∃ f, t.cur.futs = u.cur.futs ++ [f] ∧ f.id = u.nextId ∧ f.fid = s.cur.fr.fid ∧
    f.po = s.cur.fr.fid :: s.cur.fr.preds ∧ f.dest = dest ∧ f.kind = kind ∧ f.got = [] ∧
    t = { u with nextId := u.nextId + 1, cur := { u.cur with futs := t.cur.futs, fr := after s (nextPc s) } }

/-- R207, R227, R229, R231, R233: `ld` and `ldc` check alignment, then translate every lane, and are then accepted; `lds`
checks alignment, then that every lane lies in its block's allocation, and is then accepted. That a cause of `ldc` names no lane is
log 53's reading. -/
def Obligations.LoadsAreAccepted : Prop :=
  (∀ (s : State) (d : VReg) (c : CReg) (m : MOp) (z : Size) (x : Bool),
     let i : Instr := .ld d m z x
     let j : Instr := .ldc c m z x
     let n := z.bytes
     let regs := if z = .b128 then 2 else 1
     let ls := accesses s m z
     let bad := ls.filter fun l => l.2 % n != 0
     let r := translateLanes s .read 0 (ls.map fun l => (l.1, l.2, 0))
     let a := laneAddress s m z 0
     let q := translateLanes s .read 0 [(0, a, 0)]
     let acq := decide ((curMods s).ord = 1 ∨ (curMods s).ord = 3)
     (Ready s i → Clean s i (uses s i).r →
       (active s = 0 → OnlyMoves s i (nextPc s)) ∧
       (bad ≠ [] → RaisesFor s i .misalign bad) ∧
       (bad = [] → ∀ las, r.1 = .ok las → las ≠ [] →
         AcceptsLoad s r.2 i (.v d.val regs) (.load n x las (accessScope s .block) acq))) ∧
     ((c.val = 63 ∨ fullMask s = true) → Ready s j →
       (a % n ≠ 0 → Raises s j { cause := .misalign, addr := a }) ∧
       (a % n = 0 → ∀ las, q.1 = .ok las → AcceptsLoad s q.2 j (.c c.val regs) (.load n x las (accessScope s .block) acq)))) ∧
  (∀ (s : State) (d : VReg) (m : MOp) (z : Size) (x : Bool),
     let i : Instr := .lds d m z x
     let n := z.bytes
     let ls := accesses s m z
     let size := ((blockAt? s s.cur.block).map fun b => b.scratchSize).getD 0
     let bad := ls.filter fun l => l.2 % n != 0
     let out := ls.filter fun l => decide (size < l.2 + n)
     let las : List LaneAcc := ls.map fun l => ⟨l.1, l.2, ⟨.spad s.cur.block, l.2⟩, ⟨true, true, false⟩, 0⟩
     Ready s i → Clean s i (uses s i).r →
       (active s = 0 → OnlyMoves s i (nextPc s)) ∧
       (bad ≠ [] → RaisesFor s i .misalign bad) ∧
       (bad = [] → out ≠ [] → RaisesFor s i .spbound out) ∧
       (bad = [] → out = [] → active s ≠ 0 →
         AcceptsLoad s s i (.v d.val (if z = .b128 then 2 else 1)) (.load n x las (scopeOf .block (curMods s).scp) false)))

/-- R207, R229, R234: `st` checks alignment and enters the crew's store buffer with the data of its active lanes; `sts` checks
alignment and bounds, and each element written is queued with the data of one of the lanes that write it. No byte of memory has
changed yet. -/
def Obligations.StoresAreAccepted : Prop :=
  ∀ (s : State) (v : VReg) (m : MOp) (z : Size),
    let i : Instr := .st v m z
    let j : Instr := .sts v m z
    let n := z.bytes
    let ls := accesses s m z
    let bad := ls.filter fun l => l.2 % n != 0
    let size := ((blockAt? s s.cur.block).map fun b => b.scratchSize).getD 0
    let out := ls.filter fun l => decide (size < l.2 + n)
    let low (l : Nat) : Nat := (laneAt (getV s v) l).toNat
    let data (l : Nat) : Nat :=
      if z = .b128 then low l + 2 ^ 64 * (laneAt (s.cur.vreg (v.val + 1)) l).toNat else low l % 2 ^ (8 * n)
    let element (a : Nat) (l : Nat × Nat) : Nat := data l.1 / 2 ^ (8 * (a - l.2)) % 2 ^ (8 * min n 8)
    let rel := decide ((curMods s).ord = 2 ∨ (curMods s).ord = 3)
    let f := s.cur.fr
    (Ready s i → Clean s i (uses s i).r →
      (active s = 0 → OnlyMoves s i (nextPc s)) ∧
      (bad ≠ [] → RaisesFor s i .misalign bad) ∧
      (bad = [] → active s ≠ 0 → exec i s = .next { s with
        nextId := s.nextId + 1
        cur := { s.cur with
          fr := after s (nextPc s)
          stores := s.cur.stores ++ [{
            id := s.nextId, fid := f.fid, pc := (f.pc - BitVec.ofNat 57 (4 * f.run.length)).toNat, po := f.fid :: f.preds,
            size := n, act := active s, lanes := ls.map fun l => (l.1, l.2, data l.1), scope := accessScope s .block,
            rel := rel, ord := (curMods s).ord, scp := (curMods s).scp, skid := 0, hnd := f.handler }] } })) ∧
    (Ready s j → Clean s j (uses s j).r →
      (active s = 0 → OnlyMoves s j (nextPc s)) ∧
      (bad ≠ [] → RaisesFor s j .misalign bad) ∧
      (bad = [] → out ≠ [] → RaisesFor s j .spbound out) ∧
      (bad = [] → out = [] → active s ≠ 0 → ∃ t, exec j s = .next t ∧
        (∀ k, k < s.storeQ.length → t.storeQ[k]? = s.storeQ[k]?) ∧
        (∀ e ∈ t.storeQ.drop s.storeQ.length, e.cid = s.cur.cid ∧ e.size = min n 8 ∧ e.rel = rel ∧
          ∀ la ∈ e.lanes, la.pa.sp = .spad s.cur.block ∧
            ∃ l ∈ ls, l.1 = la.lane ∧ (la.pa.a = l.2 ∨ (z = .b128 ∧ la.pa.a = l.2 + 8)) ∧ la.data = element la.pa.a l) ∧
        (∀ l ∈ ls, ∃ e ∈ t.storeQ.drop s.storeQ.length, ∃ la ∈ e.lanes, la.pa.a = l.2) ∧
        t = { s with
          nextId := s.nextId + 1, tick := t.tick, storeQ := t.storeQ
          cur := { s.cur with fr := after s (nextPc s) } }))

/-- R228, R229, R237: an atomic operation checks alignment, translates every lane for writing, and sends one request per lane
with its operation and operands; an even destination waits for the values read, an odd one names only the source. All operations
complete. -/
def Obligations.AtomicsAreAccepted : Prop :=
  ∀ (s : State) (d : VReg) (m : MOp) (w : Bool),
    let z : Size := if w then .b64 else .b32
    let n := z.bytes
    let ls := accesses s m z
    let bad := ls.filter fun l => l.2 % n != 0
    let even := decide (d.val % 2 = 0)
    let low (r l : Nat) : Nat := (laneAt (s.cur.vreg r) l).toNat % 2 ^ (8 * n)
    let r := translateLanes s .write 3 (ls.map fun l => (l.1, l.2, low (if even then d.val + 1 else d.val) l.1))
    let acq := decide ((curMods s).ord = 1 ∨ (curMods s).ord = 3)
    let rel := decide ((curMods s).ord = 2 ∨ (curMods s).ord = 3)
    let sc := accessScope s .device
    let form (i : Instr) (op : AtomOp) : Prop := i.wf = true → Ready s i → Clean s i (uses s i).r →
      (active s = 0 → OnlyMoves s i (nextPc s)) ∧
      (bad ≠ [] → RaisesFor s i .misalign bad) ∧
      (bad = [] → ∀ las, r.1 = .ok las → las ≠ [] → ∃ t, exec i s = .next t ∧ ∃ f,
        t.cur.futs = r.2.cur.futs ++ [f] ∧ f.id = r.2.nextId ∧ f.fid = s.cur.fr.fid ∧
        f.dest = (if even then Dest.v d.val 1 else .none) ∧ f.kind = .atom w las las.length acq rel ∧
        t.atoms = r.2.atoms ++ las.map (fun l =>
          { fut := f.id, cid := s.cur.cid, launch := s.cur.launch, pair := s.cur.pair, deps := f.deps, lane := l.lane, at_ := l,
            wide := w, op := op, cmp := if op = .cas then low d.val l.lane else 0, src := l.data, scope := sc, acq := acq,
            rel := rel, ver := s.cur.nbv.toNat % 16, reply := if even then some d.val else none, queued := false,
            logged := none }) ∧
        t = { r.2 with
          nextId := r.2.nextId + 1, atoms := t.atoms
          cur := { r.2.cur with futs := t.cur.futs, fr := after s (nextPc s) } })
    form (.atomAdd d m w) .add ∧ form (.atomAnd d m w) .and ∧ form (.atomOr d m w) .or ∧ form (.atomXor d m w) .xor ∧
    form (.atomMin d m w) .min ∧ form (.atomMax d m w) .max ∧ form (.atomMinu d m w) .minu ∧ form (.atomMaxu d m w) .maxu ∧
    form (.atomExch d m w) .exch ∧ form (.atomFadd d m w) .fadd ∧ form (.atomFmin d m w) .fmin ∧
    form (.atomFmax d m w) .fmax ∧ form (.cas d m w) .cas

/-- R222, R225, R229, R241: `pacq` whose lanes all lie in local memory starts one sequence per line and waits for them; one
whose lanes all lie elsewhere is an acquire load at device scope. -/
def Obligations.PromotingLoadsAreAccepted : Prop :=
  ∀ (s : State) (d : VReg) (m : MOp) (z : Size) (x : Bool),
    let i : Instr := .pacq d m z x
    let n := z.bytes
    let ls := accesses s m z
    let bad := ls.filter fun l => l.2 % n != 0
    let r := translateLanes s .read 0 (ls.map fun l => (l.1, l.2, 0))
    let dest : Dest := .v d.val (if z = .b128 then 2 else 1)
    Ready s i → Clean s i (uses s i).r →
      (active s = 0 → OnlyMoves s i (nextPc s)) ∧
      (bad ≠ [] → RaisesFor s i .misalign bad) ∧
      (bad = [] → ∀ las, r.1 = .ok las → las ≠ [] →
        ((∀ l ∈ las, l.pa.sp ≠ .loc) → AcceptsLoad s r.2 i dest (.load n x las .device true)) ∧
        ((∀ l ∈ las, l.pa.sp = .loc) → ∃ t, exec i s = .next t ∧ ∃ f, t.cur.futs = r.2.cur.futs ++ [f] ∧
          f.dest = dest ∧ f.kind = .pacq n x las ∧ t.pacqs.take r.2.pacqs.length = r.2.pacqs ∧
          (∀ q ∈ t.pacqs.drop r.2.pacqs.length, q.fut = f.id ∧ q.cid = s.cur.cid ∧ q.snap = false ∧
            q.lanes = las.filter fun l => l.pa.a / 128 == q.pln) ∧
          (∀ l ∈ las, ∃ q ∈ t.pacqs.drop r.2.pacqs.length, q.pln = l.pa.a / 128) ∧
          t = { r.2 with
            nextId := t.nextId, pacqs := t.pacqs
            cur := { r.2.cur with futs := t.cur.futs, fr := after s (nextPc s) } }))

/-- Writes at home go to their places in local memory and nowhere else: no granule is shadowed, no dirty map collects or streams, and no
undo interval is open (R354, R360, R392). -/
def Sys2Proof.PlainHomes (s : State) : Prop :=
  s.xl.shadows = [] ∧ s.xl.ckdm0 = 0 ∧ s.xl.ckdm1 = 0 ∧ s.dev.ulEn = false

/-- The lines of core `p`'s L1 are lines of local memory, each there once. -/
def Sys2Proof.OneLineEach (s : State) (p : Nat) : Prop :=
  ((coreAt s p).l1.map fun l => l.pln).Nodup ∧ ∀ l ∈ (coreAt s p).l1, l.pln * 128 + 128 ≤ locSize

/-- R243 to R245: `pref` faults on nothing and changes no register, no crew, no block, and no byte of memory but what a dirty line that
makes room writes back; `cctl.wb` leaves no dirty line of its range in the core's L1, and `cctl.inv` no line, and the dirty bytes of the
range, those alone, reach local memory; `cctl.iinv` of a range waits for the cores; `locq` gives a place, or the crew's own. That the
range is told by virtual tags is log 26's reading. `pref`, the three `cctl` and `locq` complete. -/
def Obligations.CacheControlResults : Prop :=
  ∀ (s : State) (m : MOp) (z : Size) (a b d : CReg),
    let from_ := (getC s a).toNat
    let n := (getC s b).toNat % 2 ^ 32
    let hit (l : Line) : Bool := n != 0 && decide (from_ / 128 ≤ l.vln) && decide (l.vln ≤ (from_ + n - 1) / 128)
    let moved (t : State) : Prop := t.cur = { s.cur with fr := after s (nextPc s) } ∧ t.crews = s.crews ∧ t.blocks = s.blocks
    let k := s.cur
    let sent (l : Line) (x : Nat) : Bool := hit l && x / 128 == l.pln && l.dirty.getLsbD (x % 128)
    let home (t : State) : Prop := s.loc.wf = true → PlainHomes s → OneLineEach s k.pair →
      (∀ l ∈ (coreAt s k.pair).l1, ∀ x, sent l x = true → t.loc.read x = l.data.extractLsb' (8 * (x % 128)) 8) ∧
      (∀ x, (∀ l ∈ (coreAt s k.pair).l1, sent l x = false) → t.loc.read x = s.loc.read x) ∧ t.sys = s.sys ∧ t.peers = s.peers
    let self := k.pair + 2 ^ 8 * (k.pair / 48) + 2 ^ 10 * (k.pair % 48 / 8) + 2 ^ 16 * (k.slot % 4) + 2 ^ 24 * k.slot
    (Ready s (.pref m z) → Clean s (.pref m z) (uses s (.pref m z)).r → ∃ t, exec (.pref m z) s = .next t ∧ moved t ∧
      t.peers = s.peers ∧ t.saved = s.saved ∧ t.storeQ = s.storeQ ∧ t.reports = s.reports ∧
      ((∀ l ∈ (coreAt s k.pair).l1, l.dirty = 0) → t.loc = s.loc ∧ t.sys = s.sys)) ∧
    (Ready s (.cctlWb a b) → ∃ t, exec (.cctlWb a b) s = .next t ∧ moved t ∧ home t ∧
      ∀ l ∈ (coreAt t k.pair).l1, hit l = true → l.dirty = 0) ∧
    (Ready s (.cctlInv a b) → ∃ t, exec (.cctlInv a b) s = .next t ∧ moved t ∧ home t ∧
      ∀ l ∈ (coreAt t k.pair).l1, hit l = false) ∧
    (Ready s (.cctlIinv a b) → (n = 0 → OnlyMoves s (.cctlIinv a b) (nextPc s)) ∧
      (n ≠ 0 → Parks s (.cctlIinv a b) (.iinv from_ n))) ∧
    ((d.val = 63 ∨ fullMask s = true) →
      (Ready s (.locq d a 1) → SetsUniform s (.locq d a 1) d (BitVec.ofNat 64 self) (nextPc s)) ∧
      (Ready s (.locq d a 0) → (2 ^ 57 ≤ from_ ∨ walk s from_ = .malformed →
        SetsUniform s (.locq d a 0) d 0xC000 (nextPc s)) ∧
        (∀ e bits at_, from_ < 2 ^ 57 → walk s from_ = .leaf e bits at_ →
          SetsUniform s (.locq d a 0) d (if pteV e = false ∧ pteMG e = false then 0xC000 else
            match (leafPA e bits from_).sp with
            | .loc => BitVec.ofNat 64 (2 ^ 8 * (Config.homeSlice ((leafPA e bits from_).a / 128) % 192 / 48) +
                Config.homeSlice ((leafPA e bits from_).a / 128) % 192 % 48)
            | .sys => 0x8000
            | _ => 0x4000) (nextPc s))))

/-! ## Allotments, queue registers, copies, launches, barriers -/

/-- R113 to R115: an illegal request is ALLOT; a grow to no more, or a shrink to no less, only answers the allotment; a further
grow joins its pool's list and parks; a shrink with nothing pending beyond the new size gives the rest back at once. -/
def Obligations.AllotmentResults : Prop :=
  ∀ (s : State) (d a : CReg), fullMask s = true →
    let k := s.cur
    let n := (getC s a).toNat
    let c := coreAt s k.pair
    let v := BitVec.ofNat 64 k.vn
    let t := BitVec.ofNat 64 k.tn
    let illegal (i : Instr) : Prop := Raises s i { cause := .allot, info := n }
    let parks (i : Instr) (p : Park) (core : Core) : Prop := exec i s = .next { s with
      cores := kset s.cores k.pair core
      cur := { s.cur with fr := { k.fr with park := p, word := s.ir } } }
    let gives (i : Instr) (core : Core) (vn tn x : Nat) : Prop := ∃ u, exec i s = .next u ∧
      (∀ r, getC u r = if r = d ∧ d.val ≠ 63 then BitVec.ofNat 64 x else getC s r) ∧
      u = { s with
        cores := kset s.cores k.pair core
        cur := { s.cur with c := u.cur.c, vn := vn, tn := tn, fr := after s (nextPc s) } }
    let legalV := n % 8 = 0 ∧ n ≤ 128
    (Ready s (.growV d a) →
      (¬legalV → illegal (.growV d a)) ∧ (legalV → n ≤ k.vn → SetsUniform s (.growV d a) d v (nextPc s)) ∧
      (legalV → k.vn < n → parks (.growV d a) (.grow false n) { c with growV := c.growV ++ [(k.cid, k.fr.fid, n)] })) ∧
    (Ready s (.growT d a) →
      (32 < n → illegal (.growT d a)) ∧ (n ≤ 32 → n ≤ k.tn → SetsUniform s (.growT d a) d t (nextPc s)) ∧
      (n ≤ 32 → k.tn < n → parks (.growT d a) (.grow true n) { c with growT := c.growT ++ [(k.cid, k.fr.fid, n)] })) ∧
    (Ready s (.shrinkV d a) →
      (¬(legalV ∧ n ≠ 0) → illegal (.shrinkV d a)) ∧
      (legalV → n ≠ 0 → k.vn ≤ n → SetsUniform s (.shrinkV d a) d v (nextPc s)) ∧
      (legalV → n ≠ 0 → n < k.vn → (pendingV k).all (fun r => decide (r < n)) = true →
        gives (.shrinkV d a) { c with vfree := c.vfree + (k.vn - n) / 8 } n k.tn k.vn) ∧
      (legalV → n ≠ 0 → n < k.vn → (pendingV k).any (fun r => decide (n ≤ r)) = true →
        Parks s (.shrinkV d a) (.shrink false n))) ∧
    (Ready s (.shrinkT d a) →
      (32 < n → illegal (.shrinkT d a)) ∧ (n ≤ 32 → k.tn ≤ n → SetsUniform s (.shrinkT d a) d t (nextPc s)) ∧
      (n < k.tn → n ≤ 32 → c.opq = [] → gives (.shrinkT d a) { c with tfree := c.tfree + (k.tn - n) } k.vn n k.tn))

/-- Is it a varying instruction of majors 0x10 to 0x30, whose sources may pop a queue and whose destination may feed one (R295, R296)? -/
def Sys2Proof.isVarying : Instr → Bool
  | .vadd .. | .vsub .. | .vmul .. | .vmad .. | .vmulh .. | .vand .. | .vor .. | .vxor .. | .vshl .. | .vshr .. | .vsar ..
  | .vmin .. | .vminu .. | .vmax .. | .vmaxu .. | .vbfe .. | .vbfi .. | .vnot .. | .vabs .. | .vneg .. | .vpopc .. | .vclz ..
  | .fadd .. | .fsub .. | .fmul .. | .ffma .. | .fmin .. | .fmax .. | .fabs .. | .fneg .. | .frnd .. | .fclass ..
  | .frcp .. | .frsq .. | .fsqrt .. | .fexp2 .. | .flog2 .. | .fsin .. | .fcos ..
  | .vcmp .. | .vcmpLtu .. | .vcmpLeu .. | .fcmp .. | .fcmpUo .. | .vperm .. | .vsel .. | .cvt .. | .cvn .. | .cvw .. | .cvs ..
  | .dot2F32x2 .. | .dot4F16x4 .. | .dot4Bf16x4 .. | .dot4I16x4 .. | .dot8I8x8 .. | .dot8Binary8 .. | .welf .. | .wmrg ..
  | .shfl .. | .shflx .. | .bcst .. | .voteAny .. | .voteAll .. | .voteBal .. | .rdc .. | .scan .. => true
  | _ => false

/-- Is it a load, a store, an atomic or a prefetch, whose lanes have their index and data in varying registers (R230)? -/
def Sys2Proof.reachesMemory : Instr → Bool
  | .ld .. | .lds .. | .pacq .. | .st .. | .sts .. | .pref .. | .atomAdd .. | .atomAnd .. | .atomOr .. | .atomXor .. | .atomMin ..
  | .atomMax .. | .atomMinu .. | .atomMaxu .. | .atomExch .. | .atomFadd .. | .atomFmin .. | .atomFmax .. | .cas .. => true
  | _ => false

/-- R293, R294, R297: a launch without queues, or a word that R294 refuses, raises QREG with the register's number; a `qbind`
waits for the drains and feed pushes that name its register; with none pending one of `cz` unbinds and any other word binds, with
an empty header, and the row of the queue table follows; that any other register than `cz` with a kind of 00 is refused is log 28's
reading; `qstat` answers a binding's kind, window, offset or depth, and count. R295, R296: a varying instruction that names the windows
of bound result queues first takes the head item of each into its window, in every lane of `lm`, and moves the head on; one whose
destination is the window of a bound feed queue pushes the whole register that it leaves; but for that it does what it does with those
queues unbound. The memories have the model's canonical form. `qbind` and `qstat` complete. -/
def Obligations.QueueRegisterResults : Prop :=
  (∀ (s : State) (i : Instr) (b : Block), isVarying i = true → Ready s i → blockAt? s s.cur.block = some b →
    let ks := popped s.cur (uses s i)
    let fs := fed s.cur (uses s i)
    let k := s.cur
    let queue (j : Nat) : QReg := k.qregs.getD j default
    let window (j : Nat) : Nat := (queue j).word.toNat / 4 % 128
    let head (j : Nat) : Nat := (queue j).word.toNat / 2 ^ 10 % 2 ^ 18 + 256 * ((queue j).head + 1)
    let filled := ks.foldl (fun c j => c.putV (window j) k.lm (lanesOfBytes (b.scratch.bytes (head j) 256)) 0) k
    let plain : State := { s with cur := { filled with
      qregs := Vector.ofFn fun j => if ks.contains j.val || fs.contains j.val then default else k.qregs.get j } }
    let moved : Vector QReg 8 := Vector.ofFn fun j =>
      let q := k.qregs.get j
      if ks.contains j.val then ⟨q.word, (q.head + 1) % (q.word.toNat / 2 ^ 28 % 64 + 1), q.count - 1⟩ else q
    (∀ r ∈ consumed i (uses s i), filled.poisonOf r &&& active s = 0) → ∀ t, exec i plain = .next t →
      exec i s = .next { t with
        cores := if fs = [] then t.cores else kset t.cores k.pair { coreAt t k.pair with
          feeds := (coreAt t k.pair).feeds ++ fs.map fun j => ⟨k.cid, j, 0, t.cur.vreg (window j)⟩ }
        cur := { t.cur with qregs := moved } }) ∧
  ∀ (s : State) (d a : CReg) (k : MReg) (b : Block), MemoriesCanonical s → fullMask s = true →
    let w := getC s a
    let row := b.qtab.getD 0
    let i : Instr := .qbind k a
    let q := s.cur.qregs.get k
    let n := q.word.toNat
    let bound := q.word.getLsbD 63
    let binds (x : Word) : Prop := ∃ t, exec i s = .next t ∧ t.cur.fr = after s (nextPc s) ∧
      (∀ j : Fin 8, t.cur.qregs.get j = if j = k then ⟨x, 0, 0⟩ else s.cur.qregs.get j) ∧
      (∃ c, blockAt? t s.cur.block = some c ∧ c.scratch.bytes (row + 64 * s.cur.idx + 8 * k.val) 8 = leBytes 8 x.toNat) ∧
      t = { s with
        cores := t.cores, blocks := t.blocks, cur := { s.cur with qregs := t.cur.qregs, fr := t.cur.fr } }
    (Ready s i →
      (blockAt? s s.cur.block = none → Raises s i { cause := .qreg, info := k.val }) ∧
      (blockAt? s s.cur.block = some b →
        (b.qtab = none → Raises s i { cause := .qreg, info := k.val }) ∧
        (a.val ≠ 63 → (w.toNat % 4 = 0 ∨ w.toNat % 4 = 3 ∨ w.getLsbD 9 = true ∨ s.cur.vn ≤ w.toNat / 4 % 128 ∨
          w.toNat / 4 % 128 = 127) → Raises s i { cause := .qreg, info := k.val }) ∧
        (b.qtab.isSome = true → bindWaits s k.val = true → a.val = 63 ∨ bindBad s k.val w = false →
          Parks s i (.qbind k.val)) ∧
        (b.qtab.isSome = true → bindWaits s k.val = false →
          (a.val = 63 → binds 0) ∧
          (a.val ≠ 63 → bindBad s k.val w = false → s.cur.idx < b.crews → binds (w ||| 0x8000000000000000))))) ∧
    (Ready s (.qstat d k) →
      (bound = false → SetsUniform s (.qstat d k) d 0 (nextPc s)) ∧
      (bound = true → n % 4 = 1 → SetsUniform s (.qstat d k) d (BitVec.ofNat 64
        (2 ^ 63 + n / 4 % 128 * 2 ^ 18 + 2 ^ 16 + (n / 2 ^ 28 % 64 + 1) * 2 ^ 8 + q.count)) (nextPc s)) ∧
      (bound = true → n % 4 = 2 → SetsUniform s (.qstat d k) d (BitVec.ofNat 64
        (2 ^ 63 + n / 2 ^ 10 % 2 ^ 21 * 2 ^ 32 + n / 4 % 128 * 2 ^ 18 + 2 * 2 ^ 16)) (nextPc s)))

/-- R219, R299, R302, R303: a copy command enters the device with the words of its group, after a release when it acquires, and
its fragment goes on; `cpyw` parks its fragment at its continuation. A `cpy` or `cpyw` with `CHN` follows the members of the open
chain; without `FIN` it opens one or lengthens it, with it the chain ends. One with `CHN` and no open chain, or with an open chain
and without `CHN` or `FIN`, is left to fail with 0x06, and the chain stays as it was. Only the open chain changes beside the
copies. `cpy`, `cpyw` and `tcpy` complete. -/
def Obligations.CopiesEnter : Prop :=
  ∀ (s : State) (a b : CReg),
    let words (n : Nat) : List Word := (List.range n).map fun i => getC s (Fin.ofNat 64 (a.val + i))
    let sc := scopeOf .device (curMods s).scp
    let u := if (curMods s).ord = 1 ∨ (curMods s).ord = 3 then releaseAt s s.cur.pair sc else s
    let t := getC s b
    let w := getC s (Fin.ofNat 64 (a.val + 2))
    let chn := w.getLsbD 25
    let fin := w.getLsbD 26
    let k := s.cur
    let enters (i : Instr) (sub n : Nat) (fr : Frag) : Prop := ∃ v, exec i s = .next v ∧ ∃ x, v.copies = u.copies ++ [x] ∧
      (let inChain := sub != 2 && (chn || !fin)
       let wrong := inChain && chn != k.chain.isSome
       x.after = (if inChain = true ∧ chn = true ∧ wrong = false then k.chainSeq else []) ∧
       (wrong = true → w.toNat / 2 ^ 32 = 0 → x.pre = some (6, 0)) ∧
       (wrong = false → sub = 2 ∨ (w.toNat / 2 ^ 32 = 0 ∧ (chn = true → w.getLsbD 27 = k.chainCrc)) → x.pre = none) ∧
       v.cur.chain = (if inChain = false ∨ wrong = true then k.chain else if fin then none else some (k.chain.getD 0xFFFFFFFF)) ∧
       v.cur.chainSeq = (if inChain = false ∨ wrong = true then k.chainSeq else if fin then [] else
         if chn then k.chainSeq ++ [u.nextId] else [u.nextId])) ∧
      (x.id = u.nextId ∧ x.cid = s.cur.cid ∧ x.launch = s.cur.launch ∧ x.pair = s.cur.pair ∧ x.block = s.cur.block ∧
        x.region = s.cur.region ∧ x.sub = sub ∧ x.words = words n ∧ x.ord = (curMods s).ord ∧ x.scope = sc ∧ x.waits = [] ∧
        x.started = x.after.isEmpty) ∧
      v = { u with
        nextId := u.nextId + 1, copies := v.copies
        cur := { u.cur with chain := v.cur.chain, chainCrc := v.cur.chainCrc, chainSeq := v.cur.chainSeq, fr := fr } }
    (Ready s (.cpy a) → enters (.cpy a) 0 4 (after s (nextPc s))) ∧
    (Ready s (.tcpy a) → enters (.tcpy a) 2 6 (after s (nextPc s))) ∧
    (Ready s (.cpyw a b) → fullMask s = true →
      (t.toNat % 4 ≠ 0 ∨ 2 ^ 57 ≤ t.toNat → Raises s (.cpyw a b) { cause := .badpc, addr := t.toNat }) ∧
      (t.toNat % 4 = 0 → t.toNat < 2 ^ 57 →
        enters (.cpyw a b) 1 4 { after s (t.setWidth 57) with park := .cpyw u.nextId s.now }))

/-- R288, R289, R291: `lnch` of an address beyond 57 bits is PGPERM and of a misaligned one LNCHF 0x01; a record that fails a
check is LNCHF with its code; one that passes gives status 1 beyond its region's depth, 2 without a pool entry, else it joins
the pair's pending launches, or its fragment parks until it can. `lnch` completes. -/
def Obligations.LaunchResults : Prop :=
  ∀ (s : State) (d a : CReg) (pa : PA), (d.val = 63 ∨ fullMask s = true) → Ready s (.lnch d a) →
    let i : Instr := .lnch d a
    let va := (getC s a).toNat
    let tr := translateAt s va false
    let u := if pa.sp = .loc then noteRead tr.2 s.cur.launch pa.a else tr.2
    let bytes := if pa.sp = .loc then (List.range 64).map (fun k => readAt u s.cur.pair .device (pa.a + k)) else paBytes u pa 64
    let r := LRec.ofBytes bytes
    let region := effRegion? u r.regn
    let allowed := match region with
      | some g => !heldRegion u g && descends u s.cur.region 16 g.num
      | none => false
    let depth := ((launchAt? u s.cur.launch).map fun l => l.depth).getD 0 + 1
    let p := s.cur.pair
    let status (x : Word) : Prop := ∃ t, exec i s = .next t ∧
      (∀ k, getC t k = if k = d ∧ d.val ≠ 63 then x else getC s k) ∧
      t = { u with cur := { u.cur with c := t.cur.c, fr := after s (nextPc s) } }
    (2 ^ 57 ≤ va → Raises s i { cause := .pgperm, addr := va }) ∧
    (va < 2 ^ 57 → va % 64 ≠ 0 → Raises s i { cause := .lnchf, addr := va, info := 1 }) ∧
    (va < 2 ^ 57 → va % 64 = 0 → tr.1 = .ok pa → linkHeld s (corePort p) pa = false →
      (∀ code, r.bad true allowed = some code → exec i s = .next (raise u { cause := .lnchf, addr := va, info := code })) ∧
      (∀ g, region = some g → r.bad true allowed = none →
        (depth > (if g.dlim = 0 then 8 else g.dlim) → status 1) ∧
        (depth ≤ (if g.dlim = 0 then 8 else g.dlim) →
          (g.psh ≤ kgetD u.rg.share g.instL 0 → status 2) ∧
          (kgetD u.rg.share g.instL 0 < g.psh → ∃ t, exec i s = .next t ∧
            (∃ l, t.launches.getLast? = some l ∧ l.lr = { r with lfl := r.lfl + 16 * depth } ∧ l.depth = depth ∧
              l.st = .queued p ∧ l.ring = none ∧ l.failed = false ∧
              ((coreAt u p).pendingLaunch.length < 4 → queueWaits u p = [] →
                (coreAt t p).pendingLaunch = (coreAt u p).pendingLaunch ++ [l.lid] ∧ t.cur.fr = after s (nextPc s) ∧
                (∀ k, k ≠ d ∨ d.val = 63 → getC t k = getC s k) ∧ (getC t d = 0 ∨ getC t d = 0x10) ∧
                (s.dev.diesUp = [0, 1, 2, 3] → getC t d = 0)) ∧
              (4 ≤ (coreAt u p).pendingLaunch.length →
                (coreAt t p).pendingLaunch = (coreAt u p).pendingLaunch ∧ t.cur.c = s.cur.c ∧
                t.cur.fr = { after s (nextPc s) with park := .lnch d.val s.now l.lid, word := s.ir })) ∧
            kgetD t.rg.share g.instL 0 = kgetD u.rg.share g.instL 0 + 1 ∧
            t.cur.v = s.cur.v ∧ t.cur.a = s.cur.a ∧ t.cur.m = s.cur.m))))

/-- R214, R220, R372 to R376, R380: what every barrier instruction checks of its word first, after the mask, whose UPARTIAL names
no lane; then an arrival sets out for the site, to wait for every access that precedes it, as its release asks, parked until its
phase has passed (`bar`) or with its token to come (`bara`); expected bytes set out (`bare`); and `barw` goes on with an acquire
once its phase has passed. A counter at a misaligned address is MISALIGN; a wait whose counter has reached its target, by the sign
of the difference, goes on with an acquire; any other parks. `bar`, `bara`, `bare`, `barw`, `wait` and `wait.ext` complete. -/
def Obligations.BarrierResults : Prop :=
  (∀ (s : State) (a b d : CReg) (at_ : PA),
     let w := getC s a
     let va := w.toNat % 2 ^ 57
     let spc := w.toNat / 2 ^ 57 % 4
     let size := ((blockAt? s s.cur.block).map fun x => x.scratchSize).getD 0
     let checks (i : Instr) : Prop :=
       (2 ≤ spc → Raises s i { cause := .pgperm, addr := w.toNat }) ∧
       (spc < 2 → va % 16 ≠ 0 → Raises s i { cause := .misalign, addr := va }) ∧
       (spc = 1 → va % 16 = 0 → size < va + 16 → Raises s i { cause := .spbound, addr := va })
     let r := barRef s w true
     let u (n : Nat) : State := { r.2 with nextId := r.2.nextId + n }
     let po := s.cur.fr.fid :: s.cur.fr.preds
     let sent (i : Instr) (v : State) (kind arg id : Nat) (fut : Option Nat) (futs : List Fut) (fr : Frag) : Prop :=
       ∃ t, exec i s = .next t ∧ ∃ o, t.barOps = v.barOps ++ [o] ∧
         (o.id = id ∧ o.cid = s.cur.cid ∧ o.fut = fut ∧ o.pair = s.cur.pair ∧ o.at_ = at_ ∧ o.launch = s.cur.launch ∧
           o.region = s.cur.region ∧ o.kind = kind ∧ o.arg = arg ∧
           o.deps = depsFor r.2 r.2.cur po [(at_, 16)] (kind == 0)) ∧
         t = { v with barOps := t.barOps, cur := { v.cur with futs := futs, fr := fr } }
     let n := r.2.nextId
     let q := barRef s w false
     let token := (getC s b).toNat % 2 ^ 32
     (fullMask s = false → (Ready s (.bar a) → Raises s (.bar a) { cause := .upartial }) ∧
       (Ready s (.bara d a) → Raises s (.bara d a) { cause := .upartial }) ∧
       (Ready s (.bare a b) → Raises s (.bare a b) { cause := .upartial })) ∧
     (fullMask s = true → Ready s (.bar a) → checks (.bar a) ∧ (r.1 = .ok at_ →
       sent (.bar a) (u 1) 0 0 n none r.2.cur.futs { s.cur.fr with park := .barArr n, word := s.ir })) ∧
     (fullMask s = true → Ready s (.bara d a) → checks (.bara d a) ∧ (r.1 = .ok at_ →
       sent (.bara d a) (u 2) 0 0 (n + 1) (some n)
         (r.2.cur.futs ++ [⟨n, s.cur.fr.fid, po, [], .c d.val 1, .bara, []⟩]) (after s (nextPc s)))) ∧
     (fullMask s = true → Ready s (.bare a b) → checks (.bare a b) ∧ (r.1 = .ok at_ →
       sent (.bare a b) (u 1) 1 ((getC s b).toNat % 2 ^ 36) n none r.2.cur.futs (after s (nextPc s)))) ∧
     (Ready s (.barw a b) → checks (.barw a b) ∧ (q.1 = .ok at_ →
       (barMet q.2 q.2.cur at_ token = true → ∃ t, exec (.barw a b) s = .next t ∧
         t = { progressRegion (acquireAt q.2 s.cur.pair (objScope at_)) s.cur.region with
           cur := { q.2.cur with fr := after s (nextPc s) } }) ∧
       (barMet q.2 q.2.cur at_ token = false → exec (.barw a b) s = .next { q.2 with
         cur := { q.2.cur with fr := { s.cur.fr with park := .barw at_ token, word := s.ir } } })))) ∧
  (∀ (s : State) (a b : CReg) (at_ : PA),
     let va := (getC s a).toNat
     let r := translateAt s va false
     let m := counterAt r.2 s.cur.pair at_
     let distance := (BitVec.ofNat 64 m - getC s b).toNat
     let form (i : Instr) (ext : Bool) : Prop := Ready s i →
       (va % 8 ≠ 0 → Raises s i { cause := .misalign, addr := va }) ∧
       (va % 8 = 0 → r.1 = .ok at_ →
         (distance < 2 ^ 63 → linkHeld s (corePort s.cur.pair) at_ = false → exec i s = .next
           { progressRegion (acquireAt r.2 s.cur.pair (objScope at_)) s.cur.region with
             cur := { r.2.cur with fr := after s (nextPc s) } }) ∧
         (2 ^ 63 ≤ distance → exec i s = .next { r.2 with
           cur := { r.2.cur with fr := { s.cur.fr with park := .wait at_ va (getC s b) ext s.now, word := s.ir } } }))
     form (.wait a b) false ∧ form (.waitExt a b) true)

/-! ## The matrix unit, rendering, and what every instruction meets first -/

/-- The state a command or request of the crew at issue enters a unit from: an acquire makes its issue a release (R219). -/
def Sys2Proof.unitStart (s : State) : State :=
  let sc := scopeOf .device (curMods s).scp
  if (curMods s).ord = 1 ∨ (curMods s).ord = 3 then releaseAt s s.cur.pair sc else s

/-- What an instruction does whose command enters the pair's operand queue: the queue is one command longer, the fragment moves on,
and nothing else changes (R159). -/
def Sys2Proof.EntersQueue (s u : State) (i : Instr) (k : EngCmd) : Prop :=
  exec i s = .next { u with
    cores := kset u.cores s.cur.pair { coreAt u s.cur.pair with opq := (coreAt u s.cur.pair).opq ++ [k] }
    cur := { u.cur with fr := after s (nextPc s) } }

/-- R159, R165, R166: without a gang an arithmetic command enters the operand queue with its operand words and `VER` read at
issue; with one, a retired member raises GANGF, else the arrival stands on the rendezvous latch, numbered by the crew's count of joint
commands (log 61, the model's reading), and its fragment parks. `mma`, `mmas` and `mmau` complete. -/
def Obligations.ArithmeticCommandsEnter : Prop :=
  ∀ (s : State) (t : TReg) (a b : CReg) (sh : Shape) (x : Block),
    let k := s.cur
    let ver := k.nbv.toNat % 16
    let n := k.gang.toNat % 8
    let members : List Nat := (List.range n).map fun i => k.gang.toNat / 2 ^ (3 + 5 * i) % 32
    let two : List Word := [getC s a, getC s b]
    let five : List Word := (List.range 4).map (fun i => getC s (Fin.ofNat 64 (a.val + i))) ++ [getC s b]
    let form (i : Instr) (kind : Nat) (ws : List Word) : Prop := Ready s i →
      (n = 0 → EntersQueue s s i (.arith kind sh.val [(k.cid, t.val, ver)] ws k.cid)) ∧
      (n ≠ 0 → blockAt? s k.block = some x →
        (members.any (fun m => x.retired.contains m) = true → Raises s i { cause := .gangf }) ∧
        (members.all (fun m => !x.retired.contains m) = true → exec i s = .next { s with
          blocks := s.blocks.map fun y => if y.bid = k.block then
              { y with latch := y.latch ++ [⟨k.idx, k.fr.fid, k.joint, k.gang, kind, sh.val, t.val, ws, ver⟩] }
            else y
          cur := { s.cur with
            owes := if k.fr.handler then k.owes else none, fr := { k.fr with park := .latch, word := s.ir } } }))
    form (.mmaE8 t a b sh) 0 two ∧ form (.mmasE8 t a b sh) 1 two ∧ form (.mmauE8 t a b sh) 2 five ∧
    form (.mmaE16 t a b sh) 3 two ∧ form (.mmasE16 t a b sh) 4 two ∧ form (.mmauE16 t a b sh) 5 five

/-- R150, R153, R159, R165, R167, R168, R170, R171, R306, R310: the other commands enter the operand queue with what they read
at issue; a drain or `mrow` to a register that is no result queue, `mrow` with `MCFG` 0, a peer drain to no member and an
illegal `gang` raise MATF with their sub-codes; a legal `gang` replaces `GANG`, starts the joint count again and enters the queue. `mzero`,
`mldw`, the drains, `mrow`, `gang` and `nrq` complete. -/
def Obligations.MatrixCommandsEnter : Prop :=
  ∀ (s : State) (t : TReg) (a b : CReg) (q : MReg) (sh : Shape2) (d v : VReg),
    let k := s.cur
    let u := unitStart s
    let m := curMods s
    let sc := scopeOf .device m.scp
    let w := getC s a
    let n := w.toNat
    let members : List Nat := (List.range (n % 8)).map fun i => n / 2 ^ (3 + 5 * i) % 32
    let crews := ((blockAt? s k.block).map fun x => x.crews).getD 1
    let legal := decide (n = 0) || (decide (2 ≤ n % 8 ∧ n % 8 ≤ 6 ∧ n < 2 ^ (3 + 5 * (n % 8)) ∧ n < 2 ^ 33) &&
      members.all (fun i => decide (i < crews)) && decide members.Nodup && members.contains k.idx)
    let bound := decide ((k.qregs.get q).word.getLsbD 63 = true ∧ (k.qregs.get q).word.toNat % 4 = 1)
    let matf (i : Instr) (code kind : Nat) : Prop := Raises s i { cause := .matf, info := code + 2 ^ 8 * kind + 2 ^ 12 }
    let nrqWord := getC s b
    let ins := groupOf v.val (if nrqWord.getLsbD 61 then 16 else 8)
    (Ready s (.mzero t a) → EntersQueue s s (.mzero t a) (.mzero k.cid t.val w)) ∧
    (Ready s (.mldw a b) → EntersQueue s s (.mldw a b) (.mldw k.cid w (getC s b))) ∧
    (Ready s (.mdrnTs t a b sh) →
      EntersQueue s u (.mdrnTs t a b sh) (.mdrnTs k.cid t.val w (getC s b) sh.val m.ord sc)) ∧
    (Ready s (.mdrnQ t q b sh) →
      (bound = false → matf (.mdrnQ t q b sh) 0x13 4) ∧
      (bound = true → EntersQueue s u (.mdrnQ t q b sh) (.mdrnQ k.cid t.val q.val (getC s b) sh.val m.ord sc 0))) ∧
    (Ready s (.mdrnPeer t a b sh) →
      (k.gang.toNat % 8 ≤ n % 8 → matf (.mdrnPeer t a b sh) 0x11 5) ∧
      (n % 8 < k.gang.toNat % 8 →
        EntersQueue s u (.mdrnPeer t a b sh) (.mdrnPeer k.cid t.val w (getC s b) sh.val k.gang m.ord sc))) ∧
    (Ready s (.mrow t q sh) →
      ((coreAt s k.pair).mcfgHeld = 0 → matf (.mrow t q sh) 0x10 6) ∧
      ((coreAt s k.pair).mcfgHeld ≠ 0 → bound = false → matf (.mrow t q sh) 0x13 6) ∧
      ((coreAt s k.pair).mcfgHeld ≠ 0 → bound = true →
        EntersQueue s s (.mrow t q sh) (.mrow k.cid t.val q.val sh.val 0))) ∧
    (Ready s (.gang a) →
      (legal = false → matf (.gang a) 0x12 0) ∧
      (legal = true → EntersQueue s { s with cur := { k with gang := w, joint := 0 } } (.gang a) (.gang k.cid))) ∧
    (Ready s (.nrq d v b) → Clean s (.nrq d v b) ins → ∃ x, exec (.nrq d v b) s = .next x ∧
      x.cur.futs = u.cur.futs ++ [⟨u.nextId, k.fr.fid, k.fr.fid :: k.fr.preds, [],
        .v d.val (nrqWord.toNat / 2 ^ 57 % 16 + 1), .nrq (active s), []⟩] ∧
      x = { u with
        nextId := u.nextId + 1
        cores := kset u.cores k.pair { coreAt u k.pair with
          opq := (coreAt u k.pair).opq ++ [.nrq k.cid u.nextId]
          nrqs := (coreAt u k.pair).nrqs ++ [{
            cid := k.cid, fut := u.nextId, act := active s, word := nrqWord, inputs := ins.map fun r => k.vreg r,
            vd := d.val, ver := k.nbv.toNat % 16, ord := m.ord, scope := sc, got := [] }] }
        cur := { u.cur with futs := x.cur.futs, fr := after s (nextPc s) } })

/-- What an accepted render read leaves: one more future behind its destination (R260). -/
def Sys2Proof.AcceptsJob (s u : State) (i : Instr) (d : VReg) (n : Nat) (act : Mask) (job : RJob) : Prop :=
  AcceptsLoad s u i (.v d.val n) (.render act job)

/-- R259 to R262, R270: `grdv` and `grdw` are illegal outside a grid's crew and `rsub` outside a resolve crew; there `grdv` and
`rsub` wait for one or two registers; `grdw`, with no earlier acquire and no `grdv` of its crew on the way, writes positions
clamped to the declared bound, or a colour, at each vertex that an active lane names, and leaves every other vertex and every
register as it was. `grdv`, `grdw` and `rsub` complete. -/
def Obligations.GridInstructionResults : Prop :=
  ∀ (s : State) (d v : VReg) (a : AReg) (c : CReg) (k : MReg) (b g : Nat) (x : Grid) (y : Bucket),
    let i : Instr := .grdv d a k
    let j : Instr := .grdw v a k
    let r : Instr := .rsub d a c
    let ix := getA s a
    let vertex (l : Nat) : Nat := (ix.base + BitVec.ofInt 64 (ix.stride.toInt * (l : Int))).toNat
    let writers (n : Nat) : List Nat := (lanesOf (active s)).filter fun l => vertex l == n
    let w0 (l : Nat) : Word := laneAt (getV s v) l
    let w1 (l : Nat) : Word := laneAt (s.cur.vreg (v.val + 1)) l
    let moved (p : V3) (l : Nat) : V3 :=
      (clampTo x.db p.1 (sub 32 (w0 l) 0), clampTo x.db p.2.1 (sub 32 (w0 l) 1), clampTo x.db p.2.2 (sub 32 (w1 l) 0))
    let written (o : Vert) (l : Nat) : Vert :=
      if k.val = 0 then { o with p0 := moved o.d0 l } else if k.val = 1 then { o with p1 := moved o.d1 l }
      else { o with col := w0 l }
    (Ready s i → Clean s i (uses s i).r →
      (s.cur.isVertex = false → Raises s i { cause := .illegal, info := s.ir }) ∧
      (s.cur.isVertex = true → AcceptsJob s s i d (if k.val ≤ 4 then 2 else 1) (active s) (.grdv ix k.val))) ∧
    (Ready s r → Clean s r (uses s r).r →
      (s.cur.isResolve = false → Raises s r { cause := .illegal, info := s.ir }) ∧
      (s.cur.isResolve = true → AcceptsJob s s r d 2 (active s) (.rsub ix (getC s c)))) ∧
    (Ready s j → Clean s j (uses s j).r →
      (s.cur.isVertex = false → Raises s j { cause := .illegal, info := s.ir }) ∧
      (s.cur.kind = .vertex b g → bucket? s s.cur.launch b = some y → (y.grids.find? fun z => z.num == g) = some x →
        k.val ≤ 2 →
        (s.cur.futs.all fun f => match f.kind with | .render _ (.grdv _ _) => false | _ => true) = true →
        depsFor s s.cur (s.cur.fr.fid :: s.cur.fr.preds) [] false = [] → gridHeld s (corePort s.cur.pair) x = false →
        ∃ t, exec j s = .next t ∧
          (∃ z, crewGrid t s.cur = some z ∧ z.verts.length = x.verts.length ∧
            ∀ n, n < x.verts.length → ∃ o, x.verts[n]? = some o ∧ ∃ p, z.verts[n]? = some p ∧
              (writers n = [] → p = o) ∧ (writers n ≠ [] → (writers n).any (fun l => p == written o l) = true)) ∧
          t = { s with
            tick := t.tick, renders := t.renders, cur := { s.cur with fr := after s (nextPc s) } }))

/-- R260, R271, R273 to R275: a ray instruction checks the alignment of its nodes' or triangles' addresses, translates them and
waits with the ray's four registers; `samp` through a misaligned descriptor, or `rtri.a` through misaligned triangles, is
MISALIGN; once the descriptor can be read, `samp` waits with it, the coordinates and the texels' places (that it is read at issue and
kept is log 47's reading); `rtri.a` reads its triangles at once, and the descriptors of the textures its hits have, and waits with
their texels' places (log 47's reading too). `rbox`, `rtri`,
`rtri.a` and `samp` complete. -/
def Obligations.TextureAndRayReads : Prop :=
  ∀ (s : State) (d g n a : VReg) (c : CReg),
    let act := active s
    let at_ (l : Nat) : Nat := (laneAt (getV s n) l).toNat % 2 ^ 57
    let ls := (lanesOf act).map fun l => (l, at_ l)
    let bad (z : Nat) := ls.filter fun l => l.2 % z != 0
    let r := translateLanes s .read 0 (ls.map fun l => (l.1, l.2, 0))
    let ray := (List.range 4).map fun k => s.cur.vreg (g.val + k)
    let i : Instr := .rbox d g n
    let j : Instr := .rtri d g n
    let k : Instr := .rtriAlpha d g n
    let p : Instr := .samp d a c
    let da := (getC s c).toNat
    let dl := (lanesOf act).map fun l => (l, da)
    let q := translateLanes s .read 0 (dl.map fun l => (l.1, l.2, 0))
    let free (u : State) (las : List LaneAcc) (z : Nat) : Bool :=
      (depsFor u u.cur u.cur.fr.po (bytesOf las z) false).isEmpty && las.all fun l => !laneHeld u s.cur.pair .block z l && !headLost u s.cur.pair l
    let ready (i : Instr) : Prop := Ready s i ∧ Clean s i (uses s i).r ∧ act ≠ 0
    (ready i →
      (bad 128 ≠ [] → RaisesFor s i .misalign (bad 128)) ∧
      (bad 128 = [] → ∀ las, r.1 = .ok las → AcceptsJob s r.2 i d 1 act (.rbox ray las))) ∧
    (ready j →
      (bad 64 ≠ [] → RaisesFor s j .misalign (bad 64)) ∧
      (bad 64 = [] → ∀ las, r.1 = .ok las → AcceptsJob s r.2 j d 2 act (.rtri ray las))) ∧
    (ready k →
      (bad 64 ≠ [] → RaisesFor s k .misalign (bad 64)) ∧
      (bad 64 = [] → ∀ las, r.1 = .ok las → free r.2 las 64 = true →
        let got := readLanes r.2 s.cur.pair s.cur.launch .block 64 las
        let al := alphaLanes ray got.1
        let y := translateLanes got.2 .read 0 (al.map fun x => (x.1, x.2.1, 0))
        (al = [] → AcceptsJob s got.2 k d 2 act (.alpha ray got.1 [] [] las)) ∧
        (al ≠ [] → (al.all fun x => x.2.1 % 32 == 0) = true → ∀ ds, y.1 = .ok ds → free y.2 ds 32 = true →
          let red := readLanes y.2 s.cur.pair s.cur.launch .block 32 ds
          let full := withDescs al red.1
          let x := translateLanes red.2 .read 0 ((texelAddrs full).map fun l => (l.1, l.2, 0))
          texelsBad full = [] → ∀ ts, x.1 = .ok ts → AcceptsJob s x.2 k d 2 act (.alpha ray got.1 red.1 ts (las ++ ds))))) ∧
    (ready p →
      (da % 32 ≠ 0 → RaisesFor s p .misalign dl) ∧
      (da % 32 = 0 → ∀ las, q.1 = .ok las → free q.2 (las.take 1) 32 = true →
        let got := readLanes q.2 s.cur.pair s.cur.launch .block 32 (las.take 1)
        let desc := (got.1.headD (0, 0)).2
        (readsTexels desc = none → AcceptsJob s got.2 p d 1 act (.samp desc (getV s a) [] las)) ∧
        (∀ tex, readsTexels desc = some tex →
          let taps := (lanesOf act).flatMap fun l =>
            (tex.taps (sub 32 (laneAt (getV s a) l) 0) (sub 32 (laneAt (getV s a) l) 1)).map fun y => (l, y.1)
          let x := translateLanes got.2 .read 0 (taps.map fun l => (l.1, l.2, 0))
          (taps.filter fun y => y.2 % tex.size != 0) = [] → ∀ ts, x.1 = .ok ts →
            AcceptsJob s x.2 p d 1 act (.samp desc (getV s a) ts las))))

/-- R276, R277: a ray stack's word gives its place and depth; a stack misaligned or past the allocation, an `rpsh` of a full
lane and an `rpop` of a lane beyond its depth trap before any byte is written; else each active lane's entry and count are
written or read, and no other byte of the scratchpad changes; `rhit` copies the nearer of two hits into its destination and
its distance into the ray's limit, whose lower half is as the copy leaves it, and no poison changes. That the effect is at issue is log
47's reading; the lanes and the address that the two causes report are log 48's. The memories have the
model's canonical form. `rpsh`, `rpop` and `rhit` complete. -/
def Obligations.RayStackResults : Prop :=
  ∀ (s : State) (d a g : VReg) (c : CReg) (b : Block), MemoriesCanonical s → blockAt? s s.cur.block = some b → b.pair.isSome = true →
    let act := active s
    let w := (getC s c).toNat
    let off := w % 2 ^ 18
    let depth := w / 2 ^ 24 % 64
    let i : Instr := .rpsh a c
    let j : Instr := .rpop d c
    let h : Instr := .rhit d a g
    let count (l : Nat) : Nat := (b.scratch.read (off + l)).toNat
    let entry (l n : Nat) : Nat := off + 32 + 8 * (l * depth + n)
    let at_ (o : Nat → Nat) (ls : List Nat) : List (Nat × Nat) := ls.map fun l => (l, o l)
    let full := (lanesOf act).filter fun l => decide (depth ≤ count l)
    let past := (lanesOf act).filter fun l => decide (depth < count l)
    let quiet := (depsFor s s.cur s.cur.fr.po [(⟨.spad s.cur.block, off⟩, 32 + 256 * depth)] false) = []
    let checks (i : Instr) : Prop :=
      (off % 8 ≠ 0 → RaisesFor s i .misalign (at_ (fun _ => off) (lanesOf act))) ∧
      (off % 8 = 0 → b.scratchSize < off + 32 + 256 * depth → RaisesFor s i .spbound (at_ (fun _ => off) (lanesOf act)))
    let fits := off % 8 = 0 ∧ off + 32 + 256 * depth ≤ b.scratchSize ∧ quiet
    let frame (t : State) (hit : Nat → Bool) : Prop := ∃ y, blockAt? t s.cur.block = some y ∧
      (∀ n, hit n = false → y.scratch.read n = b.scratch.read n) ∧ y = { b with scratch := y.scratch } ∧
      (∀ n, n ≠ s.cur.block → blockAt? t n = blockAt? s n)
    let t0 (v : VReg) (l : Nat) : FVal := fp32.decode (sub 32 (laneAt (getV s v) l) 0)
    let near (l : Nat) : Bool := inMask act l && !(t0 a l).isNan && !(t0 d l).isNan && (t0 a l).lt (t0 d l)
    let low (v : Nat) (l : Nat) : Word := laneAt (s.cur.vreg v) l
    (Ready s i → Clean s i (uses s i).r → act ≠ 0 → checks i ∧
      (fits → full ≠ [] → RaisesFor s i .spbound (at_ (fun l => entry l (count l)) full)) ∧
      (fits → full = [] → ∃ t, exec i s = .next t ∧
        (∀ l, l < 32 → inMask act l = true → ∃ y, blockAt? t s.cur.block = some y ∧
          y.scratch.bytes (entry l (count l)) 8 = leBytes 8 (laneAt (getV s a) l).toNat ∧
          y.scratch.read (off + l) = BitVec.ofNat 8 (count l + 1)) ∧
        frame t (fun n => (lanesOf act).any fun l =>
          n == off + l || (decide (entry l (count l) ≤ n) && decide (n < entry l (count l) + 8))) ∧
        t = { s with blocks := t.blocks, cur := { s.cur with fr := after s (nextPc s) } })) ∧
    (Ready s j → Clean s j (uses s j).r → act ≠ 0 → checks j ∧
      (fits → past ≠ [] → RaisesFor s j .spbound (at_ (fun l => entry l (count l)) past)) ∧
      (fits → past = [] → ∃ t, exec j s = .next t ∧
        (∀ l, l < 32 → inMask act l = true → ∃ y, blockAt? t s.cur.block = some y ∧
          y.scratch.read (off + l) = BitVec.ofNat 8 (count l - 1)) ∧
        frame t (fun n => (lanesOf act).any fun l => n == off + l) ∧
        (∃ f, t.cur.futs = s.cur.futs ++ [f] ∧ f.id = s.nextId ∧ f.fid = s.cur.fr.fid ∧
          f.po = s.cur.fr.fid :: s.cur.fr.preds ∧ f.dest = .v d.val 1 ∧
          ∃ v, f.kind = .render act (.rpop v) ∧ ∀ l, l < 32 → inMask act l = true → laneAt v l =
            if count l = 0 then 0 else BitVec.ofNat 64 (leNat (b.scratch.bytes (entry l (count l - 1)) 8))) ∧
        t = { s with
          nextId := s.nextId + 1, blocks := t.blocks
          cur := { s.cur with futs := t.cur.futs, fr := after s (nextPc s) } })) ∧
    (Ready s h → Clean s h (uses s h).r → h.wf = true → ∃ t, exec h s = .next t ∧
      (∀ r : Nat, r < 127 → ∀ l : Nat, l < 32 → low r l = laneAt (t.cur.vreg r) l ∨ near l = true) ∧
      (∀ l, l < 32 → near l = true →
        (d.val < 127 → d.val ≠ g.val + 3 → laneAt (t.cur.vreg d.val) l = low a.val l) ∧
        (d.val + 1 < 127 → d.val + 1 ≠ g.val + 3 → laneAt (t.cur.vreg (d.val + 1)) l = low (a.val + 1) l) ∧
        (g.val + 3 < 127 → d.val ≠ g.val + 3 → laneAt (t.cur.vreg (g.val + 3)) l =
          pack 32 [sub 32 (low (if d.val + 1 = g.val + 3 then a.val + 1 else g.val + 3) l) 0, sub 32 (low a.val l) 0])) ∧
      (∀ r : Nat, r < 127 → r ≠ d.val → r ≠ d.val + 1 → r ≠ g.val + 3 → t.cur.vreg r = s.cur.vreg r) ∧
      (∀ r : Nat, t.cur.poisonOf r = s.cur.poisonOf r) ∧
      t = { s with cur := { s.cur with v := t.cur.v, poison := t.cur.poison, fr := after s (nextPc s) } })

/-- Is it one of the four hint words, which belong to a later instruction (R51)? -/
def Sys2Proof.isHintWord : Instr → Bool
  | .hintLo _ | .hintHi _ | .hintMod _ | .hintJoin _ => true
  | _ => false

/-- R26, R42, R43, R55, R196, R306: before its own effect every instruction but a hint waits while an operand, a queue or a unit
holds it; then takes the first recorded fault that is due, or one that its fragment was left with, but that an `end` (R186) and an
instruction that replays its launch leave a recorded one; then ILLEGAL for the first
hint it does not accept, with that hint's word and address (which of several goes first is log 72's choice); then ALLOT for a register
beyond the allotment. R120, R175: then the lanes of a varying instruction, a load, a store or an atomic whose sources hold poison there
die, before any effect: they leave `lm`, their fragment and its `xm`, `cst.DLN` is set and the core counts them, and the instruction
does what it does in that state; a fragment that loses its last lane is gone, a crew that does retires, and under the region's
replay policy the launch is replayed instead. -/
def Obligations.EveryInstructionMeetsFirst : Prop :=
  (∀ (s : State) (i : Instr), isVarying i = true ∨ reachesMemory i = true → Ready s i → popped s.cur (uses s i) = [] →
    let dead := (consumed i (uses s i)).foldl (fun m r => m ||| s.cur.poisonOf r) 0 &&& active s
    let replay : Bool := (regionAt? s s.cur.region).any fun r => r.ldr
    let k := s.cur
    let left (f : Frag) : Frag := { f with fl := f.fl &&& ~~~dead, xm := f.xm &&& ~~~dead }
    let others := (k.frags.map left).filter fun f => f.fl != 0
    let killed : State := { modCore s k.pair (fun c => countEvt c 0x08 (lanesOf dead).length) with
      cur := { k with lm := k.lm &&& ~~~dead, cst := { k.cst with dln := true }, fr := left k.fr, frags := others } }
    dead ≠ 0 →
      (replay = false → k.lm &&& ~~~dead ≠ 0 → k.fr.fl &&& ~~~dead ≠ 0 → exec i s = exec i killed) ∧
      (replay = false → k.lm &&& ~~~dead ≠ 0 → k.fr.fl &&& ~~~dead = 0 → others ≠ [] → (∀ f ∈ others, f.fid ≠ k.fr.fid) →
        ∃ t, exec i s = .next t ∧ t.cur.all = others ∧ t.cur.lm = k.lm &&& ~~~dead ∧ t.cur.cst.dln = true ∧
          t.cur.c = k.c ∧ t.cur.a = k.a ∧ t.cur.v = k.v ∧ t.loc = s.loc ∧ t.blocks = s.blocks) ∧
      (replay = false → k.lm &&& ~~~dead = 0 → ∃ t, exec i s = .next t ∧ t.cur = Crew.none ∧ t.loc = s.loc ∧
        (∀ b, blockAt? s k.block = some b → (blockAt? t k.block).map (fun x => x.retired) = some (b.retired ++ [k.idx]))) ∧
      (replay = true → (replayLaunch s k.launch .poison).cur.alive = false →
        exec i s = .next (replayLaunch s k.launch .poison))) ∧
  ∀ (s : State) (i : Instr), isEvent i = false → isHintWord i = false → s.cur.alive = true →
    let due := (if i == .endd || replays s i (uses s i) then none else dueImprec s i (uses s i)).or (failedTrap s.cur.fr)
    let first := s.cur.fr.pc - BitVec.ofNat 57 (4 * s.cur.fr.run.length)
    (held s i = true → exec i s = .next s) ∧
    (held s i = false →
      (∀ t, due = some t → exec i s = .next (takeTrap s t first)) ∧
      (due = none →
        (∀ k, badHint (accepts i) s.cur.fr.run = some k → ∀ h, s.cur.fr.run[k]? = some h →
          exec i s = .next (takeTrap s { cause := .illegal, info := h.word } (first + BitVec.ofNat 57 (4 * k)))) ∧
        (badHint (accepts i) s.cur.fr.run = none → tooHigh s i ≠ [] →
          ∃ n ∈ tooHigh s i, exec i s = .next
            (takeTrap { s with tick := s.tick + 1 } { cause := .allot, info := n } first))))

/-! ## Events -/

/-- The machine with the fragment an event names under the issue stage. -/
def Sys2Proof.Finds (s : State) (p sl fid : Nat) (u : State) : Prop := ∃ t, focus s p sl = some t ∧ focusFrag t fid = some u

/-- A parked fragment whose instruction has completed: its run and the word that parked are folded (R188). -/
def Sys2Proof.unparked (f : Frag) : Frag :=
  { f with dmk := foldRun f.dmk f.run f.word, run := [], pc := f.pc + 4, park := .none }

/-- R28, R36, R114 to R116, R179, R180, R183, R186, R199, R244: what happens to fragments between issues: a request granted, a
shrink done, a join fused, a spilled fragment reloaded, a hold ended, a promotion, a waiting `end` retired, a PREEMPT taken, a
handler budget spent, a word fetched from the instruction cache, an `iinv` acknowledged. `growGrant`,
`shrinkComplete`, `joinFusion`, `fragmentReload`, `endRetire`, `yieldHoldExpiry`, `promotion`, `trapDelivery`, `hbudExpiry`,
`instructionFetch`, `iinvAcknowledged` complete. -/
def Obligations.FragmentEvents : Prop :=
  ∀ (s : State) (p sl fid : Nat) (tile : Bool) (k : Fin 8),
    let core := coreAt s p
    (∀ x rest, (if tile then core.growT else core.growV) = x :: rest → ∀ t,
      (focusCid s x.1).bind (fun t => focusFrag t x.2.1) = some t →
      let n := x.2.2
      let old := if tile then t.cur.tn else t.cur.vn
      let need := if tile then n - old else (n - old) / 8
      need ≤ (if tile then core.tfree else core.vfree) →
      ∃ v, exec (.growGrant p tile) s = .next v ∧
        coreAt v p = (if tile then { core with growT := rest, tfree := core.tfree - need }
          else { core with growV := rest, vfree := core.vfree - need }) ∧
        v.cur.tn = (if tile then n else t.cur.tn) ∧ v.cur.vn = (if tile then t.cur.vn else n) ∧
        (∀ r : Fin 128, v.cur.v.get r = if tile = false ∧ old ≤ r.val ∧ r.val < n then Lanes.zero else t.cur.v.get r) ∧
        (∀ r : Fin 32, v.cur.tiles.get r = if tile = true ∧ old ≤ r.val ∧ r.val < n then [] else t.cur.tiles.get r) ∧
        (∀ r, getC v r = if r = parkedDest t ∧ r.val ≠ 63 then BitVec.ofNat 64 old else getC t r) ∧
        v.cur.fr = { unparked t.cur.fr with stamp := v.cur.fr.stamp }) ∧
    (∀ u, Finds s p sl fid u →
      (∀ n, u.cur.fr.park = .shrink tile n →
        (if tile then (coreAt u u.cur.pair).opq.all (fun c => (c.tilesOf u.cur.cid).all fun t => decide (t < n))
          else (pendingV u.cur).all fun r => decide (r < n)) = true →
        let old := if tile then u.cur.tn else u.cur.vn
        ∃ v, exec (.shrinkComplete p sl fid) s = .next v ∧
          coreAt v u.cur.pair = (if tile then { coreAt u u.cur.pair with tfree := (coreAt u u.cur.pair).tfree + (old - n) }
            else { coreAt u u.cur.pair with vfree := (coreAt u u.cur.pair).vfree + (old - n) / 8 }) ∧
          v.cur.tn = (if tile then n else u.cur.tn) ∧ v.cur.vn = (if tile then u.cur.vn else n) ∧
          (∀ r, getC v r = if r = parkedDest u ∧ r.val ≠ 63 then BitVec.ofNat 64 old else getC u r) ∧
          v.cur.fr = { unparked u.cur.fr with stamp := v.cur.fr.stamp }) ∧
      (u.cur.fr.park = .ending → u.cur.stores = [] → dueImprec { u with ir := u.cur.fr.word } .endd {} = none →
        endReady u = true → u.cur.lm &&& ~~~u.cur.fr.fl ≠ 0 → ∃ v, exec (.endRetire p sl fid) s = .next v ∧
          v.cur.lm = u.cur.lm &&& ~~~u.cur.fr.fl ∧ v.cur.c = u.cur.c ∧ v.cur.v = u.cur.v ∧ v.crews = u.crews) ∧
      (∀ at_ n, u.cur.fr.park = .iinv at_ n → ∃ v, exec (.iinvAcknowledged p sl fid) s = .next v ∧
        (∀ c ∈ v.cores, ∀ l ∈ c.2.icache, inRange at_ n l.vln = false) ∧
        v.cur = { u.cur with ibuf := [], fr := unparked u.cur.fr }) ∧
      (runnable u.cur u.cur.fr = true → stalled u u.cur.fr.fid = false → hasFailed u.cur.fr = false → ∀ l,
        (coreAt u u.cur.pair).icache.find? (fun l => l.vln == (u.cur.fr.pc.toNat + 4 * k.val) / 128) = some l →
        ∃ v, exec (.instructionFetch p sl fid k.val) s = .next v ∧ v.cur = { u.cur with ibuf := v.cur.ibuf } ∧
          (v.crews = u.crews ∧ v.cores = u.cores ∧ v.blocks = u.blocks ∧ v.saved = u.saved) ∧
          kget v.cur.ibuf (u.cur.fr.pc.toNat + 4 * k.val) =
            some (l.data.extractLsb' (32 * ((u.cur.fr.pc.toNat + 4 * k.val) % 128 / 4)) 32))) ∧
    (∀ t, focus s p sl = some t →
      (∀ r, t.cur.joins.find? (fun r => r.jid == fid) = some r →
        let cs := carriers t.cur fid
        let lanes := cs.foldl (fun m f => m ||| f.fl) 0
        (cs = [] → exec (.joinFusion p sl fid) s =
          .next { t with cur := { t.cur with joins := t.cur.joins.filter fun x => x.jid != fid } }) ∧
        (cs ≠ [] → (t.cur.cst.lvl = .none ∨ ∀ f ∈ cs, f.fid ≠ t.cur.trapped) → (∀ f ∈ cs, f.park = .join ∧ f.join = some fid) →
          (lanes = r.p &&& t.cur.lm → (cs.map fun f => (lanesOf f.fl).length).sum = (lanesOf lanes).length →
            ∃ v, exec (.joinFusion p sl fid) s = .next v ∧
              (v.cur.fr.pc = r.j ∧ v.cur.fr.fl = lanes ∧ v.cur.fr.xm = lanes ∧ v.cur.fr.join = r.outer ∧
                v.cur.fr.park = .none ∧ v.cur.fr.run = [] ∧ v.cur.fr.dmk = crcWord 0xFFFFFFFF 3) ∧
              v.cur.frags = t.cur.all.filter (fun f => !(cs.any fun x => x.fid == f.fid)) ∧
              v.cur.joins = t.cur.joins.filter (fun x => x.jid != fid) ∧
              v.cur.c = t.cur.c ∧ v.cur.v = t.cur.v ∧ v.cur.lm = t.cur.lm) ∧
          (lanes ≠ r.p &&& t.cur.lm → exec (.joinFusion p sl fid) s =
            .next (replayLaunch (report t "SIGMISS" [fid]) t.cur.launch .sigmiss)))) ∧
      (∀ e, freeEntry? t t.cur.pair t.cur.slot = some e → (t.cur.all.any fun f => f.entry.isNone) = true →
        ∃ v, exec (.fragmentReload p sl) s = .next v ∧ ∃ f ∈ t.cur.all, f.entry = none ∧
          (∀ g ∈ t.cur.all, g.entry = none → f.order ≤ g.order) ∧
          v.cur = t.cur.modFrag f.fid fun g => { g with entry := some e, stamp := t.nextId }) ∧
      (t.cur.preDue.isSome = true → t.cur.cst.lvl = .none → t.cur.saving = 0 → t.cur.entering = none →
        (t.cur.all.any fun f => ready t t.cur f) = false → t.cur.imprec.all (fun e => !e.isStore) = true →
        exec (.trapDelivery p sl) s = .next (takePreempt t)) ∧
      (∀ r, regionAt? t t.cur.region = some r → t.cur.cst.lvl = .preempt → t.cur.hbud = 0 → t.cur.saving = 0 →
        ∃ v, exec (.hbudExpiry p sl) s = .next v ∧
          (v.cur.alive = false ∨ (v.cur.cid = t.cur.cid ∧ v.cur.saving = 2 ∧ v.cur.hbud = 0)))) ∧
    (s.cur.alive = true → s.cur.pair = p → s.cur.slot = sl → s.cur.fr.fid = fid →
      (∀ n, s.cur.fr.hold = some n → 16 ≤ n → ∃ v, exec (.yieldHoldExpiry p sl fid) s = .next v ∧
        v.cur.fr = { s.cur.fr with hold := none } ∧
        v = { s with cur := { s.cur with fr := v.cur.fr, frags := v.cur.frags } }) ∧
      (64 ≤ s.cur.fr.passed → s.cur.fr.entry.isSome = true → sl < 64 →
        (quarterAt s p (sl % 4)).promo.contains (s.cur.cid, fid) = false → ∃ v, exec (.promotion p sl fid) s = .next v ∧
          (quarterAt v p (sl % 4)).promo = (quarterAt s p (sl % 4)).promo ++ [(s.cur.cid, fid)] ∧
          v.cur = s.cur))

/-- R18, R31, R99, R285, R329 to R332: a placed block stands on its core with a scratchpad of zeros and its crews start there,
each with its lanes, its start registers and the launch's allotment; a swapped-in crew has the registers of its record, on the
core and in the lowest free slot; a swap-out begins the saves of the crews chosen.
`placeBlock`, `swapIn`, `swapOut` complete. -/
def Obligations.ResidenceEvents : Prop :=
  ∀ (s : State),
    (∀ l p, nextPlace s = some (.block l, p) → l.st = .running → ∃ v, exec .placeBlock s = .next v ∧
      (∃ b, v.blocks = s.blocks ++ [b] ∧
        (b.launch = l.lid ∧ b.index = l.placed ∧ b.crews = l.lr.crews ∧ b.pair = some p ∧ b.scratch = [] ∧
          b.scratchSize = 256 * l.lr.scr ∧ b.winSize = 65536 * l.lr.tsw ∧ b.latch = [] ∧ b.saveSlot = none) ∧
        (∀ j, j < l.lr.crews → let n := l.lr.nlan - 32 * (l.placed * l.lr.crews + j)
          let lanes : Mask := if l.lr.nlan = 0 then 0xFFFFFFFF else maskBelow n
          (lanes = 0 → j ∈ b.retired) ∧
          (lanes ≠ 0 → ∃ c ∈ allCrews v, (c.block = b.bid ∧ c.idx = j ∧ c.lm = lanes ∧ c.launch = l.lid ∧
              c.region = l.lr.regn ∧ c.pair = p ∧ c.slot < 64 ∧ c.vn = l.lr.vn ∧ c.tn = l.lr.til ∧ c.nbv = 5 ∧ c.nsf = 0) ∧
            (c.fr.pc = BitVec.ofNat 57 l.lr.entry ∧ c.fr.fl = lanes ∧ c.fr.xm = lanes ∧ c.fr.dmk = 0xFFFFFFFF) ∧
            (∀ r : Fin 64, c.c.get r = BitVec.ofNat 64 (([l.lr.param, l.placed, j, l.lr.blks].getD r.val 0))) ∧
            c.a.get 0 = ⟨BitVec.ofNat 64 (32 * (l.placed * l.lr.crews + j)), 1⟩ ∧
            (∀ r : Fin 128, c.v.get r = Lanes.zero) ∧ (∀ r : Fin 8, c.m.get r = 0)))) ∧
      (∀ x, launchAt? s l.lid = some x → (launchAt? v l.lid).map (fun y => y.placed) = some (x.placed + 1))) ∧
    (∀ k p, nextPlace s = some (.crew k, p) → restoreWaits s k p = false → ∀ r, regionAt? s k.region = some r →
      ∀ b, blockAt? s k.block = some b → b.pair = some p → ∀ x,
      readRecord (keepBlock (acquireAt s p .device) b r) p (r.svb + 0x9A000 * k.slot) = some x → recordOk x.1 = true →
      recordBad s k r b = none → (recNat x.1 0x498 8 / 16 % 4 = 0 ∨ recNat x.1 0x498 8 / 16 % 4 = 3) → k.regs = [] → b.qtab = none →
      let bs := x.1
      ∃ v, exec .swapIn s = .next v ∧
        (v.cur.alive = true ∧ v.cur.cid = k.cid ∧ v.cur.idx = k.idx ∧ v.cur.block = k.block ∧ v.cur.pair = p ∧
          v.cur.slot = freeSlot s p ∧ v.cur.vn = recNat bs 2 1 ∧ v.cur.tn = recNat bs 3 1) ∧
        (∀ i : Fin 64, v.cur.c.get i = if i.val = 63 then 0 else BitVec.ofNat 64 (recNat bs (0x40 + 8 * i.val) 8)) ∧
        (∀ i : Fin 8, v.cur.m.get i = BitVec.ofNat 32 (recNat bs (0x440 + 4 * i.val) 4)) ∧
        v.cur.nbv = BitVec.ofNat 64 (recNat bs 0x480 8 % 16) ∧ v.cur.lm = BitVec.ofNat 32 (recNat bs 0x460 4) ∧
        v.saved = x.2.saved.filter (fun y => y.cid != k.cid)) ∧
    (∀ t rest, candidates s = t :: rest → (placeOn s none t).isSome = false → ∀ x, outCore s t = some x →
      ((allCrews s).map fun c => c.cid).Nodup → ∃ v, exec (.swapOut x.1) s = .next v ∧
        ∀ c ∈ x.2, crew? v c.cid = none ∨ ∃ k, crew? v c.cid = some k ∧ k.saving = 3)

/-- The crew and its future that an event names, the only ones of those names. -/
def Sys2Proof.FindsFut (s : State) (p sl id : Nat) (c : Crew) (f : Fut) : Prop :=
  (crewsOn s p).find? (fun k => k.slot == sl) = some c ∧ crew? s c.cid = some c ∧ c.futs.find? (fun g => g.id == id) = some f

/-- Lanes of a register filled: lane `l` of `las` gets `f l`, other lanes and registers from `r` on `n` keep theirs. -/
def Sys2Proof.Fills (c d : Crew) (r n : Nat) (lanes : Mask) (f : Nat → Nat → Word) (bad : Mask) : Prop :=
  ∀ k, k < 127 → ∀ l : Nat, l < 32 →
    laneAt (d.vreg k) l = (if r ≤ k ∧ k < r + n ∧ inMask lanes l = true then f (k - r) l else laneAt (c.vreg k) l) ∧
    inMask (d.poisonOf k) l = (if r ≤ k ∧ k < r + n ∧ inMask lanes l = true then inMask bad l else inMask (c.poisonOf k) l)

/-- No checkpoint streams and a launch, if there is one, is irrevocable: its writes go to their places and nowhere else. -/
def Sys2Proof.InPlace (s : State) (lid : Nat) : Prop := streaming s = false ∧ ∀ l, launchAt? s lid = some l → l.irrev = true

/-- R207 to R209, R213, R214, R231, R232, R234, R235, R311: a load whose earlier accesses are done fills its lanes with what its
elements read, sign- or zero-extended, or poison where the data comes back uncorrectable or its line is known to be; the oldest store of a crew leaves the buffer once its lanes are translated, or,
at an absent or forbidden page, becomes a recorded fault with a record for it and for every younger store; a queued store whose
earlier accesses are done is performed, and its bytes read back where it was made; a releasing one makes its release first and
then stands in the queue element by element. `loadComplete`, `storeTranslate`, `storePerformed` complete. -/
def Obligations.LoadAndStoreEvents : Prop :=
  ∀ (s : State) (p sl id i : Nat) (bad : BitVec 32),
    (∀ c f, FindsFut s p sl id c f → ∀ n x las sc r k, f.kind = .load n x las sc false → f.dest = .v r k → r + k ≤ 127 →
      depsDone s c.cid f.deps = true → las.any (laneHeld s c.pair sc n) = false →
      let els := loadElems n las
      let lost := badLanes s c.pair sc (min n 8) ((els.filter fun e => (kget f.got e.1).isNone).map fun e => e.2) bad
      let t := countUncorr s ((las.filter fun l => inMask lost l.lane).map fun l => l.pa)
      let got := (readElems t c.pair c.launch sc n f.got (els.filter fun e => !inMask lost e.2.lane)).1
      let value (j l : Nat) : Word :=
        let e := kgetD got (2 * l + j) 0
        if n = 16 then BitVec.ofNat 64 e else if x then BitVec.ofInt 64 (toS (8 * n) e) else BitVec.ofNat 64 e
      ∃ v, exec (.loadComplete p sl id bad) s = .next v ∧
        ((∀ e ∈ els, badAt s e.2.pa = false) → lost = bad) ∧
        (f.got = [] → sc = .cluster ∨ sc = .device ∨ sc = .system → ∀ la ∈ las, la.lane < 32 → badAt s la.pa = true →
          inMask lost la.lane = true) ∧
        (f.got = [] → (∀ la ∈ las, la.pa.sp ≠ .loc) → (las.map fun l => l.lane).Nodup → ∀ la ∈ las, inMask lost la.lane = false →
          (n ≤ 8 → kgetD got (2 * la.lane) 0 = paNat s la.pa n) ∧
          (n = 16 → kgetD got (2 * la.lane) 0 = paNat s la.pa 8 ∧
            kgetD got (2 * la.lane + 1) 0 = paNat s (la.pa.off 8) 8)) ∧
        ∃ d, crew? v c.cid = some d ∧ Fills c d r k (maskOf (las.map fun l => l.lane)) value lost ∧
          d = { c with v := d.v, poison := d.poison, futs := c.futs.filter fun g => g.id != id }) ∧
    (∀ t, focus s p sl = some t → ∀ x rest, t.cur.stores = x :: rest → stalled t x.id = false →
      let r := xlateLanes t t.cur.pair .write x.elements
      let absent := r.1.filter fun y => match y.2.2.2 with | .absent .. => true | _ => false
      let denied := r.1.filter fun y => y.2.2.2 == .denied
      r.1.all (fun y => y.2.2.2 != .migrating) = true →
      (absent = [] → denied = [] → ∃ v, exec (.storeTranslate p sl) s = .next v ∧ v.cur = { t.cur with stores := rest } ∧
        v.storeQ.take t.storeQ.length = t.storeQ ∧
        (∀ y ∈ v.storeQ.drop t.storeQ.length, y.id = x.id ∧ y.cid = t.cur.cid ∧ y.size = min x.size 8 ∧ y.rel = x.rel ∧
          y.scope = x.scope ∧ ∀ la ∈ y.lanes, ∃ e ∈ r.1, e.1 = la.lane ∧ e.2.1 = la.va ∧ e.2.2.1 = la.data ∧
            e.2.2.2 = .ok la.pa la.perm) ∧
        (∀ e ∈ r.1, ∃ y ∈ v.storeQ.drop t.storeQ.length, ∃ la ∈ y.lanes, ∃ perm, e.2.2.2 = .ok la.pa perm) ∧
        v.loc = r.2.loc ∧ v.sys = s.sys ∧ v.peers = s.peers) ∧
      (absent ≠ [] ∨ denied ≠ [] → (coreAt r.2 t.cur.pair).sfq.length + 1 + rest.length ≤ 16 →
        let hit := if absent = [] then denied else absent
        ∃ v, exec (.storeTranslate p sl) s = .next v ∧
          (coreAt v t.cur.pair).sfq.length = (coreAt r.2 t.cur.pair).sfq.length + 1 + rest.length ∧
          v.storeQ = s.storeQ ∧ ∃ e, v.cur.imprec = t.cur.imprec ++ [e] ∧
            e.cause = (if absent = [] then Cause.stperm else .pgnp) ∧ e.lanes = maskOf (hit.map fun y => y.1) ∧
            e.addr = ((hit.map fun y => y.2.1).headD 0) ∧ e.info / 256 = 1 + rest.length ∧
            v.cur = { t.cur with stores := [], imprec := v.cur.imprec })) ∧
    (∀ x, s.storeQ[i]? = some x → depsDone s x.cid x.deps = true → x.lanes.any (laneHeld s x.pair x.scope x.size) = false →
      stalled s x.id = false → (x.lanes.any fun l => claimMoves s x.launch l.pa) = false →
      (x.rel = true → x.logged = none → logWaits s x.pair x.scope x.lanes = false → releaseHeld s x.pair x.scope = false → ∃ v, exec (.storePerformed i) s = .next v ∧
        v.storeQ = s.storeQ.take i ++ x.lanes.map (fun l => { x with deps := [], lanes := [l], logged := some (coreAt v x.pair).stamp }) ++
          s.storeQ.drop (i + 1) ∧ v.cur = s.cur ∧ v.crews = s.crews ∧
        (x.scope = .device → ∀ l ∈ (coreAt v x.pair).l1, l.dirty = 0)) ∧
      (x.rel = false ∨ x.logged.isSome = true → ∃ v, exec (.storePerformed i) s = .next v ∧ v.storeQ = dropAt s.storeQ i ∧
        v.cur = s.cur ∧ v.crews = s.crews) ∧
      (∀ la, x.lanes = [la] → x.rel = false ∨ x.logged.isSome = true → MemoriesCanonical s →
        let bytes := leBytes x.size la.data
        (la.pa.sp = .sys → ∃ v, exec (.storePerformed i) s = .next v ∧
          (∀ k, k < x.size → v.sys.read (la.pa.a + k) = bytes.getD k 0) ∧ (InPlace s x.launch →
            v.sys = s.sys.writes la.pa.a bytes ∧ v.loc = s.loc ∧ v.peers = s.peers ∧ v.blocks = s.blocks)) ∧
        (∀ n, la.pa.sp = .peer n → ∃ v, exec (.storePerformed i) s = .next v ∧
          (∀ k, k < x.size → (peerMem v n).read (la.pa.a + k) = bytes.getD k 0) ∧ (InPlace s x.launch →
            peerMem v n = (peerMem s n).writes la.pa.a bytes ∧ v.loc = s.loc ∧ v.sys = s.sys ∧ v.blocks = s.blocks)) ∧
        (∀ b, la.pa.sp = .spad b → (List.range x.size).all (fun k => !queueByte s b (la.pa.a + k)) = true →
          (∀ y ∈ s.blocks, y.bid = b → y.pair.isSome = true) →
          ∃ v, exec (.storePerformed i) s = .next v ∧ v.loc = s.loc ∧ v.sys = s.sys ∧ v.peers = s.peers ∧
            v.blocks = s.blocks.map fun y => if y.bid = b then { y with scratch := y.scratch.writes la.pa.a bytes } else y) ∧
        (la.pa.sp = .loc → x.scope = .block → la.pa.a % x.size = 0 → x.size ∣ 128 → ∃ v, exec (.storePerformed i) s = .next v ∧
          (∀ k, k < x.size → readAt v x.pair .block (la.pa.a + k) = bytes.getD k 0) ∧
          (InPlace s x.launch → v.sys = s.sys ∧ v.peers = s.peers)) ∧
        (la.pa.sp = .loc → x.scope = .device → la.pa.a % x.size = 0 → x.size ∣ 128 → s.xl.ckdm0 = 0 → s.xl.ckdm1 = 0 →
          s.dev.ulEn = false → ∃ v, exec (.storePerformed i) s = .next v ∧
            (∀ k, k < x.size → redirect v (la.pa.a + k) < locSize → homeRead v (la.pa.a + k) = bytes.getD k 0) ∧
            (InPlace s x.launch → v.sys = s.sys ∧ v.peers = s.peers))))

/-- R237 to R240: an atomic whose earlier accesses are done, at the head of its line's queue where a home slice is its site, is
applied there: the element becomes the operation of its old value and the operands, and the old value, as it stands once what the
cluster holds of the line has gone home, is the reply, or poison; a line found uncorrectable, or known to be, is left as it is; ATOMERR is reported with
the address. `atomicRetire`, `atomErr` complete. -/
def Obligations.AtomicEvents : Prop :=
  ∀ (s : State) (i : Nat) (q : AtomReq) (c : Crew), s.atoms[i]? = some q → crew? s q.cid = some c →
    let n := if q.wide then 8 else 4
    depsDone s q.cid q.deps = true → laneHeld s q.pair q.scope n q.at_ = false → stalled s q.fut = false →
    claimMoves s q.launch q.at_.pa = false → q.rel = false → q.acq = false →
    (q.atHome = true → ∀ h, (lineQueue s (q.at_.pa.a / 128)).head? = some h → h = q) →
    let lost := laneBad s q.pair q.scope n q.at_
    let m := maskOf [q.lane]
    let replies (v : State) (x : Nat) (bad : Mask) : Prop := ∃ d, crew? v q.cid = some d ∧
      (∀ r, q.reply = some r → r < 127 → Fills c d r 1 m (fun _ _ => BitVec.ofNat 64 x) bad) ∧
      d = { c with v := d.v, poison := d.poison, futs := d.futs }
    let gone (v : State) : Prop := v.atoms = dropAt s.atoms i ∧ v.copies = s.copies ∧
      (v.launches.map fun l => l.lid) = s.launches.map fun l => l.lid
    let becomes (v : State) (y : Nat) (new : Nat) (bad : Mask) : Prop := replies v y bad ∧
      new = atomVal q.op (8 * n) y q.cmp q.src % 2 ^ (8 * n)
    let num (read : Nat → Byte) : Nat := leNat ((List.range n).map fun k => read (q.at_.pa.a + k))
    let t := noteRead (claimAt { s with atoms := dropAt s.atoms i } q.launch q.at_.pa) q.launch q.at_.pa.a
    let line := q.at_.pa.a / 128
    let applied (v : State) (bad : Mask) : Prop := MemoriesCanonical s →
      (q.at_.pa.sp = .sys ∨ (∃ k, q.at_.pa.sp = .peer k) → InPlace s q.launch →
        becomes v (paNat s q.at_.pa n) (paNat v q.at_.pa n) bad) ∧
      (q.at_.pa.sp = .loc → q.at_.pa.a % n = 0 →
        (q.scope = .device → s.xl.ckdm0 = 0 → s.xl.ckdm1 = 0 → s.dev.ulEn = false →
          (∀ k, k < n → redirect v (q.at_.pa.a + k) < locSize) →
          becomes v (num (homeRead (settleLine t q.pair line))) (num (homeRead v)) bad) ∧
        (q.scope = .block → becomes v (num (readAt (readReady t q.pair .block n q.at_) q.pair .block))
          (num (readAt v q.pair .block)) bad) ∧
        (q.scope = .cluster → becomes v (num (readAt t q.pair .cluster)) (num (readAt v q.pair .cluster)) bad))
    (lost = false → s.atoms.Nodup → ∃ v, exec (.atomicRetire i 1 false) s = .next v ∧ gone v ∧ applied v 0) ∧
    (lost = false → ∃ v, exec (.atomErr i) s = .next v ∧ gone v ∧ applied v m ∧
      v.reports.getLast? = some { name := "ATOMERR", args := [q.at_.va, q.pair] }) ∧
    (q.reply.isSome = true → ∀ b, b = true ∨ lost = true → ∃ v, exec (.atomicRetire i 1 b) s = .next v ∧ gone v ∧ replies v 0 m ∧
      v.loc = s.loc ∧ v.sys = s.sys ∧ v.peers = s.peers ∧ v.cores = s.cores)

/-- R223 to R225, R232, R260: a promotion hint puts its core at the head of its line's releaser set; a `pacq` sequence, once no
earlier one of its line is in progress and no hint of it waits, takes the line's set as its snapshot with the line as it stands at home, and asks each of
its cores; a request that reaches its core promotes that core's log entries of the line, writes back the dirty lines whose stamp is no later
than such an entry's, and is acknowledged; a sequence with every
acknowledgement gives its lanes the line; a render result reaches its registers. `promotionHint`, `pacqSnapshot`, `promoteRequest`,
`pacqComplete`, `renderResultArrival` complete. -/
def Obligations.PromotionEvents : Prop :=
  ∀ (s : State) (i p sl id : Nat) (bad : BitVec 32),
    (∀ h, s.hints[i]? = some h → linkHeld s (corePort h.1) ⟨.loc, h.2 * 128⟩ = false →
      let t := relTable s h.2
      (t.any fun e => e.pln == h.2) = true ∨ t.length < 512 → ∃ v, exec (.promotionHint i) s = .next v ∧
        v.hints = dropAt s.hints i ∧ ∃ e, (relTable v h.2).head? = some e ∧ e.pln = h.2 ∧
          (h.1 ∈ e.cores ∨ e.overflow = true) ∧ e.cores.length ≤ max 4 ((t.map fun x => x.cores.length).foldl max 0) ∧
          v = { s with hints := v.hints, releasers := v.releasers }) ∧
    (∀ q, s.pacqs[i]? = some q →
      (q.snap = false → s.pacqs.all (fun r => !(r.snap && r.pln == q.pln)) = true →
        (s.pacqs.take i).all (fun r => !(r.evict && r.pln == q.pln)) = true →
        depsDone s q.cid q.deps = true → ∀ p, p = (match crew? s q.cid with | some c => c.pair | none => 0) →
        (q.evict = false → linkHeld s (corePort p) ⟨.loc, q.pln * 128⟩ = false) →
        let t := if q.evict then s else settleLine s p q.pln
        t.hintQ.all (fun h => h.2 != q.pln) = true →
        let set := match (relTable t q.pln).find? fun e => e.pln == q.pln with
          | some e => if e.overflow then List.range 192 else e.cores
          | none => []
        ∃ v, exec (.pacqSnapshot i) s = .next v ∧
          v.pacqs = (t.pacqs.map fun r => if r.id = q.id
            then { r with snap := true, acks := set, img := homeLine t q.pln } else r) ∧
          v.requests = t.requests ++ set.map (fun k => (q.id, k)) ∧
          (q.evict = false → (relTable v q.pln).all (fun e => e.pln != q.pln) = true) ∧
          (q.evict = true → ∀ e ∈ relTable v q.pln, e.pln = q.pln → e.cores = [] ∧ e.overflow = false) ∧
          v = { t with pacqs := v.pacqs, requests := v.requests, releasers := v.releasers }) ∧
      (q.snap = true → q.acks = [] → q.evict = false → ∀ c, crew? s q.cid = some c → ∀ f, c.futs.find? (fun f => f.id == q.fut) = some f →
        ∀ n x left r k, f.kind = .pacq n x left → f.dest = .v r k → r + k ≤ 127 →
        let got := (loadElems n q.lanes).map fun e =>
          (e.1, leNat ((List.range (min n 8)).map fun k => lineByte q.img ((e.2.pa.a + k) % 128)))
        let value (j l : Nat) : Word :=
          let e := kgetD got (2 * l + j) 0
          if n = 16 then BitVec.ofNat 64 e else if x then BitVec.ofInt 64 (toS (8 * n) e) else BitVec.ofNat 64 e
        let lost := badLanes s c.pair .device n q.lanes bad
        ∃ v, exec (.pacqComplete i bad) s = .next v ∧ v.pacqs = dropAt s.pacqs i ∧
          (∀ la ∈ q.lanes, la.lane < 32 → inMask bad la.lane = true ∨ badAt s la.pa = true → inMask lost la.lane = true) ∧
          ∃ d, crew? v q.cid = some d ∧ Fills c d r k (maskOf (q.lanes.map fun l => l.lane)) value lost ∧
          ((∀ l ∈ left, l.pa.a / 128 = q.pln) → d.futs = c.futs.filter (fun g => g.id != f.id)))) ∧
    (∀ x, s.requests[i]? = some x → ∀ q, s.pacqs.find? (fun q => q.id == x.1) = some q →
      linkHeld s (corePort x.2) ⟨.loc, q.pln * 128⟩ = false → releasing s x.2 (· == q.pln) = false →
      let old := coreAt s x.2
      let goes (l : Line) : Bool := l.dirty != 0 && old.plog.any fun e => !e.pro && e.pln == q.pln && decide (l.stamp ≤ e.stmp)
      let sent (l : Line) (a : Nat) : Bool := goes l && a / 128 == l.pln && l.dirty.getLsbD (a % 128)
      wbHeld s x.2 goes = false →
      ∃ v, exec (.promoteRequest i) s = .next v ∧ v.requests = dropAt s.requests i ∧
        (∀ e ∈ (coreAt v x.2).plog, e.pln = q.pln → e.pro = true) ∧
        (∀ l ∈ (coreAt v x.2).l1, goes l = false) ∧
        (s.loc.wf = true → PlainHomes s → OneLineEach s x.2 →
          (∀ l ∈ old.l1, ∀ a, sent l a = true → v.loc.read a = l.data.extractLsb' (8 * (a % 128)) 8) ∧
          (∀ a, (∀ l ∈ old.l1, sent l a = false) → v.loc.read a = s.loc.read a) ∧ v.sys = s.sys ∧ v.peers = s.peers) ∧
        (∀ r ∈ v.pacqs, r.id = x.1 → x.2 ∉ r.acks)) ∧
    (∀ c f, FindsFut s p sl id c f → ∀ act job, f.kind = .render act job → ∀ r k, f.dest = .v r k → r + k ≤ 127 →
      depsDone s c.cid f.deps = true → job.places.any (laneHeld s c.pair .block job.size) = false → jobGridHeld s c job = false →
      let lost := badLanes s c.pair .block job.size job.places bad ||| maskOf ((job.heads.filter (headLost s c.pair)).map fun l => l.lane)
      let failed := (job.places ++ job.heads).filter fun l => inMask lost l.lane
      let t := countUncorr s (failed.map fun l => l.pa)
      let poison := maskOf (failed.map fun l => l.lane)
      ∃ v, exec (.renderResultArrival p sl id bad) s = .next v ∧ ∃ d, crew? v c.cid = some d ∧
        Fills c d r k act (jobValues t c act job).1 poison ∧
        d = { c with v := d.v, poison := d.poison, futs := c.futs.filter fun g => g.id != id })

/-- The operand queue of a pair without its head. -/
def Sys2Proof.headGone (s : State) (p : Nat) : Core := { coreAt s p with opq := (coreAt s p).opq.drop 1 }

/-- R92, R150, R151, R153, R159 to R161, R163, R165, R169, R170, R296: the command at the head of a pair's operand queue is
executed: a tile is zeroed, `MCFG` written, weights loaded into the window, products added to a tile one stripe of 32 at a time
in ascending k, a result row pushed where there is room, a feed item stored; a command that fails a check is recorded with its
sub-code and takes its crew's younger commands with it, inference requests and `MCFG` writes among them, and a joint one whole (logs 17
and 66). It runs once the inference requests before it have, and neither its die's module nor power capping holds it (R160, R393, R394;
that the module between an engine and its core is 16 more than the die is log 44's choice). A word of `mzero` with a reserved bit is
sub-code 3 (log 54). `engineCommandComplete` completes. -/
def Obligations.EngineCommandEvents : Prop :=
  ∀ (s : State) (p : Nat),
    let core := coreAt s p
    MemoriesCanonical s → engineHeld s p = false → core.infq = [] →
    ∀ k rest, core.opq = k :: rest →
      (∀ cid t w c, k = .mzero cid t w → crew? s cid = some c → t < 32 →
        (w.toNat < 2 → ∃ v, exec (.engineCommandComplete p) s = .next v ∧ coreAt v p = headGone s p ∧
          ∃ d, crew? v cid = some d ∧ d.tiles.getD t [(0, 1)] = [] ∧ d.ft.getLsbD t = decide (w.toNat = 1) ∧
            (∀ u : Fin 32, u.val ≠ t → d.tiles.get u = c.tiles.get u ∧ d.ft.getLsbD u.val = c.ft.getLsbD u.val) ∧
            d = { c with tiles := d.tiles, ft := d.ft }) ∧
        (2 ≤ w.toNat → ∃ v, exec (.engineCommandComplete p) s = .next v ∧
          (coreAt v p).opq = rest.filter (fun x => !x.cids.contains cid) ∧ ∃ d, crew? v cid = some d ∧
            (∃ e, d.imprec = c.imprec ++ [e] ∧ e.cause = .matf ∧ e.info = 3 + 256 + 4096) ∧
            d.futs = c.futs.filter (fun f => !rest.contains (.nrq cid f.id)) ∧
              d = { c with imprec := d.imprec, futs := d.futs })) ∧
      (∀ cid, k = .gang cid → exec (.engineCommandComplete p) s = .next { s with
        cores := kset s.cores p { core with opq := rest } }) ∧
      (∀ cid x, k = .mcfg cid x → exec (.engineCommandComplete p) s = .next { s with
        cores := kset s.cores p { core with opq := rest, mcfg := x, rsOn := core.rsOn && x != 0 } }) ∧
      (∀ cid x y c, k = .mldw cid x y → crew? s cid = some c →
        let wo := x.toNat % 2 ^ 29
        let len := x.toNat / 2 ^ 32
        let off := y.toNat
        x.toNat / 2 ^ 29 % 8 = 0 → off < 2 ^ 21 → len ≠ 0 → len ≤ 0x200000 → wo % 64 = 0 → off % 64 = 0 → len % 64 = 0 →
        off + len ≤ (windowOf s c).2 → wo + len ≤ 0x20000000 → ∃ v, exec (.engineCommandComplete p) s = .next v ∧
          (coreAt v p).opq = rest ∧
          (∀ i, i < len → (coreAt v p).tstore.read ((windowOf s c).1 + off + i) = (kgetD s.weights (p / 48) []).read (wo + i)) ∧
          (∀ a, a < 0x200000 → (a < (windowOf s c).1 + off ∨ (windowOf s c).1 + off + len ≤ a) →
            (coreAt v p).tstore.read a = core.tstore.read a) ∧ v.cur = s.cur) ∧
      (∀ kind sh t ops ver cid c, k = .arith kind sh [(cid, t, ver)] ops cid → crew? s cid = some c → sh < 27 → t < 32 →
        ∀ as bs sparse, operands s c kind (Fin.ofNat 27 sh) ops 1 = .inr (as, bs, sparse) →
        c.ftOf t = isInts s c (as ++ bs) →
        let M := shM (Fin.ofNat 27 sh)
        let N := shN (Fin.ofNat 27 sh)
        let size := if kind < 3 then 1 else 2
        let sum (i j : Nat) : Nat :=
          if c.ftOf t then (accInts (c.tile t (64 * i + j), false)
            (((as.getD i []).map fun r => stripeInts s c r none).zip ((bs.getD j []).map fun r => stripeInts s c r sparse))).1
          else accStripes ver (c.tile t (64 * i + j))
            (((as.getD i []).map fun r => stripeVals s c r size none).zip
              ((bs.getD j []).map fun r => stripeVals s c r size sparse))
        ∃ v, exec (.engineCommandComplete p) s = .next v ∧ coreAt v p = headGone s p ∧ ∃ d, crew? v cid = some d ∧
          (∀ i, i < 64 → ∀ j, j < 64 → d.tile t (64 * i + j) =
            if i < M ∧ j < N then sum i j else c.tile t (64 * i + j)) ∧
          (∀ u : Fin 32, u.val ≠ t → d.tiles.get u = c.tiles.get u) ∧
          d = { c with tiles := d.tiles, nsf := d.nsf }) ∧
      (∀ cid t q sh item c, k = .mrow cid t q sh item → crew? s cid = some c → sh < 9 → q < 8 → item < 3 →
        (core.rsOn = false → exec (.engineCommandComplete p) s = .next s) ∧
        (core.rsOn = true → isResultQ (c.qregs.getD q default) = true → c.all.all (fun f => f.park != .qbind q) = true →
          ((c.qregs.getD q default).count ≥ depthOf (c.qregs.getD q default) →
            ∃ v, exec (.engineCommandComplete p) s = .next v ∧ v = { s with tick := v.tick }) ∧
          ((c.qregs.getD q default).count < depthOf (c.qregs.getD q default) →
            ∃ v, exec (.engineCommandComplete p) s = .next v ∧ ∃ d, crew? v cid = some d ∧
              (d.qregs.getD q default).count = (c.qregs.getD q default).count + 1 ∧
              (coreAt v p).opq = if item < 2 then .mrow cid t q sh (item + 1) :: rest else rest))) ∧
      (∀ cid q item c, k = .feed cid q item none → crew? s cid = some c → q < 8 →
        tsoOf (c.qregs.getD q default) + 256 ≤ (windowOf s c).2 → p = c.pair →
        ∃ v, exec (.engineCommandComplete p) s = .next v ∧ (coreAt v p).opq = rest ∧
          (coreAt v p).tstore = core.tstore.writes ((windowOf s c).1 + tsoOf (c.qregs.getD q default)) (bytesOfLanes item) ∧
          ∃ d, crew? v cid = some d ∧
            tsoOf (d.qregs.getD q default) = (tsoOf (c.qregs.getD q default) + 256) % 2 ^ 21)

/-- R151, R166, R171, R296, R308 to R310: a request at the head of the operand queue enters the pair's list of inferences; the
result scaler powers up once `MCFG` asks for it; a feed push enters the operand queue; a request is refused by the sub-code of
the first check it fails (in log 18's order), a line that comes back uncorrectable or is known to be among them, or its network's
outputs reach its registers; nothing of the engine goes on while its die's module, link 16 more than the die (log 44), or power capping
holds it; the latch releases a joint command, with each member's
tile and `VER`, once every member has arrived, or gives them GANGF where they disagree (the numbering of arrivals is log 61's reading). `nrqDispatch`, `rsPowerUp`, `feedPush`,
`nrqComplete`, `latchRelease` complete. -/
def Obligations.EngineQueueEvents : Prop :=
  ∀ (s : State) (p b n : Nat) (bad : Bool),
    let core := coreAt s p
    (∀ k rest, core.opq = k :: rest →
      ∀ cid fut, k = .nrq cid fut → core.infq.length < 16 → exec (.nrqDispatch p) s = .next { s with
        cores := kset s.cores p { core with
          opq := rest, nrqs := core.nrqs.filter (fun r => !(r.cid == cid && r.fut == fut)),
          infq := core.infq ++ core.nrqs.filter fun r => r.cid == cid && r.fut == fut } }) ∧
    (core.mcfg = 1 → exec (.rsPowerUp p) s = .next { s with cores := kset s.cores p { core with rsOn := true } }) ∧
    (∀ f rest, core.feeds = f :: rest → f.fut = 0 → core.opq.length < 64 → exec (.feedPush p) s = .next { s with
      cores := kset s.cores p { core with feeds := rest, opq := core.opq ++ [.feed f.cid f.k f.item none] } }) ∧
    (∀ r rest c, core.infq = r :: rest → crew? s r.cid = some c → stalled s r.fut = false →
      engineHeld s p = false → (ordRel r.ord = true → releaseHeld s p r.scope = false) → behindLink s (enginePort p) (r.word.toNat % 2 ^ 57) 64 = false →
      let at_ := r.word.toNat % 2 ^ 57
      let outs := r.word.toNat / 2 ^ 57 % 16 + 1
      let fails (code : Nat) : Prop := ∃ v, exec (.nrqComplete p bad) s = .next v ∧ (coreAt v p).infq = rest ∧
        ∃ d, crew? v r.cid = some d ∧ ∃ e, d.imprec = c.imprec ++ [e] ∧ e.cause = .nrqf ∧ e.info = code ∧ e.lanes = r.act ∧
          d = { c with imprec := d.imprec, futs := c.futs.filter fun f => f.id != r.fut }
      ∀ pa perm, xlateFresh s .read at_ = .ok pa perm →
        (2 ^ 62 ≤ r.word.toNat ∨ at_ % 64 ≠ 0 → fails 1) ∧
        (r.word.toNat < 2 ^ 62 → at_ % 64 = 0 → bad = true ∨ badAt s pa = true → fails 4) ∧
        (r.word.toNat < 2 ^ 62 → at_ % 64 = 0 → bad = false → badAt s pa = false →
          let t := modCore s p fun q => { q with infq := rest }
          let t := if ordAcq r.ord then acquireAt t p r.scope else t
          let t := if pa.sp = .loc then noteRead t c.launch pa.a else t
          let bytes := (descElems t p r pa 8).1
          let nin := r.word.toNat / 2 ^ 61 % 2
          (pa.sp ≠ .loc → r.got = [] → bytes = paBytes s pa 64) ∧
          (pa.sp = .loc → ordAcq r.ord = true → r.got = [] → bytes = (List.range 64).map fun i => readAt t p r.scope (pa.a + i)) ∧
          (layersOf bytes nin = none → fails 1) ∧
          (∀ ls, layersOf bytes nin = some ls →
            let k0 := if nin = 1 then 64 else 32
            (∀ code, layersBad s c k0 outs ls = some code → fails code) ∧
            (layersBad s c k0 outs ls = none → r.vd + outs ≤ 127 →
              let row (l : Nat) : List Nat :=
                if inMask r.act l then r.inputs.flatMap fun v => subs 16 (laneAt v l) else List.replicate k0 0
              let out := runLayers s c r.ver ((List.range 32).map row) (ls.zip (layerKs k0 ls))
              ∃ v, exec (.nrqComplete p bad) s = .next v ∧ (coreAt v p).infq = rest ∧ ∃ d, crew? v r.cid = some d ∧
                Fills c d r.vd outs r.act (fun i l => pack 16 (((out.getD l []).drop (4 * i)).take 4)) 0 ∧
                d = { c with v := d.v, poison := d.poison, futs := c.futs.filter fun f => f.id != r.fut })))) ∧
    (∀ x a q, blockAt? s b = some x → x.latch.find? (fun a => a.idx == n &&
        (List.range (a.gang.toNat % 8)).all fun i => x.latch.any fun y =>
          y.idx == a.gang.toNat / 2 ^ (3 + 5 * i) % 32 && y.num == a.num) = some a → x.pair = some q →
      let members : List Nat := (List.range (a.gang.toNat % 8)).map fun i => a.gang.toNat / 2 ^ (3 + 5 * i) % 32
      let arrivals := members.filterMap fun i => x.latch.find? fun y => y.idx == i && y.num == a.num
      let crews := members.filterMap fun i => (allCrews s).find? fun c => c.block == b && c.idx == i
      members ≠ [] → members.Nodup → arrivals.length = members.length → crews.length = members.length →
      ((allCrews s).map fun c => c.cid).Nodup →
      (∀ y ∈ crews.zip arrivals, (y.1.all.map fun f => f.fid).Nodup ∧ ∃ f ∈ y.1.all, f.fid = y.2.fid ∧ f.park = .latch) →
      let left (v : State) : Prop := ∃ y, blockAt? v b = some y ∧ y.latch = x.latch.filter fun z => !arrivals.contains z
      let agree := arrivals.all fun y => y.gang == a.gang && y.kind == a.kind && y.shape == a.shape
      (agree = true → (coreAt s q).opq.length < 64 → ∃ v, exec (.latchRelease b n) s = .next v ∧
        (∃ k, (coreAt v q).opq = (coreAt s q).opq ++ [k] ∧
          k = .arith a.kind a.shape ((crews.map fun c => c.cid).zip (arrivals.map fun y => (y.td, y.ver)))
            ((arrivals.headD default).ops) ((crews.map fun c => c.cid).headD 0)) ∧ left v ∧
        (∀ y ∈ crews.zip arrivals, ∃ d, crew? v y.1.cid = some d ∧ d.joint = y.1.joint + 1 ∧
          (∀ f ∈ d.all, f.fid = y.2.fid → f.park = .none) ∧ d.c = y.1.c ∧ d.v = y.1.v ∧ d.tiles = y.1.tiles)) ∧
      (agree = false → ∃ v, exec (.latchRelease b n) s = .next v ∧ (coreAt v q).opq = (coreAt s q).opq ∧ left v ∧
        ∀ y ∈ crews.zip arrivals, ∃ d, crew? v y.1.cid = some d ∧ d.joint = y.1.joint ∧
          ∃ f ∈ d.all, f.fid = y.2.fid ∧ f.park = .failed .gangf 0 0 0))

/-- R219, R300 to R305: a running copy whose pages are mapped leaves at its destination, local memory among them, what its source held (of
local memory without an acquire, what the home or the core holds), as a peer's write path alters it, and goes: with `CRC` its chain's sum
is folded over the bytes written, and a `FIN` whose sum is another is COPYF with sub-code 4 and that sum, and with `BEN` the bytes leave
the pending count of a barrier of its scratchpad; one that
meets an absent page waits for it; a reserved field is COPYF with nothing written; a member of a chain starts once the members
before it have gone; a tensor copy's stripe and descriptor stand in its window. `copyComplete`, `tcpyComplete`,
`copyChainMemberStart` complete. -/
def Obligations.CopyEvents : Prop :=
  ∀ (s : State) (id : Nat), MemoriesCanonical s →
    (∀ x, runningCopy s id false = some x →
      let dw := x.words.getD 0 0
      let sw := x.words.getD 1 0
      let w := x.words.getD 2 0
      let n := w.toNat % 2 ^ 25
      let src := endPieces s x .read sw n
      let dst := endPieces s x .write dw n
      let from_ := endBytes src
      let dest := endBytes dst
      let legal := x.pre = none ∧ copyRsvd x.words = false ∧ endOut s x sw n = false ∧ endOut s x dw n = false
      let mapped (ps : List EndPiece) : Bool := ps.all fun e => match e.at_ with | .ok .. => true | _ => false
      let bw := x.words.getD 3 0
      let ben := bw.getLsbD 59
      let gives (i : Nat) (b : Byte) : Prop := match kget x.got i with
        | some g => b = g
        | none =>
          let p := from_.getD i default
          if p.sp ≠ .loc then b = paRead s p
          else if ordAcq x.ord then b = readAt (acquireAt s x.pair x.scope) x.pair x.scope p.a
          else b = homeRead s p.a ∨ b = readAt s x.pair .device p.a
      (∀ flip, legal → mapped (src ++ dst) = true → endHeld s x (src ++ dst) = false → copyReleaseHeld s x = false →
        dest.any (claimMoves s x.launch) = false → x.put = [] → InPlace s x.launch → from_.all (fun a => !badAt s a) = true →
        ((from_ ++ dest).any (fun a => a.sp == .loc) = true → PlainHomes s) →
        (∀ a ∈ dest, a.sp = .loc → a.a < locSize) → dest.Nodup → dest.all (fun a => !from_.contains a) = true →
        (ben = false ∨ ∃ m a, engBar s x.block bw = some ⟨.spad m, a⟩ ∧ ∀ k, k < 16 → ⟨.spad m, a + k⟩ ∉ dest) →
        ∃ (v : State) (bs : List Byte), exec (.copyComplete id false flip) s = .next v ∧ bs.length = n ∧
          (∀ i, i < n → let place := dest.getD i default
            let put := match place.sp with | .peer _ => bs.getD i 0 ^^^ kgetD flip i 0 | _ => bs.getD i 0
            gives i (bs.getD i 0) ∧ (place.sp = .loc → ordRel x.ord = false → v.loc.read place.a = put) ∧ (place.sp ≠ .loc → paRead v place = put)) ∧
          let written := (dest.zip (bs.zipIdx)).map fun y => match y.1.sp with
            | .peer _ => y.2.1 ^^^ kgetD flip y.2.2 0
            | _ => y.2.1
          let crc := if crcOf w then crcBytes x.crc written else x.crc
          let sum := (crc ^^^ 0xFFFFFFFF).toNat
          (crcOf w = true → finOf w = true → sum ≠ expOf w → v.copies.all (fun y => y.id != id) = true ∧
            ∀ c, crew? s x.cid = some c → ∃ d, crew? v x.cid = some d ∧ ∃ e, d.imprec = c.imprec ++ [e] ∧
              e.cause = .copyf ∧ e.info = 4 + 256 * x.sub + 2 ^ 32 * sum) ∧
          (crcOf w = false ∨ finOf w = false ∨ sum = expOf w →
            v.copies = (s.copies.filter fun y => y.id != id).map (fun y => if y.after.contains id then
              { y with after := y.after.filter (fun j => j != id), crc := crc } else y) ∧
            ∀ c, crew? s x.cid = some c → c.chainSeq.contains id = true → ∃ d, crew? v x.cid = some d ∧
              d.chain = c.chain.map (fun _ => crc)) ∧
          (∀ m a, ben = true → engBar s x.block bw = some ⟨.spad m, a⟩ → (blockAt? s m).isSome = true →
            let o := barAt s x.pair ⟨.spad m, a⟩
            n < o.pb → barAt v x.pair ⟨.spad m, a⟩ = { o with pb := o.pb - n }) ∧
          ((from_ ++ dest).all (fun a => a.sp != .loc) = true → x.ord = 0 → v.loc = s.loc ∧ v.launches = s.launches)) ∧
      (legal → (src ++ dst).all (fun e => e.at_ != .denied) = true →
        (src ++ dst).any (fun e => match e.at_ with | .absent .. => true | _ => false) = true →
        ∃ v, exec (.copyComplete id false []) s = .next v ∧ v = { s with copies := v.copies } ∧
          v.copies.map (fun y => y.id) = s.copies.map (fun y => y.id) ∧
          ∀ y ∈ v.copies, y.id = id → y.waits ≠ []) ∧
      (x.pre = none → copyRsvd x.words = true → endOut s x sw n = false → endOut s x dw n = false → 2 ^ 25 > n ∧ n ≤ 2 ^ 24 →
        (src ++ dst).all (fun e => e.at_ != .denied) = true → ∀ c, crew? s x.cid = some c →
        ∃ v, exec (.copyComplete id false []) s = .next v ∧ v.loc = s.loc ∧ v.sys = s.sys ∧ v.peers = s.peers ∧
          v.copies.all (fun y => y.id != id) = true ∧ ∃ d, crew? v x.cid = some d ∧ ∃ e, d.imprec = c.imprec ++ [e] ∧
            e.cause = .copyf ∧ e.info = 3 + 256 * x.sub)) ∧
    (∃ v, exec (.copyChainMemberStart id) s = .next v ∧ v = { s with copies := v.copies } ∧
      v.copies.length = s.copies.length ∧
      ∀ i, i < s.copies.length → ∃ x, s.copies[i]? = some x ∧ ∃ y, v.copies[i]? = some y ∧
        y = { x with started := x.started || (x.id == id && x.after.isEmpty) }) ∧
    (∀ x, runningCopy s id true = some x → ∀ b, blockAt? s x.block = some b → ∀ y, tcpyStripes x.words = [y] →
      let t := (x.words.getD 2 0).toNat / 2 ^ 40 % 256
      let z := if t = 0x21 ∨ t = 0x22 then 64 else 32
      let at_ := (x.words.getD 1 0).toNat % 2 ^ 57
      (x.words.getD 1 0).toNat / 2 ^ 57 = 1 → tcpyRsvd x.words = false → x.pre = none → y.scale = none → x.ord = 0 →
      x.got = [] → x.put = [] → s.dev.retraining.contains (16 + x.pair / 48) = false →
      (x.words.getD 3 0).getLsbD 59 = false → at_ + z ≤ b.scratchSize → y.data + z ≤ b.winSize → y.desc + 2 ≤ b.winSize →
      (y.data + z ≤ y.desc ∨ y.desc + 2 ≤ y.data) →
      ∃ v, exec (.tcpyComplete id false) s = .next v ∧
        (coreAt v x.pair).tstore.bytes (b.winBase + y.data) z = b.scratch.bytes at_ z ∧
        (coreAt v x.pair).tstore.bytes (b.winBase + y.desc) 2 = [0x7F, BitVec.ofNat 8 t] ∧
        v.copies.all (fun c => c.id != id) = true ∧ v.loc = s.loc ∧ v.sys = s.sys ∧ v.peers = s.peers)

/-- R213, R371, R374 to R376, R378, R380: an operation that reaches its barrier's site counts there: an arrival takes as its
token the phase it falls in and completes the phase with the expected count; expected bytes hold a phase open; an arrival at a
global barrier joins its die's open entry of the line, or opens one; an entry's arrivals count together after 32 cycles; a
withdrawal takes its arrival back before its phase has passed; a poll of a counter that has reached its target ends the wait.
`barrierOperation`, `barrierCombinerSend`, `barrierWithdrawal`, `waitPoll` complete. -/
def Obligations.BarrierEvents : Prop :=
  ∀ (s : State) (i d cid fid : Nat), MemoriesCanonical s →
    (∀ o, s.barOps[i]? = some o → depsDone s o.cid o.deps = true → barInOrder s o = true →
      linkHeld s (corePort o.pair) o.at_ = false → stalled s o.id = false → claimMoves s o.launch o.at_ = false →
      (o.kind = 0 → releaseHeld s o.pair (objScope o.at_) = false) →
      (o.at_.sp = .loc → o.kind = 0 → ∃ v, exec (.barrierOperation i) s = .next v ∧ v.barOps = dropAt s.barOps i ∧
        v.combiner = if s.combiner.any (fun e => e.die == o.pair / 48 && e.line == o.at_.a / 128) then
            s.combiner.map fun e => if e.die == o.pair / 48 && e.line == o.at_.a / 128 then { e with ops := e.ops ++ [o] } else e
          else if (s.combiner.filter fun e => e.die == o.pair / 48).length < 16 then
            s.combiner ++ [⟨o.pair / 48, o.at_.a / 128, 0, [o]⟩] else s.combiner) ∧
      ∀ m x, o.at_.sp = .spad m → blockAt? s m = some x → o.at_.a % 16 = 0 →
      let b := barAt s o.pair o.at_
      let e := expected s o.at_ b
      (o.kind = 0 → b.pb = 0 → b.arv + 1 < 2 ^ 16 → ∃ v, exec (.barrierOperation i) s = .next v ∧
        v.barOps = dropAt s.barOps i ∧
        barAt v o.pair o.at_ =
          { b with phs := (b.phs + (b.arv + 1) / e) % 2 ^ 32, arv := (b.arv + 1) % e } ∧
        (∀ c, crew? s o.cid = some c → o.fut = none → ∃ k, crew? v o.cid = some k ∧
          k = c.mapFrags fun f => if f.park == .barArr o.id
            then { f with park := .barTok o.at_ ((b.phs + b.arv / e) % 2 ^ 32) } else f) ∧
        (∀ c, crew? s o.cid = some c → ∀ j f r, o.fut = some j → c.futs.find? (fun f => f.id == j) = some f →
          f.dest = .c r 1 → r < 63 → ∃ k, crew? v o.cid = some k ∧
            k = { c with c := c.c.setIfInBounds r (BitVec.ofNat 64 ((b.phs + b.arv / e) % 2 ^ 32)),
                         futs := c.futs.filter fun f => f.id != j }) ∧
        v.loc = s.loc) ∧
      (o.kind = 1 → o.arg < 2 ^ 35 → b.pb + o.arg < 2 ^ 36 → b.pb + o.arg ≠ 0 → ∃ v, exec (.barrierOperation i) s = .next v ∧
        v.barOps = dropAt s.barOps i ∧ barAt v o.pair o.at_ = { b with pb := b.pb + o.arg } ∧ v.loc = s.loc ∧ v.cur = s.cur)) ∧
    (∀ e, (s.combiner.filter fun e => e.die == d)[i]? = some e →
      (e.age < 32 → exec (.barrierCombinerSend d i) s = .next s) ∧
      (32 ≤ e.age → linkHeld s (.v d) ⟨.loc, e.line * 128⟩ = false → ∃ v, exec (.barrierCombinerSend d i) s = .next v ∧
        v.combiner = s.combiner.filter (fun x => !(x.die == d && x.line == e.line)) ∧
        (∀ o rest, e.ops = o :: rest → (∀ y ∈ e.ops, y.kind = 0 ∧ y.at_ = o.at_) → o.at_.sp = .loc → o.at_.a % 16 = 0 →
          let b := barAt s o.pair o.at_
          let x := if b.exc = 0 then 1 else b.exc
          let n := b.arv + e.ops.length
          b.pb = 0 → n < 2 ^ 16 → s.xl.ckdm0 = 0 → s.xl.ckdm1 = 0 → s.dev.ulEn = false →
          (∀ k, k < 16 → redirect v (o.at_.a + k) < locSize) →
          barAt v o.pair o.at_ = { b with phs := (b.phs + n / x) % 2 ^ 32, arv := n % x }))) ∧
    (∀ x, s.withdrawals[i]? = some x → ∀ t, (focusCid s x.1).bind (fun t => focusFrag t x.2) = some t →
      ∀ at_ k, t.cur.fr.park = .barTok at_ k →
      (s.combiner.any fun e => e.ops.any fun o => o.kind == 2 && o.cid == x.1 && o.fid == x.2) = false →
      (at_.sp = .loc → (s.combiner.filter fun e => e.die == t.cur.pair / 48).length < 16 →
        ∃ v, exec (.barrierWithdrawal i) s = .next v ∧ v.withdrawals = dropAt s.withdrawals i ∧ v.cur = s.cur ∧ v.loc = s.loc ∧
          ∃ o, (o.kind = 2 ∧ o.cid = x.1 ∧ o.fid = x.2 ∧ o.at_ = at_) ∧ ∃ e ∈ v.combiner,
            e.die = t.cur.pair / 48 ∧ e.line = at_.a / 128 ∧ o ∈ e.ops) ∧
      ∀ m y, at_.sp = .spad m → blockAt? s m = some y → at_.a % 16 = 0 →
      let b := barAt s t.cur.pair at_
      (b.passed k = true → ∃ v, exec (.barrierWithdrawal i) s = .next v ∧
        v.cur = { t.cur with fr := { unparked t.cur.fr with stamp := v.cur.fr.stamp } } ∧
        v.withdrawals = dropAt s.withdrawals i ∧ v.blocks = s.blocks) ∧
      (b.passed k = false → b.pb ≠ 0 → 1 ≤ b.arv → ∃ v, exec (.barrierWithdrawal i) s = .next v ∧
        v.withdrawals = dropAt s.withdrawals i ∧ barAt v t.cur.pair at_ = { b with arv := b.arv - 1 } ∧
        v.cur = { t.cur with fr := { t.cur.fr with park := .none, stamp := v.cur.fr.stamp } })) ∧
    (focusCid s cid = none → exec (.waitPoll cid fid) s = .next { s with
      saved := s.saved.map fun k => if k.cid = cid then wakeSaved s k else k }) ∧
    (∀ t, (focusCid s cid).bind (fun t => focusFrag t fid) = some t →
      ∀ at_ va target ext since, t.cur.fr.park = .wait at_ va target ext since →
      let far := (BitVec.ofNat 64 (counterAt t t.cur.pair at_) - target).toNat
      (s.now < since + 1400 ∨ 2 ^ 63 ≤ far → ∃ v, exec (.waitPoll cid fid) s = .next v ∧
        (v = s ∨ v = t)) ∧
      (since + 1400 ≤ s.now → far < 2 ^ 63 → linkHeld s (corePort t.cur.pair) at_ = false → ∃ v,
        exec (.waitPoll cid fid) s = .next v ∧
        v.cur = { t.cur with fr := { unparked t.cur.fr with stamp := v.cur.fr.stamp } } ∧ v.loc = s.loc ∧ v.sys = s.sys))

/-- A state with nothing but its H-die region state changed. -/
def Sys2Proof.OnlyRegions (s v : State) : Prop :=
  v = { s with cur := v.cur, crews := v.crews, saved := v.saved, rg := v.rg }

/-- Crews of a region that is stopped are owed a PREEMPT; those of one that is not, and in no handler, are owed none (R33, R35). -/
def Sys2Proof.Owed (v : State) : Prop :=
  ∀ c ∈ v.crews, (crewStopped v c.region = true → c.preDue.isSome = true) ∧
    (crewStopped v c.region = false → c.cst.lvl = .none → c.cst.ppre = false → c.preDue = none)

/-- R279 to R283, R285 to R287, R291, R354, R355, R357, R358, R368: a running ring takes the next record with the entry number
its place asks for, once its region's share of the pool has room, refuses a malformed one with its status, stops at one it cannot
read, and reports an overrun; `RCFG` turns a ring on and off; an accepted pulse counts, and gives every gated ring a credit; a
launch moves to the pool, starts in its turn with a group of its own, a replayed one with the parameters it had, completes with its counter advanced; a group commits its
shadows; a committed shadow is copied back and its frame returned. `ringConsume`, `ringEnable`, `ringDisable`, `ringResume`,
`beaconPulse`, `launchTransfer`, `launchStart`, `launchComplete`, `groupCommit`, `shadowCopyBack` complete. -/
def Obligations.RingAndLaunchEvents : Prop :=
  ∀ (s : State) (n p id g d i : Nat) (x : BitVec 64), MemoriesCanonical s →
    let r := s.rings.getD n Ring.zero
    let size := 2 ^ r.log
    let waiting := (r.wptr + 2 ^ 32 - r.rptr) % 2 ^ 32
    let at_ := r.rbase + 64 * (r.rptr % size)
    let stops (st : Nat) (name : String) (args : List Nat) : Prop := ∃ v, exec (.ringConsume n false) s = .next v ∧
      v.rings.getD n Ring.zero = { r with st := st, lgood := (r.rptr + 2 ^ 32 - 1) % 2 ^ 32 } ∧
      v.reports = s.reports ++ [{ name := name, args := args }] ∧ v.launches = s.launches
    (n < 64 → r.en = true → r.st = 1 → s.dev.mode = .service → s.dev.wsBsy = false → waiting ≠ 0 →
      stalled s (2 ^ 64 + n) = false →
      (size < waiting → stops 2 "QOVR" [n]) ∧
      (waiting ≤ size → xlateFresh s .read at_ = .denied → stops 3 "RING" [n, at_, 2]) ∧
      (waiting ≤ size → ∀ pa perm, xlateFresh s .read at_ = .ok pa perm → linkHeld s .h pa = false → badAt s pa = false →
        let rec_ := LRec.ofBytes (paBytes s pa 64)
        let number := r.rptr / size % 65535 + 1
        (rec_.tag = 0 → exec (.ringConsume n false) s = .next s) ∧
        (rec_.tag ≠ 0 → rec_.tag ≠ number → stops 2 "QOVR" [n]) ∧
        (rec_.tag = number → (r.gate = true → r.credits ≠ 0) → ∀ q, effRegion? s rec_.regn = some q →
          rec_.bad false true = none → kgetD s.rg.share q.instL 0 < q.psh → ∃ v, exec (.ringConsume n false) s = .next v ∧
            v.rings.getD n Ring.zero = { r with
              rptr := (r.rptr + 1) % 2 ^ 32, credits := if r.gate && rec_.frm then r.credits - 1 else r.credits } ∧
            (∃ l, v.launches.getLast? = some l ∧ l.lr = rec_ ∧ l.depth = 0 ∧ l.ring = some n ∧ l.st = .pool ∧
              l.deadline = (if rec_.dln = 0 then none else some (s.ctr.bpc.toNat + rec_.dln))) ∧
            v.launches.length = s.launches.length + 1 ∧
            kgetD v.rg.share q.instL 0 = kgetD s.rg.share q.instL 0 + 1) ∧
        (rec_.tag = number → (r.gate = true → r.credits ≠ 0) → rec_.cca = 0 →
          (∀ q, effRegion? s rec_.regn = some q → kgetD s.rg.share q.instL 0 < q.psh) →
          ∀ code, rec_.bad false (effRegion? s rec_.regn).isSome = some code → ∃ v, exec (.ringConsume n false) s = .next v ∧
            v.rings.getD n Ring.zero = { r with
              rptr := (r.rptr + 1) % 2 ^ 32, credits := if r.gate && rec_.frm then r.credits - 1 else r.credits } ∧
            v.reports = s.reports ++ [{ name := "LAUNCH", args := [code, n, rec_.regn] }] ∧ v.launches = s.launches))) ∧
    (n < 64 → s.dev.mode = .service →
      (x.getLsbD 5 = true → r.en = false → ∃ v, exec (.ringEnable n x) s = .next v ∧
        v.rings.getD n Ring.zero = { r with
          log2n := x.toNat % 32, gate := x.getLsbD 6, en := true, st := 1, credits := 0 } ∧
        v = { s with rings := v.rings }) ∧
      (x.getLsbD 5 = false → r.en = true → ∃ v, exec (.ringDisable n x) s = .next v ∧
        v.rings.getD n Ring.zero = { r with gate := x.getLsbD 6, en := false, st := 3 } ∧ v = { s with rings := v.rings })) ∧
    (n < 64 → r.en = true → r.st = 2 ∨ r.st = 3 → ∃ v, exec (.ringResume n) s = .next v ∧
      v.rings.getD n Ring.zero = { r with st := 1 } ∧ v = { s with rings := v.rings }) ∧
    (s.ctr.bEn = true →
      (∀ k, s.ctr.bAge = some k → k < 1400000 → exec .beaconPulse s = .next { s with
        ctr := { s.ctr with bglt := min (2 ^ 32 - 1) (s.ctr.bglt + 1) } }) ∧
      ((∀ k, s.ctr.bAge = some k → 1400000 ≤ k) → ∃ v, exec .beaconPulse s = .next v ∧ v.ctr.bpc = s.ctr.bpc + 1 ∧
        v.ctr.bAge = some 0 ∧
        (∀ k, k < 64 → v.rings.getD k Ring.zero = { s.rings.getD k Ring.zero with
          credits := if (s.rings.getD k Ring.zero).gate && (s.rings.getD k Ring.zero).en &&
            decide ((s.rings.getD k Ring.zero).credits < 15) then (s.rings.getD k Ring.zero).credits + 1
            else (s.rings.getD k Ring.zero).credits }) ∧
        (∀ q ∈ s.rg.eff, q.bref = true → q.instS = q.num → (s.rg.eff.map fun y => y.num).Nodup →
          kget v.rg.budget q.num = some (q.budg * 65536 : Int)))) ∧
    (∀ l rest, (coreAt s p).pendingLaunch = l :: rest → queueWaits s p = [] → ∀ y, launchAt? s l = some y →
      ∃ v, exec (.launchTransfer p) s = .next v ∧ (coreAt v p).pendingLaunch = rest ∧
        launchAt? v l = some { y with st := .pool, entered := s.now } ∧ v = { s with cores := v.cores, launches := v.launches }) ∧
    (∀ l, launchAt? s id = some l →
      (startTurn s l = true → l.lr.render = false → paramWaits s l = false → ∃ v, exec (.launchStart id) s = .next v ∧
        (∃ y, launchAt? v id = some y ∧ y.st = .running ∧ y.group = id ∧ y.lr = l.lr ∧ y.placed = l.placed ∧
          (l.again = true → y.params = l.params) ∧
          (s.xl.shadows.all (fun e => e.committed) = true →
            y.irrev = ((regionAt? s l.lr.regn).elim true fun q => decide (q.shp = 0)))) ∧
        (v.xl.groups.any fun q => q.gid == id) = true ∧ v.cur = s.cur ∧
        (s.xl.shadows.all (fun e => e.committed) = true → l.again = false → v.loc = s.loc ∧ v.sys = s.sys)) ∧
      (l.failed = true ∨ (launchDone s l = true ∧ l.irrev = true ∧ depsMet s l = true) → counterWaits s l.lr.cca = false →
        linesHeld s (fun _ => true) = false →
        let t := releaseAll s
        ∃ v, exec (.launchComplete id false) s = .next v ∧ v.launches.all (fun y => y.lid != id) = true ∧
          ∀ pa perm, l.lr.cca ≠ 0 → xlateFresh t .write l.lr.cca = .ok pa perm → pa.sp = .sys →
            paNat v pa 8 = (paNat t pa 8 + 1) % 2 ^ 64)) ∧
    (∀ q, groupAt? s g = some q → q.irrev = false →
      let members := s.launches.filter fun l => l.group == g && !l.failed
      members ≠ [] → members.all (launchDone s) = true → q.deps.all (depMet s) = true →
      (members.any fun l => counterWaits s l.lr.cca) = false → linesHeld s (fun _ => true) = false → groupHeld s g = false →
      ∃ v, exec (.groupCommit g) s = .next v ∧ (∀ l ∈ members, launchAt? v l.lid = none) ∧
        (∀ e ∈ v.xl.shadows, e.group = g → e.committed = true)) ∧
    (∀ e, (s.xl.shadows.filter fun e => e.committed && shadowDie e.granule == d)[i]? = some e → copyBackHeld s e = false →
      let t := locCopy s e.granule e.frame
      let u := { t with xl := { t.xl with shadows := t.xl.shadows.filter fun y => y.granule != e.granule } }
      ∃ v, exec (.shadowCopyBack d i) s = .next v ∧ v.xl.shadows.all (fun y => y.granule != e.granule) = true ∧ v.cur = s.cur ∧
        (streaming s = false → kget s.rg.shadowPool e.inst = none → s.dev.ulEn = false → v.sys = s.sys ∧
          ∀ k, k < 65536 → v.loc.read (e.granule + k) = s.loc.read (e.frame + k)) ∧
        (streaming s = false → ∀ q, kget s.rg.shadowPool e.inst = some q → q.moves u = false → q.top < q.cap →
          (vaBytes? u (q.desc + 0x10 + 8 * q.top) 8).isSome = true →
          kget v.rg.shadowPool e.inst = some { q with top := q.top + 1 }))

/-- R341, R344, R345, R349 to R352, R360, R361: a write of `PTRT` while nothing runs changes the root and empties every buffer;
a shootdown clears its range in the buffers at `GO` (log 31's choice) and, once the accesses translated before have been performed, the caches; a release lets
stalled accesses walk again; a refill pushes frames; a fault becomes a record, a full or old batch closes, is merged and written
to the ring where it has room, and its resolution lets the waits go, a status that is not 0 being a failure (log 29's reading); a
checkpoint switches maps and streams granule by granule
what is committed. `ptrtWrite`, `shootdownGo`, `shootdownDone`, `mmrlRelease`, `placRefill`, `faultRecord`, `batchAgeExpiry`,
`batchDeliver`, `fresResolve`, `ckctGo`, `checkpointSwitch`, `checkpointStreamAck` complete. -/
def Obligations.PageAndFaultEvents : Prop :=
  ∀ (s : State) (x : BitVec 64) (b : BitVec 32) (i : Nat) (bad : Bool), MemoriesCanonical s →
    let frame := x.toNat / 4096 % 2 ^ 40 * 4096
    let first := s.xl.sdva
    let last := s.xl.sdva + 4096 * s.xl.sdln
    let meets (e : TlbE) : Bool := decide (e.va < last) && decide (first < e.va + 2 ^ e.bits)
    let free (c : Crew) : Crew := c.mapFrags fun f => if f.park == .migrate then { f with park := .none } else f
    (s.launches.any (fun l => l.st == .running) = false → s.rings.toList.all (fun r => r.st != 1) = true →
      linesHeld s (fun _ => true) = false → ∃ v, exec (.ptrtWrite x) s = .next v ∧ v.xl.ptrt = frame ∧
        (∀ p, (coreAt v p).l1 = [] ∧ (coreAt v p).tlb = [] ∧ (coreAt v p).icache = []) ∧ (∀ t ∈ v.tlb2, t.2 = [])) ∧
    (s.launches.any (fun l => l.st == .running) = true ∨ s.rings.toList.any (fun r => r.st == 1) = true →
      exec (.ptrtWrite x) s = .next s) ∧
    (s.xl.sdBsy = false → ∃ v, exec .shootdownGo s = .next v ∧ v.xl = { s.xl with sdBsy := true, sdWaits := sdPending s } ∧
      (∀ c ∈ v.cores, c.2.tlb.all (fun e => !meets e) = true) ∧ (∀ t ∈ v.tlb2, t.2.all (fun e => !meets e) = true) ∧
      v = { s with xl := v.xl, cores := v.cores, tlb2 := v.tlb2 }) ∧
    (s.xl.sdBsy = true → (s.xl.sdWaits.any fun x => inFlight s x.1 x.2) = false →
      linesHeld s (fun l => decide (128 * l.vln < last) && decide (first < 128 * l.vln + 128)) = false → ∃ v, exec .shootdownDone s = .next v ∧ v.xl.sdBsy = false ∧
      (∀ p, (coreAt v p).tlb.all (fun e => !meets e) = true ∧
        (coreAt v p).l1.all (fun l => !(decide (128 * l.vln < last) && decide (first < 128 * l.vln + 128))) = true ∧
        (coreAt v p).icache.all (fun l => !(decide (128 * l.vln < last) && decide (first < 128 * l.vln + 128))) = true)) ∧
    (let t := { s with cur := free s.cur, crews := s.crews.map free, xl := { s.xl with
       stalls := [], freeFrames := [], plPend := [], plBsy := false } }
     exec .mmrlRelease s = .next (s.xl.plPend.foldl (fun t y => refillFrom t y.1 y.2)
        (s.xl.freeFrames.foldl (fun t y => pushFrame t y.1 y.2) t))) ∧
    (x.getLsbD 63 = true → x.toNat / 2 ^ 16 % 2 ^ 16 = 1 → ∀ r, s.rg.eff.find? (fun r => r.num == x.toNat % 1024) = some r →
      x.getLsbD 10 = false → ∀ q, kget s.rg.touchPool r.instM = some q → q.moves s = false →
      mustHold s .h (q.desc + 0x10 + 8 * q.top) 8 = false → linkHeld s .h ⟨.sys, s.xl.plal⟩ = false →
      let f := leNat (s.sys.bytes s.xl.plal 8) / 4096 % 2 ^ 40 * 4096
      (q.cap ≤ q.top → ∃ v, exec (.placRefill x) s = .next v ∧ v.xl.plErr = true ∧ kget v.rg.touchPool r.instM = some q) ∧
      (q.top < q.cap → (vaBytes? s (q.desc + 0x10 + 8 * q.top) 8).isSome = true → s.xl.plErr = false →
        ∃ v, exec (.placRefill x) s = .next v ∧ kget v.rg.touchPool r.instM = some { q with top := q.top + 1 } ∧
          (∀ pa, vaPA? s (q.desc + 0x10 + 8 * q.top) = some pa → pa.sp = .sys → q.desc % 16 = 0 →
            (vaPA? s (q.desc + 8)).all (fun d => d.sp == .sys && decide (d.a + 4 ≤ pa.a)) = true →
            leNat (v.sys.bytes pa.a 8) = f))) ∧
    (∀ f, (faultsNew s)[i]? = some f → recordCount s < 256 → ∃ v, exec (.faultRecord i) s = .next v ∧
      (s.xl.recs.length + 1 < s.xl.fbn → v.xl = { s.xl with recs := s.xl.recs ++ [f] }) ∧
      (s.xl.fbn ≤ s.xl.recs.length + 1 →
        v.xl = { s.xl with recs := [], recAge := 0, closed := s.xl.closed ++ [s.xl.recs ++ [f]] }) ∧
      v = { s with xl := v.xl }) ∧
    (65536 ≤ s.xl.recAge → s.xl.recs ≠ [] → exec .batchAgeExpiry s = .next { s with
      xl := { s.xl with recs := [], recAge := 0, closed := s.xl.closed ++ [s.xl.recs] } }) ∧
    (∀ b rest, s.xl.closed = b :: rest → ∀ f, b = [f] → ringRoom s 1 = true → linkHeld s .h ⟨.sys, s.xl.frb⟩ = false →
      ∃ v, exec .batchDeliver s = .next v ∧ v.xl.closed = rest ∧ v.xl.frpi = (s.xl.frpi + 1) % 2 ^ 32 ∧
        v.xl.nextBatch = (s.xl.nextBatch + 1) % 2 ^ 32 ∧
        v.xl.ranges = s.xl.ranges ++
          [⟨f.page, 1, f.region, 2 ^ f.kind, 1, s.xl.nextBatch, s.xl.frpi % 2 ^ s.xl.frl⟩] ∧
        v.sys.bytes (s.xl.frb + 32 * (s.xl.frpi % 2 ^ s.xl.frl)) 32 =
          leBytes 8 f.page ++ leBytes 4 1 ++ leBytes 2 f.region ++ leBytes 1 (2 ^ f.kind) ++ leBytes 1 0 ++
            leBytes 4 s.xl.nextBatch ++ leBytes 2 1 ++ leBytes 2 1 ++ leBytes 8 0 ∧
        v = { s with xl := v.xl, sys := v.sys, wrote := v.wrote }) ∧
    (∀ r, linkHeld s .h ⟨.sys, s.xl.frb⟩ = false → s.xl.ranges.filter (fun r => r.batch == b.toNat) = [r] →
      let ok := s.sys.read (s.xl.frb + 32 * r.at_ + 0x0F) == 0
      let waits (f : Frag) : Bool := match f.park with | .batch _ _ _ ls => ls.any fun l => r.has (pageOf l.2) | _ => false
      ∃ v, exec (.fresResolve b) s = .next v ∧ v.xl.ranges = s.xl.ranges.filter (fun r => r.batch != b.toNat) ∧
        ((allCrews s).all (fun c => !storeWaits [r] c) = true → s.renders = [] →
          (∀ f ∈ v.cur.all, waits f = false) ∧
          (s.cur.alive = true → waits s.cur.fr = true →
            v.cur.fr.pc = s.cur.fr.pc ∧ (ok = true → v.cur.fr.park = .none) ∧
            (ok = false → (match v.cur.fr.park with | .failed c .. => c == .pgnp | _ => false) = true)))) ∧
    (s.xl.ckBsy = false → exec .ckctGo s = .next { s with xl := if s.xl.ckErr then { s.xl with ckErr := false, ckBsy := true }
      else { s.xl with ckBsy := true, ckArmed := true } }) ∧
    (s.xl.ckArmed = true → exec .checkpointSwitch s = .next { s with
      xl := { s.xl with ckArmed := false, sel := !s.xl.sel, ckCount := 0 } }) ∧
    (s.xl.ckBsy = true → s.xl.ckArmed = false → s.xl.ckErr = false →
      (nextDirty s = none → exec (.checkpointStreamAck bad) s = .next { s with xl := { s.xl with ckBsy := false } }) ∧
      (∀ g, nextDirty s = some g → granuleHeld s g = false →
        (bad = true → exec (.checkpointStreamAck bad) s = .next { s with xl := { s.xl with ckErr := true, ckBsy := false } }) ∧
        (bad = false → ∃ v, exec (.checkpointStreamAck bad) s = .next v ∧
          (dirtyMap s (!s.xl.sel) + g / 8 < locSize → dirtyBit v (!s.xl.sel) g = false) ∧
          ((∀ i h, bitGranule s i h ≠ g → dirtyBit s (!s.xl.sel) (bitGranule s i h) = false) →
            v.xl.ckCount = (s.xl.ckCount + 1) % 2 ^ 32) ∧
          (∀ k, k < 65536 → v.sys.read (s.xl.ckdst + 65536 * g + k) = s.loc.read (committedAt s (65536 * g) + k)))))

/-- R31, R33, R35, R319, R320, R322 to R324, R381, R382: a commit reads the table and its blocks, reports the first region that
fails with its code (the codes and the region of 0x06 are log 35's reading), or gives every region its record and reloads budgets; a
request, a spent budget, a watchdog or a hold stops a region's crews, and `RES` and `REL` let them go, a PREEMPT that is owed no more
being withdrawn (log 23's reading). A watchdog begins the forced save of its instance's crews, each of which waits for it, has left
its core with reason 2, or is ended with SAVEF, which holds its M-group instance; a crew that ends under a `UEND` of 10 has its
F-group instance held, with every region of its fault domain. `commitGo`, `commitApply`, `driverPreemptRequest`, `rgrsRes`, `rgrsRel`,
`budgetDebit`, `budgetExhausted`, `wdog` complete. -/
def Obligations.RegionEvents : Prop :=
  ∀ (s : State) (r i p : Nat),
    let defined := (effRegion? s r).isSome = true
    (s.rg.bsy = false → exec .commitGo s = .next { s with rg := { s.rg with bsy := true } }) ∧
    (s.rg.bsy = true → stalled s commitStall = false → commitMoves s = false → commitHeld s = false →
      (∀ e, tableBad s none = some e → exec (.commitApply none) s = .next {
        countUncorr s (if e.2 = 1 then (commitBad s e.1).toList else []) with
        rg := { s.rg with bsy := false, err := true, code := e.2, errRegion := e.1 } }) ∧
      (tableBad s none = none → poolsMove s (resolveAll (tableBlocks s)) = false →
        let new := resolveAll (tableBlocks s)
        (∀ n, sharesBad new [] 0 = some n → exec (.commitApply none) s = .next { s with
          rg := { s.rg with bsy := false, err := true, code := 6, errRegion := n } }) ∧
        (sharesBad new [] 0 = none → ∃ v, exec (.commitApply none) s = .next v ∧
          v.rg.bsy = false ∧ v.rg.err = false ∧ v.rg.eff = new ∧ v.rg.spent = [] ∧
          v.rg.budget = (new.filter fun q => q.instS == q.num).map (fun q => (q.num, (q.budg * 65536 : Int))) ∧
          Owed v ∧ OnlyRegions s v))) ∧
    (defined →
      (∃ v, exec (.driverPreemptRequest r) s = .next v ∧ v.rg.pre.contains (r, 2) = true ∧
        (∀ x ∈ s.rg.pre, x ∈ v.rg.pre) ∧ (s.rg.pre.contains (r, 2) = false → Owed v) ∧ OnlyRegions s v) ∧
      (∃ v, exec (.rgrsRes r) s = .next v ∧ v.rg.pre = s.rg.pre.filter (fun x => x != (r, 2)) ∧ Owed v ∧ OnlyRegions s v) ∧
      (∀ q, effRegion? s r = some q → ∃ v, exec (.rgrsRel r) s = .next v ∧
        v.rg.heldM = s.rg.heldM.filter (fun k => k != q.instM) ∧ v.rg.heldF = s.rg.heldF.filter (fun k => k != q.instF) ∧
        Owed v ∧ OnlyRegions s v)) ∧
    (∀ q, s.rg.eff.find? (fun q => q.num == i) = some q → q.instS = i → q.budg ≠ 0 →
      (4096 ≤ kgetD (coreAt s p).debit i 0 → ∃ v, exec (.budgetDebit p i) s = .next v ∧
        kgetD (coreAt v p).debit i 0 = kgetD (coreAt s p).debit i 0 - 4096 ∧
        kget v.rg.budget i = some ((kget s.rg.budget i).getD 0 - 4096) ∧
        ((kget s.rg.budget i).getD 0 ≤ 4096 → v.rg.spent.contains i = true ∧ Owed v) ∧
        OnlyRegions { s with cores := v.cores } v) ∧
      (∀ left, kget s.rg.budget i = some left → left ≤ 0 → s.rg.spent.contains i = false →
        ∃ v, exec (.budgetExhausted i) s = .next v ∧ v.rg.spent = i :: s.rg.spent ∧ Owed v ∧ OnlyRegions s v) ∧
      (∀ d, (faultRegions s i).find? (fun q => q.num == i) = some d → d.wdl ≠ 0 → d.wdl * 65536 ≤ kgetD s.rg.wdc i 0 →
        (∀ c ∈ allCrews s, (faultRegions s i).all (fun q => q.num != c.region) = true) →
        ∃ v, exec (.wdog i) s = .next v ∧ kgetD v.rg.wdc i 0 = 0 ∧
          v.reports = s.reports ++ [{ name := "WDOG", args := d.fdom :: (faultRegions s i).map fun q => q.num }] ∧
          (∀ q ∈ faultRegions s i, (q.num, 2) ∈ v.rg.pre) ∧ v.loc = s.loc) ∧
      (∀ d, (faultRegions s i).find? (fun q => q.num == i) = some d → d.wdl ≠ 0 → d.wdl * 65536 ≤ kgetD s.rg.wdc i 0 →
        ((allCrews s).map fun c => c.cid).Nodup → ∃ v, exec (.wdog i) s = .next v ∧ kgetD v.rg.wdc i 0 = 0 ∧
          (∃ more, v.reports = s.reports ++
            { name := "WDOG", args := d.fdom :: (faultRegions s i).map fun q => q.num } :: more) ∧
          (∀ q ∈ faultRegions s i, (q.num, 2) ∈ v.rg.pre) ∧
          ∀ c ∈ allCrews s, ∀ q ∈ faultRegions s i, c.region = q.num → regionAt? s c.region = some q →
            (∃ k, crew? v c.cid = some k ∧ k.saving = 2 ∧ k.cst.lvl = c.cst.lvl ∧ k.c = c.c ∧ k.v = c.v) ∨
            (crew? v c.cid = none ∧ ∃ k ∈ v.saved, k.cid = c.cid ∧ k.reason = 2 ∧ k.vn = c.vn ∧ k.tn = c.tn) ∨
            (crew? v c.cid = none ∧ { name := "SAVEF", args := [c.cid, c.launch, c.region, q.fdom] } ∈ v.reports ∧
              q.instM ∈ v.rg.heldM ∧ ∀ x ∈ v.rg.eff, x.instM = q.instM → stopped v x = true))) ∧
    (∀ a q, Ready s (.trap a) → s.cur.cst.lvl ≠ .none → (launchAt? s s.cur.launch).isSome = true →
      effRegion? s s.cur.region = some q → q.uend = 2 → ∃ v, exec (.trap a) s = .next v ∧ q.instF ∈ v.rg.heldF ∧
        ∀ x ∈ v.rg.eff, x.instF = q.instF ∨ x.fdom = q.fdom → stopped v x = true)

/-- R383 to R388, R392, R393: the start sequence halts at the step that fails, the first for an image that may not run, with the
steps before it done, and restarts, comes up in service with counters at their start values and rings off, or in lightship after the third failed start; a
restart keeps memories, flash, wear and the spare table (log 38's reading); commands of the host take effect at once; the undo log is closed, or
rolled back line by line, last line first (that an attestation takes one step, that `CLS` waits for a rollback and how long an image is
are log 42's readings; the host's link is number 20 by log 44); a weight store is loaded once no launch runs; a host register keeps the bits it has; a
host or peer access through the page tables writes or reads its bytes. `start`, `startFailRestart`, `dcmdRst`, `dcmdRplc`,
`dcmdFwld`, `attestation`, `ulctEn`, `ulctCls`, `ulctRoll`, `wsctGo`, `weightStoreLoad`, `hostRegisterWrite`, `hostPeerAccess`
complete. -/
def Obligations.DeviceLifeEvents : Prop :=
  ∀ (s : State) (f : BitVec 8) (n off va : Nat) (who : Option Nat) (en : Bool) (bad : Option Nat) (x : BitVec 64)
    (data : List (BitVec 8)), MemoriesCanonical s →
    let light := s.dev.fsc = 3
    let restarted (v : State) : Prop := v.loc = s.loc ∧ v.sys = s.sys ∧ v.peers = s.peers ∧ v.weights = s.weights ∧
      v.ctr.wear = s.ctr.wear ∧ v.ctr.spare = s.ctr.spare ∧ v.ctr.thresholds = s.ctr.thresholds ∧ v.ctr.bpc = 0 ∧
      v.dev.fsc = s.dev.fsc ∧ v.crews = [] ∧ v.cur = Crew.none ∧ v.launches = [] ∧ v.blocks = [] ∧
      v.rings = State.reset.rings ∧ v.rg = State.reset.rg ∧ v.xl = State.reset.xl
    (s.dev.mode = .starting →
      let fail := if imageOk s.dev.image then f.toNat else 1
      (1 ≤ fail → fail ≤ (if s.dev.fsc = 3 then 3 else 7) → ∃ v, exec (.start f) s = .next v ∧
        (v.dev.mode = .halted ∧ v.dev.lsr = fail ∧ v.dev.fsc = min 3 (s.dev.fsc + 1) ∧ v.dev.restartDue = true) ∧
        (v.loc = s.loc ∧ v.sys = s.sys ∧ v.weights = s.weights) ∧ (5 ≤ fail → v.badLines = []) ∧
        (fail ≤ 4 → v = { s with dev := v.dev }) ∧ (fail = 5 → v = { s with dev := v.dev, badLines := [] })) ∧
      (fail = 0 → light → ∃ v, exec (.start f) s = .next v ∧ v.dev.mode = .lightship ∧ v.dev.fsc = 3 ∧ v.loc = s.loc) ∧
      (fail = 0 → ¬light → ∃ v, exec (.start f) s = .next v ∧ v.dev.mode = .service ∧ v.dev.fsc = 0 ∧ v.loc = s.loc ∧
        v.badLines = [] ∧ v.sys = s.sys ∧ v.ctr.bpc = 0 ∧ v.rings = s.rings.map fun r => { r with en := false, st := if r.en then 3 else r.st })) ∧
    (s.dev.restartDue = true → ∃ v, exec .startFailRestart s = .next v ∧ restarted v ∧ v.dev.mode = .starting) ∧
    (∃ v, exec .dcmdRst s = .next v ∧ restarted v ∧ v.dev.mode = .starting ∧ v.dev.image = s.dev.image) ∧
    exec .dcmdRplc s = .next { s with dev := { s.dev with rpl := false } } ∧
    (s.dev.retraining.contains 20 = false → ∃ v, exec (.dcmdFwld n) s = .next v ∧ restarted v ∧ v.dev.mode = .starting ∧
      v.dev.image = (if imageOk (s.sys.bytes s.dev.fwsrc (min n 0x4000000)) then s.sys.bytes s.dev.fwsrc (min n 0x4000000)
        else s.dev.image)) ∧
    (s.dev.atBsy = false → s.dev.retraining.contains 20 = false → ∃ v, exec .attestation s = .next v ∧
      v = { s with sys := v.sys, wrote := v.wrote } ∧
      v.sys.bytes s.dev.atds 8 = leBytes 4 5 ++ leBytes 4 s.dev.fwv ∧
      v.sys.bytes (s.dev.atds + 72) 64 = (List.range 64).map (fun i => s.dev.atnc.getD i 0)) ∧
    exec (.ulctEn en) s = .next { s with dev := { s.dev with ulEn := en } } ∧
    exec .ulctCls s = .next (if s.dev.ulBsy then s
      else { s with dev := { s.dev with undo := [], ulNum := (s.dev.ulNum + 1) % 2 ^ 32 } }) ∧
    (s.launches.any (fun l => l.st == .running) = true → exec .ulctRoll s = .next { s with dev := { s.dev with ulErr := true } }) ∧
    (s.launches.any (fun l => l.st == .running) = false → exec .ulctRoll s = .next { s with dev := { s.dev with ulBsy := true } }) ∧
    (s.dev.ulBsy = true →
      (s.dev.undo = [] → rollStep s = { s with dev := { s.dev with ulBsy := false, ulNum := (s.dev.ulNum + 1) % 2 ^ 32 } }) ∧
      (∀ u, s.dev.undo.getLast? = some u → outHeld s u.line = false → (rollStep s).loc.bytes u.line 128 = leBytes 128 u.image.toNat ∧
        u ∉ (rollStep s).dev.undo ∧ (rollStep s).dev.ulBsy = true)) ∧
    (s.dev.wsBsy = false → exec .wsctGo s = .next { s with dev := { s.dev with wsBsy := true } }) ∧
    (s.dev.wsBsy = true → s.launches.any (fun l => l.st == .running) = false → stalled s 0 = false →
      moving s s.dev.wssrc s.dev.wslen = false → behindLink s .h s.dev.wssrc s.dev.wslen = false →
      linkHeld s .h ⟨.weight (s.dev.wsdst / 2 ^ 32 % 4), 0⟩ = false →
      let o := s.dev.wsdst % 2 ^ 29
      let k := s.dev.wsdst / 2 ^ 32 % 4
      (s.dev.wslen = 0 → exec (.weightStoreLoad bad) s = .next { s with dev := { s.dev with wsBsy := false } }) ∧
      (∀ pa, vaPA? s s.dev.wssrc = some pa → pa.sp ≠ .weight k → badAt s pa = false → 1 ≤ s.dev.wslen → s.dev.wslen ≤ 64 → bad ≠ some 0 →
        ∃ v, exec (.weightStoreLoad bad) s = .next v ∧ v.dev.wsBsy = false ∧ (kgetD v.weights k []).read o = paRead s pa ∧
          v = { s with dev := v.dev, weights := v.weights, ctr := v.ctr })) ∧
    (s.dev.retraining.contains 20 = false →
      (s.xl.sdBsy = false → off = 0x120030 → exec (.hostRegisterWrite off x) s = .next { s with
        xl := { s.xl with sdln := x.toNat % 2 ^ 36 } }) ∧
      (off = 0xC8 → exec (.hostRegisterWrite off x) s = .next { s with dev := { s.dev with plim := x.toNat % 2 ^ 16 } }) ∧
      (off = 0x120008 → exec (.hostRegisterWrite off x) s = .next { s with xl := { s.xl with
        fbn := if 1 ≤ x.toNat % 512 ∧ x.toNat % 512 ≤ 256 then x.toNat % 512 else 64 } }) ∧
      (off % 0x40 = 0x10 → 0x100000 ≤ off → off < 0x101000 → ∃ v, exec (.hostRegisterWrite off x) s = .next v ∧
        v = { s with rings := v.rings } ∧ ∀ k, k < 64 → v.rings.getD k Ring.zero =
          if k = (off - 0x100000) / 0x40 then { s.rings.getD k Ring.zero with wptr := x.toNat % 2 ^ 32 }
          else s.rings.getD k Ring.zero)) ∧
    (s.dev.retraining.contains (who.getD 20) = false → walkHeld s .h va = false →
      (∀ pa perm, xlateFresh s .write va = .ok pa perm → pa.sp = .sys → linkHeld s .h pa = false → ∃ v,
        exec (.hostPeerAccess who va n (some (data.take 1))) s = .next v ∧ v = { s with sys := v.sys } ∧
          v.sys.bytes pa.a (data.take 1).length = data.take 1) ∧
      (∀ pa perm, xlateFresh s .read va = .ok pa perm → linkHeld s .h pa = false → ∃ v, exec (.hostPeerAccess who va 1 none) s = .next v ∧
        v = { s with reports := v.reports } ∧
        v.reports = s.reports ++ [{ name := "READ", args := [va, (paRead s pa).toNat] }]))

/-- R13, R24, R232, R362, R363, R370, R389, R390, R393, R394: counters of errors rise and saturate; a worn unit goes
out of service, a row, lane or way by an entry of the spare table; after 10 ms the crews of a remapped pair are saved; an
uncorrectable line replays its launch; a register lane in error is poisoned; a link that retrains is held until it is done, and what waited for it goes on; the
duty of the issue falls above the power limit or outside the coolant's, and rises again. That `PWR` is what the manager last compared is
log 40's reading, what a halt for the coolant keeps log 38's, and that links 8 to 11 join the H die to the V dies log 44's. `correctedError`, `memoryScrubbing`,
`uncorr`, `registerLaneError`, `linkRetrain`, `linkRetrainComplete`, `powerCheck`, `coolantFault`, `coolantTimeout`,
`coolantRestored`, `refreshEpoch`, `refreshEpochEnd`, `spareRemap`, `spareForceSave` complete. -/
def Obligations.ErrorAndPowerEvents : Prop :=
  ∀ (s : State) (u d l p sl v lane k : Nat) (w : BitVec 16),
    let die (t : State) (i j : Nat) : Nat := (t.ctr.die.getD i (Vector.replicate 8 0)).getD j 0
    let limit := if 300 ≤ s.dev.plim ∧ s.dev.plim ≤ 1800 then s.dev.plim else 1800
    let e := unitEntry u
    (u < 2672 → d < 4 → ∃ t, exec (.correctedError (some u) (some d)) s = .next t ∧
      kgetD t.ctr.wear u 0 = min (2 ^ 32 - 1) (kgetD s.ctr.wear u 0 + 1) ∧ die t d 6 = (die s d 6 + 1) % 2 ^ 48 ∧
      t = { s with ctr := { s.ctr with wear := t.ctr.wear, die := t.ctr.die } }) ∧
    (d < 4 → ∀ fixed : Bool, ∃ t, exec (.memoryScrubbing d fixed) s = .next t ∧
      die t d (if fixed then 6 else 7) = (die s d (if fixed then 6 else 7) + 1) % 2 ^ 48 ∧
      t = { s with ctr := { s.ctr with die := t.ctr.die } }) ∧
    (∀ x, launchAt? s l = some x → x.st = .running → exec (.uncorr l) s = .next (replayLaunch s l .uncorr)) ∧
    (v < 127 → lane < 32 → ∃ t, exec (.registerLaneError p sl v lane) s = .next t ∧
      (∀ c ∈ t.crews, c.pair = p → c.slot = sl → v < c.vn → inMask (c.poisonOf v) lane = true) ∧
      (s.cur.alive = true → s.cur.pair = p → s.cur.slot = sl → v < s.cur.vn →
        t.cur = { s.cur with poison := t.cur.poison } ∧ inMask (t.cur.poisonOf v) lane = true) ∧
      t = { s with cur := t.cur, crews := t.crews }) ∧
    (k ≤ 20 → s.dev.retraining.contains k = false → ∃ t, exec (.linkRetrain k) s = .next t ∧
      t.dev = { s.dev with retraining := s.dev.retraining ++ [k] } ∧ t = { s with dev := t.dev, ctr := t.ctr } ∧
      (8 ≤ k → k < 12 → die t (k - 8) 5 = (die s (k - 8) 5 + 1) % 2 ^ 48)) ∧
    (let free (c : Crew) : Crew := c.mapFrags (fun f => if f.park == .migrate then { f with park := .none } else f)
     s.xl.freeFrames = [] → s.xl.plPend = [] → exec (.linkRetrainComplete k) s = .next { s with
        cur := free s.cur, crews := s.crews.map free
        dev := { s.dev with retraining := s.dev.retraining.filter fun x => x != k }
        xl := { s.xl with stalls := [], freeFrames := [], plPend := [], plBsy := false } }) ∧
    (∃ t, exec (.linkRetrainComplete k) s = .next t ∧ t.dev.retraining.contains k = false ∧
      ∀ j, j ≠ k → t.dev.retraining.contains j = s.dev.retraining.contains j) ∧
    ((limit < w.toNat → 4 ≤ s.dev.duty → ∃ t, exec (.powerCheck w) s = .next t ∧ t.dev.pwr = w.toNat ∧ t.dev.cap = true ∧
        4 ≤ t.dev.duty ∧ (4 < s.dev.duty → t.dev.duty < s.dev.duty)) ∧
      (100 * w.toNat < 95 * limit → s.dev.coolantBad = false → exec (.powerCheck w) s = .next { s with dev := { s.dev with
        pwr := w.toNat, duty := min 16 (s.dev.duty + 1), cap := s.dev.cap && decide (s.dev.duty + 1 < 16) } }) ∧
      (95 * limit ≤ 100 * w.toNat → w.toNat ≤ limit → exec (.powerCheck w) s = .next { s with dev := { s.dev with pwr := w.toNat } })) ∧
    exec .coolantFault s = .next { s with
      dev := { s.dev with coolantBad := true, duty := 4, cap := true }
      reports := s.reports ++ [{ name := "COOLANT", args := [] }] } ∧
    (s.dev.coolantBad = true → ∃ t, exec .coolantTimeout s = .next t ∧ t.dev.mode = .halted ∧ t.dev.lsr = 6 ∧
      t.dev.restartDue = true ∧ t.loc = s.loc ∧ t.sys = s.sys ∧ t.launches = []) ∧
    exec .coolantRestored s = .next { s with dev := { s.dev with coolantBad := false } } ∧
    (k < 4 →
      (s.ctr.rfph.getD k 0 / 4096 ≠ 31 → ∃ t, exec (.refreshEpoch k) s = .next t ∧ t.ctr.rfph.getD k 0 / 4096 = 31 ∧
        t = { s with ctr := { s.ctr with rfph := t.ctr.rfph } }) ∧
      (s.ctr.rfph.getD k 0 / 4096 = 31 → ∃ t, exec (.refreshEpochEnd k) s = .next t ∧ t.ctr.rfph.getD k 0 = 0 ∧
        t = { s with ctr := { s.ctr with rfph := t.ctr.rfph } })) ∧
    (u < 2672 → entryUsed s u = false → s.ctr.thresholds.getD (unitKind u) 0 ≤ kgetD s.ctr.wear u 0 →
      (u < 192 → (coreAt s u).inService = true → (coreAt s u).remapping = 0 → ∃ t, exec (.spareRemap u) s = .next t ∧
        (coreAt t u).remapping = 1 ∧ (coreAt t u).remapAge = 0 ∧ t = { s with cores := t.cores }) ∧
      (408 ≤ u → ∃ t, exec (.spareRemap u) s = .next t ∧ entryUsed t u = true ∧
        (∀ i, i < 0x2400 → (i < e.1 ∨ e.1 + e.2 ≤ i) → t.ctr.spare.read i = s.ctr.spare.read i))) ∧
    ((coreAt s p).remapping ≠ 0 → 14000000 ≤ (coreAt s p).remapAge → ((allCrews s).map fun c => c.cid).Nodup →
      ∃ t, exec (.spareForceSave p) s = .next t ∧ ∀ c ∈ crewsOn s p,
        crew? t c.cid = none ∨ ∃ k, crew? t c.cid = some k ∧ k.saving = 2)

/-- R12, R246 to R254, R285, R313 to R315: a render launch whose turn has come reads its camera record and starts, or fails and is
aborted; each unit bins its next patch into the buckets that its bound meets, or closes its queues; references merge in ascending
patch order, 4 bytes each in the die's spill area (where in it is log 9's choice, how units are dealt to patches and numbers rounded log
45's, when a queue may close log 49's); a die starts the head of its own deque, or steals the tail of the fullest.
`renderLaunchStart`, `patchBin`, `insertQueueMerge`, `bucketStart`, `bucketSteal` complete. -/
def Obligations.BinningEvents : Prop :=
  ∀ (s : State) (id u d : Nat),
    (∀ l, launchAt? s id = some l → startTurn s l = true → l.lr.render = true → stalled s id = false →
      paramWaits s l = false → s.xl.shadows.all (fun e => e.committed) = true →
      ∀ m t, unitRead s .h id l.lr.param 128 false = .bytes m t → ∃ v,
      exec (.renderLaunchStart id false) s = .next v ∧
      (∃ y, launchAt? v id = some y ∧ y.st = .running ∧ y.lr = l.lr ∧ y.failed = !camOk m) ∧
      (camOk m = true → v.reports = s.reports ∧ (l.again = false → v.loc = s.loc ∧ v.sys = s.sys) ∧ v.cur = s.cur ∧
        ∃ r, v.renders = s.renders ++ [r] ∧ r.lid = id ∧ r.cam = m ∧ r.flight = [] ∧ r.queues = [] ∧ r.closed = [] ∧
          r.left = (Cam.ofBytes m).count ∧ r.units.all (fun x => x.1 == x.2) = true ∧
          r.units.length = 4 * r.deques.length ∧
          r.deques.map (fun x => x.1) = (List.range 4).filter fun k => s.dev.diesUp.contains k) ∧
      (camOk m = false → render? v id = none ∧
        ∃ more, v.reports = s.reports ++ { name := "RENDER", args := [id] } :: more)) ∧
    (∀ r, render? s id = some r →
      let cam := Cam.ofBytes r.cam
      (∀ l, launchAt? s id = some l → l.failed = false → stalled s id = false →
        ∀ p, r.units.find? (fun x => x.1 == u) = some (u, p) →
        (l.lr.blks ≤ p → ∃ v, exec (.patchBin id u false) s = .next v ∧ v = { s with renders := v.renders } ∧
          ∃ y, render? v id = some y ∧ y = { r with closed := y.closed } ∧
            (∀ x ∈ r.closed, x ∈ y.closed) ∧ (∀ k ∈ r.deques.map (fun z => z.1), r.cut s u k = false → (u, k) ∈ y.closed)) ∧
        (p < l.lr.blks → r.full u = false →
          ∀ m t, unitRead s (.v (r.unitDie u)) id (l.lr.qtb + 416 * p) 416 false = .bytes m t →
          let next := r.units.map fun y => if y.1 = u then (u, p + r.units.length) else y
          (pieceOf p m = none → ∃ v, exec (.patchBin id u false) s = .next v ∧ render? v id = some { r with units := next }) ∧
          (∀ x, pieceOf p m = some x → (r.deques.map fun y => y.1).Nodup →
            let hits (k : Nat) := (bucketsOf cam (boundOf cam x)).filter fun j => r.owner cam j == k
            r.deques.all (fun y => (hits y.1).isEmpty ||
              decide (kgetD r.spillUsed y.1 0 + 4 * (hits y.1).length ≤ cam.spsz)) = true →
            ∃ v, exec (.patchBin id u false) s = .next v ∧ ∃ y, render? v id = some y ∧ y.units = next ∧ y.lists = r.lists ∧
              (∀ k ∈ r.deques.map (fun z => z.1), y.queue u k = r.queue u k ++
                (hits k).zipIdx.map fun j => (p, j.1, 4 * (r.refCount cam k + j.2))))))) ∧
    (∀ r, renderGoes s id = some r →
      let cam := Cam.ofBytes r.cam
      ∀ h, leastPatch s r d = some h →
        let mine := ((r.queue h.2 d).filter fun x => x.1 == h.1).map fun x => (x.2.1, cam.part d + x.2.2)
        mine.all (fun x => !moving s x.2 4 && !unitWaits s (.v d) id x.2 4) = true → ∃ v,
        exec (.insertQueueMerge id d) s = .next v ∧
        v = { mine.foldl (fun t x => unitWrites t id x.2 (leBytes 4 h.1)) s with renders := v.renders } ∧
        ∃ y, render? v id = some y ∧ y.queue h.2 d = (r.queue h.2 d).filter (fun x => x.1 != h.1) ∧
          (∀ k, kgetD y.lists k [] = kgetD r.lists k [] ++ (mine.filter fun x => x.1 == k).map fun x => x.2)) ∧
    (∀ r, renderGoes s id = some r →
      let cam := Cam.ofBytes r.cam
      let fits := slicesUsed s d + cam.slices ≤ 16
      let begun (k : Nat) (v : State) : Prop := ∃ y, render? v id = some y ∧ y.flight = r.flight ++ [{
        bix := k, die := d, refs := kgetD r.lists k [], pieces := [], grids := [], nextGrid := 0, share := cam.share,
        samples := [], resolving := none, pixel := 0, waits := [] }]
      (∀ k rest, kgetD r.deques d [] = k :: rest → r.ready (r.owner cam k) = true → fits → ∃ v,
        exec (.bucketStart id d) s = .next v ∧ v = { s with renders := v.renders, ctr := v.ctr } ∧ begun k v ∧
        ∃ y, render? v id = some y ∧ kgetD y.deques d [] = rest) ∧
      (kget r.deques d = some [] → ∀ f, fullest r = some f → 2 ≤ f.2.length → ∀ k, f.2.getLast? = some k →
        r.ready (r.owner cam k) = true → fits → ∃ v,
        exec (.bucketSteal id d) s = .next v ∧ v = { s with renders := v.renders, ctr := v.ctr } ∧ begun k v ∧
        ∃ y, render? v id = some y ∧ kgetD y.deques f.1 [] = f.2.dropLast ∧ kgetD y.deques d [] = []))

/-- R246, R255 to R259, R267 to R270, R329, R393: a piece is dropped, split or diced, or the next reference of the bucket's list is
read from memory and its patch bound; a grid's block runs on the core that is found for it, and the grid passes on in order once
it has retired; it is sampled and its room freed; a bucket's pixels are written, by the box filter or by a resolve block, and its
slices are free. `dicePatch`, `gridShadeStart`, `gridHandoff`, `gridRasterise`, `bucketResolve` complete. -/
def Obligations.BucketEvents : Prop :=
  ∀ (s : State) (id b : Nat), MemoriesCanonical s →
    (∀ r, renderGoes s id = some r →
      let cam := Cam.ofBytes r.cam
      ∀ x, bucket? s id b = some x →
        (∀ p rest, x.pieces = p :: rest →
          (diceOf cam p = .cull → ∃ v, exec (.dicePatch id b) s = .next v ∧ v = { s with renders := v.renders } ∧
            bucket? v id b = some { x with pieces := rest }) ∧
          (diceOf cam p = .split → ∃ v, exec (.dicePatch id b) s = .next v ∧ v = { s with renders := v.renders } ∧
            bucket? v id b = some { x with
              pieces := ((children p).filter fun c => (boundOf cam c).meets cam x.bix) ++ rest }) ∧
          (∀ nu nv, diceOf cam p = .grid nu nv → (gridOf p x.nextGrid nu nv).bytes ≤ x.share → ∃ v,
            exec (.dicePatch id b) s = .next v ∧ v = { s with renders := v.renders } ∧ bucket? v id b = some { x with
              pieces := rest, grids := x.grids ++ [gridOf p x.nextGrid nu nv], nextGrid := x.nextGrid + 1,
              share := x.share - (gridOf p x.nextGrid nu nv).bytes })) ∧
        (x.pieces = [] → ∀ at_ refs, x.refs = at_ :: refs → ∀ l, launchAt? s id = some l → ∀ k t m w,
          unitRead s (.v x.die) id at_ 4 false = .bytes k t →
          unitRead t (.v x.die) id (l.lr.qtb + 416 * leNat k) 416 false = .bytes m w → ∃ v,
          exec (.dicePatch id b) s = .next v ∧
          bucket? v id b = some { x with pieces := (pieceOf (leNat k) m).toList, refs := refs }) ∧
        (∀ g, x.grids.find? (fun g => g.st != .passed) = some g → ∀ k, g.st = .shading k → blockDone s k = true →
          (x.grids.map fun g => g.num).Nodup → ∃ v, exec (.gridHandoff id b) s = .next v ∧ v = { s with renders := v.renders } ∧
          bucket? v id b = some { x with grids := x.grids.map fun y => if y.num = g.num then { y with st := .passed } else y }) ∧
        (∀ g rest, x.grids = g :: rest → g.st = .passed → gridHeld s (.v x.die) g = false → ∃ v, exec (.gridRasterise id b) s = .next v ∧
          v = { s with renders := v.renders } ∧ bucket? v id b = some { x with
            grids := rest, samples := sampleGrid cam x.bix g x.samples,
            share := if g.spilled.isSome then x.share else x.share + g.bytes }) ∧
        (x.sampled = true → x.waits = [] → x.resolving = none → cam.rcr = false →
          let va (y : Nat × Nat × Nat) := cam.img + y.2.2 * cam.pitch + y.2.1 * cam.size
          let done (v : State) : Prop := ∃ y, render? v id = some y ∧
            y.flight = r.flight.filter (fun z => z.bix != x.bix) ∧ y.left = r.left - 1
          let left := (bucketPixels cam x.bix).drop x.pixel
          (left = [] → ∃ v, exec (.bucketResolve id b false) s = .next v ∧ v = { s with renders := v.renders } ∧ done v) ∧
          ((launchAt? s id).all (fun l => l.irrev) = true → left.all (fun y => (match xlateFresh s .write (va y) with
              | .ok pa _ => pa.sp == .sys && !linkHeld s (.v x.die) pa
              | _ => false)) = true →
            ∃ v, exec (.bucketResolve id b false) s = .next v ∧ v.loc = s.loc ∧ done v) ∧
          (∀ y, left = [y] → ∀ pa perm, xlateFresh s .write (va y) = .ok pa perm → pa.sp = .sys →
            linkHeld s (.v x.die) pa = false → claimMoves s id pa = false →
            ∃ v, exec (.bucketResolve id b false) s = .next v ∧ done v ∧
              v.sys.bytes pa.a cam.size = pixelBytes cam x.samples y.1))) ∧
    (∀ l die g n p, nextPlace s = some (.render l die b g n, p) → l.lid = id →
      let placed (v : State) : Prop := v.loc = s.loc ∧ v.blocks.length = s.blocks.length + 1 ∧
        (allCrews v).length = (allCrews s).length + n ∧ ∀ c ∈ allCrews v, c ∈ allCrews s ∨
          (c.launch = id ∧ c.pair = p ∧ c.kind = (match g with | some k => .vertex b k | none => .resolve b) ∧
            c.region = l.lr.regn ∧ c.fr.pc = BitVec.ofNat 57 (if g.isSome then l.lr.entry else l.lr.last) ∧
            c.c.getD 0 0 = BitVec.ofNat 64 l.lr.param ∧ c.c.getD 1 0 = BitVec.ofNat 64 b ∧
            c.c.getD 2 0 = BitVec.ofNat 64 c.idx ∧ c.lm = c.fr.fl ∧ c.fr.xm = c.lm)
      (g.isSome = true → ∃ v, exec (.gridShadeStart id b) s = .next v ∧ placed v) ∧
      (g = none → ∀ r, renderGoes s id = some r → (Cam.ofBytes r.cam).rcr = true → ∀ x, bucket? s id b = some x →
        x.sampled = true → x.waits = [] → x.resolving = none → ∃ v, exec (.bucketResolve id b false) s = .next v ∧ placed v))

/-! ## Words, steps, reset and memory -/

/-- R37, R46, R52, R176, R177: the words of the spec's worked encodings, and a few more written out from the tables, decode to
the instruction they stand for, from the number and from its bytes in memory order; a word no row matches is refused. -/
def Obligations.DecodeWords : Prop :=
  decode 0xFE900000 = .ok (.hintMod 0x900000) ∧
  decode 0x4020404D = .ok (.fadd 4 4 (.v 9) .f32x2) ∧
  decode 0xFC000040 = .ok (.hintLo 0x40) ∧
  decode 0xC86040C9 = .ok (.ld 12 { base := 2, idx := .a 3, scaled := true } .b32 false) ∧
  decode 0xFD123456 = .ok (.hintHi 0x123456) ∧
  decode 0x207FC000 = .ok (.caddImm 7 63 0) ∧
  decode 0x205143E8 = .ok (.caddImm 5 5 1000) ∧
  decode 0xFF000020 = .ok (.hintJoin 0x20) ∧
  decode 0x09000010 = .ok (.brv 2 0x10) ∧
  decode 0x04000005 = .ok (.br 5) ∧
  decode 0x043BFFFE = .ok (.brcNz 3 0x3FFFE) ∧
  decode 0x0FC00100 = .ok (.call 60 0x100) ∧
  decodeTableWord 32 0x205143E8 = some (.caddImm 5 5 1000) ∧
  decodeTableWord 32 0 = none

/-- Every well-formed instruction that has a word has one of 32 bits, and that word decodes to it, with every operand at every
value its field admits; what a word decodes to is well formed, and the word is its encoding (R36 to R53). -/
def Obligations.EncodeAndDecodeAgree : Prop :=
  (∀ (i : Instr) (w : Nat), i.wf = true → encode i = some w → w < 2 ^ 32 ∧ decode w = .ok i ∧ decodeTableWord 32 w = some i) ∧
  (∀ (i : Instr) (w : Nat), decode w = .ok i → i.wf = true ∧ encode i = some w)

/-- R27, R36, R57, R322: a step takes the head of the agenda, or with none a turn that is free (log 1's choice). An issue turn of a
quarter at full duty, which a run that cannot go on has given up (log 62's reading), whose choice is a fragment takes the word at that
fragment's `PC`; when the word decodes to `i` and no PREEMPT is owed, the cycle is counted to the fragment's region and the step is
`exec` of `i` there, then the quarter's account, then what follows every turn; with no fragment ready the cycle is idle. A cycle that
the duty of power capping does not reach issues nothing (log 34's choice of which). -/
def Obligations.StepRunsTheDecodedInstruction : Prop :=
  ∀ (s : State) (p q : Nat) (rest : List Turn) (x : Crew × Frag) (u : State) (i : Instr),
    let s0 := { s with agenda := rest }
    let s1 := releaseTurn (modQuarter s0 p q fun k => { k with duty := Duty.zero }) p q
    let d := (quarterAt s0 p q).duty
    let idle := modQuarter s0 p q fun k => { k with duty := ⟨d.credit + s.dev.duty, d.capped + 1⟩ }
    let a := { modFr (modQuarter u p q fun k => { k with promo := k.promo.filter fun t => t != nameOf x })
      (fun f => { f with passed := 0 }) with ir := ((kget u.cur.ibuf u.cur.fr.pc.toNat).getD 0).toNat }
    let b := countCycle a p a.cur.region
    let waiting := ((quarterFrags s1 p q).filter fun x => ready s1 x.1 x.2).map nameOf
    (s.agenda = [] → step s = take (Config.nextTurn s.tick) { s with tick := s.tick + 1 }) ∧
    (s.agenda = .issue p q :: rest → 16 ≤ s.dev.duty → (quarterAt s1 p q).busy = 0 →
      (pick s1 p q = none → step s = .next (afterTurn (idleCycle s1 p q))) ∧
      (pick s1 p q = some x → (focus s1 p x.1.slot).bind (fun t => focusFrag t x.2.fid) = some u → owed a = false →
        decode ((kget u.cur.ibuf u.cur.fr.pc.toNat).getD 0).toNat = .ok i → held a i = false →
        ∃ t, exec i b = .next t ∧ step s = .next (afterTurn (account b t p q waiting)))) ∧
    (s.agenda = .issue p q :: rest → d.credit + s.dev.duty < 16 → d.capped < 3 → step s = .next (afterTurn
      (if (pick s0 p q).isSome then modCore idle p fun c => countEvt c 0x02 1 else idle)))

/-- R20, R190, R279, R365, R385: what a power-on leaves where the spec says it: no crew, launch or block; rings disabled and empty,
no region table in force, no page table, nothing batched; `BPC` and the counters at 0; the device about to take its start
sequence. The host reads these values in its window: `DSTAT` of a start, `PLIM` 1,800, `FBN` 64, and 0 for the rest.
Memories that the spec says nothing of read 0 (log 3, the model's choice). -/
def Obligations.ResetValues : Prop :=
  let s := State.reset
  s.cur.alive = false ∧ s.crews = [] ∧ s.saved = [] ∧ s.blocks = [] ∧ s.launches = [] ∧ s.renders = [] ∧
  (∀ n, n < 64 → (s.rings.getD n Ring.zero).en = false ∧ (s.rings.getD n Ring.zero).st = 0 ∧
    (s.rings.getD n Ring.zero).rptr = 0 ∧ (s.rings.getD n Ring.zero).wptr = 0) ∧
  s.rg.eff = [] ∧ s.rg.bsy = false ∧ s.rg.err = false ∧ s.xl.fbn = 64 ∧ s.xl.ptrt = 0 ∧ s.xl.sdBsy = false ∧ s.xl.ckBsy = false ∧
  s.ctr.bpc = 0 ∧ s.ctr.bEn = false ∧ s.ctr.bdrop = 0 ∧ s.ctr.bglt = 0 ∧ s.dev.mode = .starting ∧ s.dev.plim = 1800 ∧
  hostRead s 0 = 0 ∧ hostRead s 0xC8 = 1800 ∧ hostRead s 0x98 = 0 ∧ hostRead s 0x110010 = 0 ∧ hostRead s 0x120000 = 0 ∧
  hostRead s 0x120008 = 64 ∧ hostRead s 0x140008 = 0 ∧ (∀ n, n < 64 → hostRead s (0x100018 + 0x40 * n) = 0) ∧
  (∀ a, s.loc.read a = 0 ∧ s.sys.read a = 0)

/-- R204: at reset every memory is in its canonical form. The form is the model's own (log 3). -/
def Obligations.MemoriesCanonicalAtReset : Prop :=
MemoriesCanonical State.reset

/-- R204: every step keeps every memory in its canonical form, from any state that has them so: equal memories are then equal
data. The form is the model's own (log 3). -/
def Obligations.StepsKeepMemoriesCanonical : Prop :=
  ∀ s t : State, MemoriesCanonical s → step s = .next t → MemoriesCanonical t
end

