-- ==== Sys2Proof/Laws/State.lean ====
section
/-! SUPPORT. One lemma for each field of State under each named update, true by `rfl`. -/

namespace Sys2Proof.Machine

open Sys2Proof

/-! ## `modCur` -/

@[simp] theorem modCur_agenda (s : State) (f : Crew → Crew) : (modCur s f).agenda = s.agenda := rfl
@[simp] theorem modCur_tick (s : State) (f : Crew → Crew) : (modCur s f).tick = s.tick := rfl
@[simp] theorem modCur_nextId (s : State) (f : Crew → Crew) : (modCur s f).nextId = s.nextId := rfl
@[simp] theorem modCur_now (s : State) (f : Crew → Crew) : (modCur s f).now = s.now := rfl
@[simp] theorem modCur_ir (s : State) (f : Crew → Crew) : (modCur s f).ir = s.ir := rfl
@[simp] theorem modCur_cur (s : State) (f : Crew → Crew) : (modCur s f).cur = f s.cur := rfl
@[simp] theorem modCur_crews (s : State) (f : Crew → Crew) : (modCur s f).crews = s.crews := rfl
@[simp] theorem modCur_ghosts (s : State) (f : Crew → Crew) : (modCur s f).ghosts = s.ghosts := rfl
@[simp] theorem modCur_saved (s : State) (f : Crew → Crew) : (modCur s f).saved = s.saved := rfl
@[simp] theorem modCur_blocks (s : State) (f : Crew → Crew) : (modCur s f).blocks = s.blocks := rfl
@[simp] theorem modCur_launches (s : State) (f : Crew → Crew) : (modCur s f).launches = s.launches := rfl
@[simp] theorem modCur_cores (s : State) (f : Crew → Crew) : (modCur s f).cores = s.cores := rfl
@[simp] theorem modCur_tlb2 (s : State) (f : Crew → Crew) : (modCur s f).tlb2 = s.tlb2 := rfl
@[simp] theorem modCur_loc (s : State) (f : Crew → Crew) : (modCur s f).loc = s.loc := rfl
@[simp] theorem modCur_sys (s : State) (f : Crew → Crew) : (modCur s f).sys = s.sys := rfl
@[simp] theorem modCur_peers (s : State) (f : Crew → Crew) : (modCur s f).peers = s.peers := rfl
@[simp] theorem modCur_weights (s : State) (f : Crew → Crew) : (modCur s f).weights = s.weights := rfl
@[simp] theorem modCur_storeQ (s : State) (f : Crew → Crew) : (modCur s f).storeQ = s.storeQ := rfl
@[simp] theorem modCur_atoms (s : State) (f : Crew → Crew) : (modCur s f).atoms = s.atoms := rfl
@[simp] theorem modCur_pacqs (s : State) (f : Crew → Crew) : (modCur s f).pacqs = s.pacqs := rfl
@[simp] theorem modCur_requests (s : State) (f : Crew → Crew) : (modCur s f).requests = s.requests := rfl
@[simp] theorem modCur_hints (s : State) (f : Crew → Crew) : (modCur s f).hints = s.hints := rfl
@[simp] theorem modCur_releasers (s : State) (f : Crew → Crew) : (modCur s f).releasers = s.releasers := rfl
@[simp] theorem modCur_hot (s : State) (f : Crew → Crew) : (modCur s f).hot = s.hot := rfl
@[simp] theorem modCur_copies (s : State) (f : Crew → Crew) : (modCur s f).copies = s.copies := rfl
@[simp] theorem modCur_barOps (s : State) (f : Crew → Crew) : (modCur s f).barOps = s.barOps := rfl
@[simp] theorem modCur_withdrawals (s : State) (f : Crew → Crew) : (modCur s f).withdrawals = s.withdrawals := rfl
@[simp] theorem modCur_combiner (s : State) (f : Crew → Crew) : (modCur s f).combiner = s.combiner := rfl
@[simp] theorem modCur_arrived (s : State) (f : Crew → Crew) : (modCur s f).arrived = s.arrived := rfl
@[simp] theorem modCur_rings (s : State) (f : Crew → Crew) : (modCur s f).rings = s.rings := rfl
@[simp] theorem modCur_renders (s : State) (f : Crew → Crew) : (modCur s f).renders = s.renders := rfl
@[simp] theorem modCur_rg (s : State) (f : Crew → Crew) : (modCur s f).rg = s.rg := rfl
@[simp] theorem modCur_xl (s : State) (f : Crew → Crew) : (modCur s f).xl = s.xl := rfl
@[simp] theorem modCur_ctr (s : State) (f : Crew → Crew) : (modCur s f).ctr = s.ctr := rfl
@[simp] theorem modCur_dev (s : State) (f : Crew → Crew) : (modCur s f).dev = s.dev := rfl
@[simp] theorem modCur_reports (s : State) (f : Crew → Crew) : (modCur s f).reports = s.reports := rfl

/-! ## `modCore` -/

@[simp] theorem modCore_agenda (s : State) (p : Nat) (f : Core → Core) : (modCore s p f).agenda = s.agenda := rfl
@[simp] theorem modCore_tick (s : State) (p : Nat) (f : Core → Core) : (modCore s p f).tick = s.tick := rfl
@[simp] theorem modCore_nextId (s : State) (p : Nat) (f : Core → Core) : (modCore s p f).nextId = s.nextId := rfl
@[simp] theorem modCore_now (s : State) (p : Nat) (f : Core → Core) : (modCore s p f).now = s.now := rfl
@[simp] theorem modCore_ir (s : State) (p : Nat) (f : Core → Core) : (modCore s p f).ir = s.ir := rfl
@[simp] theorem modCore_cur (s : State) (p : Nat) (f : Core → Core) : (modCore s p f).cur = s.cur := rfl
@[simp] theorem modCore_crews (s : State) (p : Nat) (f : Core → Core) : (modCore s p f).crews = s.crews := rfl
@[simp] theorem modCore_ghosts (s : State) (p : Nat) (f : Core → Core) : (modCore s p f).ghosts = s.ghosts := rfl
@[simp] theorem modCore_saved (s : State) (p : Nat) (f : Core → Core) : (modCore s p f).saved = s.saved := rfl
@[simp] theorem modCore_blocks (s : State) (p : Nat) (f : Core → Core) : (modCore s p f).blocks = s.blocks := rfl
@[simp] theorem modCore_launches (s : State) (p : Nat) (f : Core → Core) : (modCore s p f).launches = s.launches := rfl
@[simp] theorem modCore_cores (s : State) (p : Nat) (f : Core → Core) : (modCore s p f).cores = kset s.cores p (f (coreAt s p)) := rfl
@[simp] theorem modCore_tlb2 (s : State) (p : Nat) (f : Core → Core) : (modCore s p f).tlb2 = s.tlb2 := rfl
@[simp] theorem modCore_loc (s : State) (p : Nat) (f : Core → Core) : (modCore s p f).loc = s.loc := rfl
@[simp] theorem modCore_sys (s : State) (p : Nat) (f : Core → Core) : (modCore s p f).sys = s.sys := rfl
@[simp] theorem modCore_peers (s : State) (p : Nat) (f : Core → Core) : (modCore s p f).peers = s.peers := rfl
@[simp] theorem modCore_weights (s : State) (p : Nat) (f : Core → Core) : (modCore s p f).weights = s.weights := rfl
@[simp] theorem modCore_storeQ (s : State) (p : Nat) (f : Core → Core) : (modCore s p f).storeQ = s.storeQ := rfl
@[simp] theorem modCore_atoms (s : State) (p : Nat) (f : Core → Core) : (modCore s p f).atoms = s.atoms := rfl
@[simp] theorem modCore_pacqs (s : State) (p : Nat) (f : Core → Core) : (modCore s p f).pacqs = s.pacqs := rfl
@[simp] theorem modCore_requests (s : State) (p : Nat) (f : Core → Core) : (modCore s p f).requests = s.requests := rfl
@[simp] theorem modCore_hints (s : State) (p : Nat) (f : Core → Core) : (modCore s p f).hints = s.hints := rfl
@[simp] theorem modCore_releasers (s : State) (p : Nat) (f : Core → Core) : (modCore s p f).releasers = s.releasers := rfl
@[simp] theorem modCore_hot (s : State) (p : Nat) (f : Core → Core) : (modCore s p f).hot = s.hot := rfl
@[simp] theorem modCore_copies (s : State) (p : Nat) (f : Core → Core) : (modCore s p f).copies = s.copies := rfl
@[simp] theorem modCore_barOps (s : State) (p : Nat) (f : Core → Core) : (modCore s p f).barOps = s.barOps := rfl
@[simp] theorem modCore_withdrawals (s : State) (p : Nat) (f : Core → Core) : (modCore s p f).withdrawals = s.withdrawals := rfl
@[simp] theorem modCore_combiner (s : State) (p : Nat) (f : Core → Core) : (modCore s p f).combiner = s.combiner := rfl
@[simp] theorem modCore_arrived (s : State) (p : Nat) (f : Core → Core) : (modCore s p f).arrived = s.arrived := rfl
@[simp] theorem modCore_rings (s : State) (p : Nat) (f : Core → Core) : (modCore s p f).rings = s.rings := rfl
@[simp] theorem modCore_renders (s : State) (p : Nat) (f : Core → Core) : (modCore s p f).renders = s.renders := rfl
@[simp] theorem modCore_rg (s : State) (p : Nat) (f : Core → Core) : (modCore s p f).rg = s.rg := rfl
@[simp] theorem modCore_xl (s : State) (p : Nat) (f : Core → Core) : (modCore s p f).xl = s.xl := rfl
@[simp] theorem modCore_ctr (s : State) (p : Nat) (f : Core → Core) : (modCore s p f).ctr = s.ctr := rfl
@[simp] theorem modCore_dev (s : State) (p : Nat) (f : Core → Core) : (modCore s p f).dev = s.dev := rfl
@[simp] theorem modCore_reports (s : State) (p : Nat) (f : Core → Core) : (modCore s p f).reports = s.reports := rfl

/-! ## `modBlock` -/

@[simp] theorem modBlock_agenda (s : State) (b : Nat) (f : Block → Block) : (modBlock s b f).agenda = s.agenda := rfl
@[simp] theorem modBlock_tick (s : State) (b : Nat) (f : Block → Block) : (modBlock s b f).tick = s.tick := rfl
@[simp] theorem modBlock_nextId (s : State) (b : Nat) (f : Block → Block) : (modBlock s b f).nextId = s.nextId := rfl
@[simp] theorem modBlock_now (s : State) (b : Nat) (f : Block → Block) : (modBlock s b f).now = s.now := rfl
@[simp] theorem modBlock_ir (s : State) (b : Nat) (f : Block → Block) : (modBlock s b f).ir = s.ir := rfl
@[simp] theorem modBlock_cur (s : State) (b : Nat) (f : Block → Block) : (modBlock s b f).cur = s.cur := rfl
@[simp] theorem modBlock_crews (s : State) (b : Nat) (f : Block → Block) : (modBlock s b f).crews = s.crews := rfl
@[simp] theorem modBlock_ghosts (s : State) (b : Nat) (f : Block → Block) : (modBlock s b f).ghosts = s.ghosts := rfl
@[simp] theorem modBlock_saved (s : State) (b : Nat) (f : Block → Block) : (modBlock s b f).saved = s.saved := rfl
@[simp] theorem modBlock_blocks (s : State) (b : Nat) (f : Block → Block) : (modBlock s b f).blocks = s.blocks.map fun x => if x.bid == b then f x else x := rfl
@[simp] theorem modBlock_launches (s : State) (b : Nat) (f : Block → Block) : (modBlock s b f).launches = s.launches := rfl
@[simp] theorem modBlock_cores (s : State) (b : Nat) (f : Block → Block) : (modBlock s b f).cores = s.cores := rfl
@[simp] theorem modBlock_tlb2 (s : State) (b : Nat) (f : Block → Block) : (modBlock s b f).tlb2 = s.tlb2 := rfl
@[simp] theorem modBlock_loc (s : State) (b : Nat) (f : Block → Block) : (modBlock s b f).loc = s.loc := rfl
@[simp] theorem modBlock_sys (s : State) (b : Nat) (f : Block → Block) : (modBlock s b f).sys = s.sys := rfl
@[simp] theorem modBlock_peers (s : State) (b : Nat) (f : Block → Block) : (modBlock s b f).peers = s.peers := rfl
@[simp] theorem modBlock_weights (s : State) (b : Nat) (f : Block → Block) : (modBlock s b f).weights = s.weights := rfl
@[simp] theorem modBlock_storeQ (s : State) (b : Nat) (f : Block → Block) : (modBlock s b f).storeQ = s.storeQ := rfl
@[simp] theorem modBlock_atoms (s : State) (b : Nat) (f : Block → Block) : (modBlock s b f).atoms = s.atoms := rfl
@[simp] theorem modBlock_pacqs (s : State) (b : Nat) (f : Block → Block) : (modBlock s b f).pacqs = s.pacqs := rfl
@[simp] theorem modBlock_requests (s : State) (b : Nat) (f : Block → Block) : (modBlock s b f).requests = s.requests := rfl
@[simp] theorem modBlock_hints (s : State) (b : Nat) (f : Block → Block) : (modBlock s b f).hints = s.hints := rfl
@[simp] theorem modBlock_releasers (s : State) (b : Nat) (f : Block → Block) : (modBlock s b f).releasers = s.releasers := rfl
@[simp] theorem modBlock_hot (s : State) (b : Nat) (f : Block → Block) : (modBlock s b f).hot = s.hot := rfl
@[simp] theorem modBlock_copies (s : State) (b : Nat) (f : Block → Block) : (modBlock s b f).copies = s.copies := rfl
@[simp] theorem modBlock_barOps (s : State) (b : Nat) (f : Block → Block) : (modBlock s b f).barOps = s.barOps := rfl
@[simp] theorem modBlock_withdrawals (s : State) (b : Nat) (f : Block → Block) : (modBlock s b f).withdrawals = s.withdrawals := rfl
@[simp] theorem modBlock_combiner (s : State) (b : Nat) (f : Block → Block) : (modBlock s b f).combiner = s.combiner := rfl
@[simp] theorem modBlock_arrived (s : State) (b : Nat) (f : Block → Block) : (modBlock s b f).arrived = s.arrived := rfl
@[simp] theorem modBlock_rings (s : State) (b : Nat) (f : Block → Block) : (modBlock s b f).rings = s.rings := rfl
@[simp] theorem modBlock_renders (s : State) (b : Nat) (f : Block → Block) : (modBlock s b f).renders = s.renders := rfl
@[simp] theorem modBlock_rg (s : State) (b : Nat) (f : Block → Block) : (modBlock s b f).rg = s.rg := rfl
@[simp] theorem modBlock_xl (s : State) (b : Nat) (f : Block → Block) : (modBlock s b f).xl = s.xl := rfl
@[simp] theorem modBlock_ctr (s : State) (b : Nat) (f : Block → Block) : (modBlock s b f).ctr = s.ctr := rfl
@[simp] theorem modBlock_dev (s : State) (b : Nat) (f : Block → Block) : (modBlock s b f).dev = s.dev := rfl
@[simp] theorem modBlock_reports (s : State) (b : Nat) (f : Block → Block) : (modBlock s b f).reports = s.reports := rfl

/-! ## `modLaunch` -/

@[simp] theorem modLaunch_agenda (s : State) (l : Nat) (f : Launch → Launch) : (modLaunch s l f).agenda = s.agenda := rfl
@[simp] theorem modLaunch_tick (s : State) (l : Nat) (f : Launch → Launch) : (modLaunch s l f).tick = s.tick := rfl
@[simp] theorem modLaunch_nextId (s : State) (l : Nat) (f : Launch → Launch) : (modLaunch s l f).nextId = s.nextId := rfl
@[simp] theorem modLaunch_now (s : State) (l : Nat) (f : Launch → Launch) : (modLaunch s l f).now = s.now := rfl
@[simp] theorem modLaunch_ir (s : State) (l : Nat) (f : Launch → Launch) : (modLaunch s l f).ir = s.ir := rfl
@[simp] theorem modLaunch_cur (s : State) (l : Nat) (f : Launch → Launch) : (modLaunch s l f).cur = s.cur := rfl
@[simp] theorem modLaunch_crews (s : State) (l : Nat) (f : Launch → Launch) : (modLaunch s l f).crews = s.crews := rfl
@[simp] theorem modLaunch_ghosts (s : State) (l : Nat) (f : Launch → Launch) : (modLaunch s l f).ghosts = s.ghosts := rfl
@[simp] theorem modLaunch_saved (s : State) (l : Nat) (f : Launch → Launch) : (modLaunch s l f).saved = s.saved := rfl
@[simp] theorem modLaunch_blocks (s : State) (l : Nat) (f : Launch → Launch) : (modLaunch s l f).blocks = s.blocks := rfl
@[simp] theorem modLaunch_launches (s : State) (l : Nat) (f : Launch → Launch) : (modLaunch s l f).launches = s.launches.map fun x => if x.lid == l then f x else x := rfl
@[simp] theorem modLaunch_cores (s : State) (l : Nat) (f : Launch → Launch) : (modLaunch s l f).cores = s.cores := rfl
@[simp] theorem modLaunch_tlb2 (s : State) (l : Nat) (f : Launch → Launch) : (modLaunch s l f).tlb2 = s.tlb2 := rfl
@[simp] theorem modLaunch_loc (s : State) (l : Nat) (f : Launch → Launch) : (modLaunch s l f).loc = s.loc := rfl
@[simp] theorem modLaunch_sys (s : State) (l : Nat) (f : Launch → Launch) : (modLaunch s l f).sys = s.sys := rfl
@[simp] theorem modLaunch_peers (s : State) (l : Nat) (f : Launch → Launch) : (modLaunch s l f).peers = s.peers := rfl
@[simp] theorem modLaunch_weights (s : State) (l : Nat) (f : Launch → Launch) : (modLaunch s l f).weights = s.weights := rfl
@[simp] theorem modLaunch_storeQ (s : State) (l : Nat) (f : Launch → Launch) : (modLaunch s l f).storeQ = s.storeQ := rfl
@[simp] theorem modLaunch_atoms (s : State) (l : Nat) (f : Launch → Launch) : (modLaunch s l f).atoms = s.atoms := rfl
@[simp] theorem modLaunch_pacqs (s : State) (l : Nat) (f : Launch → Launch) : (modLaunch s l f).pacqs = s.pacqs := rfl
@[simp] theorem modLaunch_requests (s : State) (l : Nat) (f : Launch → Launch) : (modLaunch s l f).requests = s.requests := rfl
@[simp] theorem modLaunch_hints (s : State) (l : Nat) (f : Launch → Launch) : (modLaunch s l f).hints = s.hints := rfl
@[simp] theorem modLaunch_releasers (s : State) (l : Nat) (f : Launch → Launch) : (modLaunch s l f).releasers = s.releasers := rfl
@[simp] theorem modLaunch_hot (s : State) (l : Nat) (f : Launch → Launch) : (modLaunch s l f).hot = s.hot := rfl
@[simp] theorem modLaunch_copies (s : State) (l : Nat) (f : Launch → Launch) : (modLaunch s l f).copies = s.copies := rfl
@[simp] theorem modLaunch_barOps (s : State) (l : Nat) (f : Launch → Launch) : (modLaunch s l f).barOps = s.barOps := rfl
@[simp] theorem modLaunch_withdrawals (s : State) (l : Nat) (f : Launch → Launch) : (modLaunch s l f).withdrawals = s.withdrawals := rfl
@[simp] theorem modLaunch_combiner (s : State) (l : Nat) (f : Launch → Launch) : (modLaunch s l f).combiner = s.combiner := rfl
@[simp] theorem modLaunch_arrived (s : State) (l : Nat) (f : Launch → Launch) : (modLaunch s l f).arrived = s.arrived := rfl
@[simp] theorem modLaunch_rings (s : State) (l : Nat) (f : Launch → Launch) : (modLaunch s l f).rings = s.rings := rfl
@[simp] theorem modLaunch_renders (s : State) (l : Nat) (f : Launch → Launch) : (modLaunch s l f).renders = s.renders := rfl
@[simp] theorem modLaunch_rg (s : State) (l : Nat) (f : Launch → Launch) : (modLaunch s l f).rg = s.rg := rfl
@[simp] theorem modLaunch_xl (s : State) (l : Nat) (f : Launch → Launch) : (modLaunch s l f).xl = s.xl := rfl
@[simp] theorem modLaunch_ctr (s : State) (l : Nat) (f : Launch → Launch) : (modLaunch s l f).ctr = s.ctr := rfl
@[simp] theorem modLaunch_dev (s : State) (l : Nat) (f : Launch → Launch) : (modLaunch s l f).dev = s.dev := rfl
@[simp] theorem modLaunch_reports (s : State) (l : Nat) (f : Launch → Launch) : (modLaunch s l f).reports = s.reports := rfl

/-! ## `report` -/

@[simp] theorem report_agenda (s : State) (n : String) (a : List Nat) : (report s n a).agenda = s.agenda := rfl
@[simp] theorem report_tick (s : State) (n : String) (a : List Nat) : (report s n a).tick = s.tick := rfl
@[simp] theorem report_nextId (s : State) (n : String) (a : List Nat) : (report s n a).nextId = s.nextId := rfl
@[simp] theorem report_now (s : State) (n : String) (a : List Nat) : (report s n a).now = s.now := rfl
@[simp] theorem report_ir (s : State) (n : String) (a : List Nat) : (report s n a).ir = s.ir := rfl
@[simp] theorem report_cur (s : State) (n : String) (a : List Nat) : (report s n a).cur = s.cur := rfl
@[simp] theorem report_crews (s : State) (n : String) (a : List Nat) : (report s n a).crews = s.crews := rfl
@[simp] theorem report_ghosts (s : State) (n : String) (a : List Nat) : (report s n a).ghosts = s.ghosts := rfl
@[simp] theorem report_saved (s : State) (n : String) (a : List Nat) : (report s n a).saved = s.saved := rfl
@[simp] theorem report_blocks (s : State) (n : String) (a : List Nat) : (report s n a).blocks = s.blocks := rfl
@[simp] theorem report_launches (s : State) (n : String) (a : List Nat) : (report s n a).launches = s.launches := rfl
@[simp] theorem report_cores (s : State) (n : String) (a : List Nat) : (report s n a).cores = s.cores := rfl
@[simp] theorem report_tlb2 (s : State) (n : String) (a : List Nat) : (report s n a).tlb2 = s.tlb2 := rfl
@[simp] theorem report_loc (s : State) (n : String) (a : List Nat) : (report s n a).loc = s.loc := rfl
@[simp] theorem report_sys (s : State) (n : String) (a : List Nat) : (report s n a).sys = s.sys := rfl
@[simp] theorem report_peers (s : State) (n : String) (a : List Nat) : (report s n a).peers = s.peers := rfl
@[simp] theorem report_weights (s : State) (n : String) (a : List Nat) : (report s n a).weights = s.weights := rfl
@[simp] theorem report_storeQ (s : State) (n : String) (a : List Nat) : (report s n a).storeQ = s.storeQ := rfl
@[simp] theorem report_atoms (s : State) (n : String) (a : List Nat) : (report s n a).atoms = s.atoms := rfl
@[simp] theorem report_pacqs (s : State) (n : String) (a : List Nat) : (report s n a).pacqs = s.pacqs := rfl
@[simp] theorem report_requests (s : State) (n : String) (a : List Nat) : (report s n a).requests = s.requests := rfl
@[simp] theorem report_hints (s : State) (n : String) (a : List Nat) : (report s n a).hints = s.hints := rfl
@[simp] theorem report_releasers (s : State) (n : String) (a : List Nat) : (report s n a).releasers = s.releasers := rfl
@[simp] theorem report_hot (s : State) (n : String) (a : List Nat) : (report s n a).hot = s.hot := rfl
@[simp] theorem report_copies (s : State) (n : String) (a : List Nat) : (report s n a).copies = s.copies := rfl
@[simp] theorem report_barOps (s : State) (n : String) (a : List Nat) : (report s n a).barOps = s.barOps := rfl
@[simp] theorem report_withdrawals (s : State) (n : String) (a : List Nat) : (report s n a).withdrawals = s.withdrawals := rfl
@[simp] theorem report_combiner (s : State) (n : String) (a : List Nat) : (report s n a).combiner = s.combiner := rfl
@[simp] theorem report_arrived (s : State) (n : String) (a : List Nat) : (report s n a).arrived = s.arrived := rfl
@[simp] theorem report_rings (s : State) (n : String) (a : List Nat) : (report s n a).rings = s.rings := rfl
@[simp] theorem report_renders (s : State) (n : String) (a : List Nat) : (report s n a).renders = s.renders := rfl
@[simp] theorem report_rg (s : State) (n : String) (a : List Nat) : (report s n a).rg = s.rg := rfl
@[simp] theorem report_xl (s : State) (n : String) (a : List Nat) : (report s n a).xl = s.xl := rfl
@[simp] theorem report_ctr (s : State) (n : String) (a : List Nat) : (report s n a).ctr = s.ctr := rfl
@[simp] theorem report_dev (s : State) (n : String) (a : List Nat) : (report s n a).dev = s.dev := rfl
@[simp] theorem report_reports (s : State) (n : String) (a : List Nat) : (report s n a).reports = s.reports ++ [⟨n, a⟩] := rfl

/-! ## The issuing fragment -/

@[simp] theorem modFr_cur (s : State) (f : Frag → Frag) : (modFr s f).cur = { s.cur with fr := f s.cur.fr } := rfl
theorem modFr_eq (s : State) (f : Frag → Frag) : modFr s f = { s with cur := { s.cur with fr := f s.cur.fr } } := rfl
theorem modCur_modCur (s : State) (f g : Crew → Crew) : modCur (modCur s f) g = modCur s fun c => g (f c) := rfl
theorem modCur_id (s : State) : (modCur s fun c => c) = s := rfl
theorem completeAt_eq (s : State) (pc : VAddr) : completeAt s pc = { s with cur := { s.cur with fr :=
    { s.cur.fr with dmk := foldRun s.cur.fr.dmk s.cur.fr.run s.ir, run := [], pc := pc, park := .none } } } := rfl
@[simp] theorem completeAt_fr (s : State) (pc : VAddr) : (completeAt s pc).cur.fr =
    { s.cur.fr with dmk := foldRun s.cur.fr.dmk s.cur.fr.run s.ir, run := [], pc := pc, park := .none } := rfl
@[simp] theorem complete_fr (s : State) : (complete s).cur.fr =
    { s.cur.fr with dmk := foldRun s.cur.fr.dmk s.cur.fr.run s.ir, run := [], pc := s.cur.fr.pc + 4, park := .none } := rfl

end Sys2Proof.Machine
end

