-- ==== Sys2Proof/Laws/Registers.lean ====
section
/-! SUPPORT. What reading a register gives after writing one (R98, R119). -/

namespace Sys2Proof.Machine

open Sys2Proof

theorem get_set {α : Type} {n : Nat} (v : Vector α n) (d r : Fin n) (x : α) :
    (v.set d.val x d.isLt).get r = if r = d then x else v.get r := by
  show (v.set d.val x d.isLt)[r.val] = if r = d then x else v[r.val]
  rw [Vector.getElem_set]
  by_cases h : r = d
  · simp [h]
  · have : d.val ≠ r.val := fun e => h (Fin.ext e.symm)
    simp [h, this]

/-- A uniform register after a write: the hard-wired `cz` reads 0 always (R98). -/
theorem getC_setC (s : State) (d r : CReg) (v : Word) :
    getC (setC s d v) r = if r = d ∧ d.val ≠ 63 then v else getC s r := by
  by_cases hd : d.val = 63
  · simp [setC, hd]
  · by_cases hr : r = d
    · subst hr; simp [setC, getC, hd, get_set]
    · simp [setC, getC, hd, hr, get_set]

/-- An affine register after a write (R98). -/
theorem getA_setA (s : State) (d r : AReg) (v : Affine) :
    getA (setA s d v) r = if r = d ∧ d.val ≠ 31 then v else getA s r := by
  by_cases hd : d.val = 31
  · simp [setA, hd]
  · by_cases hr : r = d
    · subst hr; simp [setA, getA, hd, get_set]
    · simp [setA, getA, hd, hr, get_set]

/-- A mask register after a write. -/
theorem getM_setM (s : State) (d r : MReg) (v : Mask) :
    getM (setM s d v) r = if r = d then v else getM s r := by
  simp [setM, getM, get_set]

/-- A write of a uniform register changes nothing else. -/
theorem setC_frame (s : State) (d : CReg) (v : Word) :
    setC s d v = { s with cur := { s.cur with c := (setC s d v).cur.c } } := by
  unfold setC; split <;> rfl

/-- A write of an affine register changes nothing else. -/
theorem setA_frame (s : State) (d : AReg) (v : Affine) :
    setA s d v = { s with cur := { s.cur with a := (setA s d v).cur.a } } := by
  unfold setA; split <;> rfl

/-! ## Varying registers -/

theorem vec_getD {α : Type} {n : Nat} (v : Vector α n) (i : Nat) (d : α) :
    v.getD i d = if h : i < n then v[i] else d := by
  unfold Vector.getD
  by_cases h : i < n <;> simp [h]

@[simp] theorem laneAt_mkLanes (f : Nat → Word) (l : Nat) (h : l < 32) : laneAt (mkLanes f) l = f l := by
  simp [laneAt, mkLanes, vec_getD, h]

@[simp] theorem laneAt_mergeLanes (act : Mask) (x y : Lanes) (l : Nat) (h : l < 32) :
    laneAt (mergeLanes act x y) l = if inMask act l then laneAt y l else laneAt x l := by
  simp [mergeLanes, laneAt, vec_getD, h]

@[simp] theorem laneAt_zero (l : Nat) : laneAt Lanes.zero l = 0 := by
  by_cases h : l < 32 <;> simp [laneAt, Lanes.zero, vec_getD, h]

/-- A varying register of a crew after a write: the hard-wired `vz` reads 0 always (R98, R119). -/
theorem vreg_putV (c : Crew) (d r : Nat) (act : Mask) (x : Lanes) (bad : Mask) (hd : d < 128) :
    (c.putV d act x bad).vreg r = if r = d ∧ d ≠ 127 then mergeLanes act (c.vreg d) x else c.vreg r := by
  by_cases h : 127 ≤ d
  · have : d = 127 := by omega
    simp [Crew.putV, this]
  · by_cases hr : r = d
    · subst hr
      have : r ≠ 127 := by omega
      simp [Crew.putV, Crew.vreg, vec_getD, h, this, hd]
    · by_cases h2 : 127 ≤ r
      · simp [Crew.vreg, h2, hr]
      · have : ¬ d = r := fun e => hr e.symm
        simp [Crew.putV, Crew.vreg, vec_getD, h, h2, hr, this]

/-- A write of a varying register changes nothing else of the crew. -/
theorem putV_frame (c : Crew) (d : Nat) (act : Mask) (x : Lanes) (bad : Mask) :
    c.putV d act x bad = { c with v := (c.putV d act x bad).v, poison := (c.putV d act x bad).poison } := by
  unfold Crew.putV; split <;> rfl

theorem inMask_maskOf_go (l : List Nat) (m : Mask) (k : Nat) (hk : k < 32) (hl : ∀ x ∈ l, x < 32) :
    (l.foldl (fun m i => m ||| BitVec.ofNat 32 (2 ^ i)) m).getLsbD k = (m.getLsbD k || decide (k ∈ l)) := by
  induction l generalizing m with
  | nil => simp
  | cons a l ih =>
    rw [List.foldl_cons, ih _ (fun x hx => hl x (List.mem_cons_of_mem _ hx))]
    have ha : a < 32 := hl a List.mem_cons_self
    have : (BitVec.ofNat 32 (2 ^ a)).getLsbD k = decide (k = a) := by
      simp only [BitVec.getLsbD_ofNat, Nat.testBit_two_pow]
      by_cases e : k = a
      · subst e; simp [hk]
      · simp [hk, e]; exact fun h => e h.symm
    rw [BitVec.getLsbD_or, this, Bool.or_assoc]
    simp only [List.mem_cons, Bool.decide_or]

/-- A lane is in the mask of a list of lanes when it is in the list. -/
theorem inMask_maskOf (l : List Nat) (k : Nat) (hk : k < 32) (hl : ∀ x ∈ l, x < 32) :
    inMask (maskOf l) k = decide (k ∈ l) := by
  unfold inMask maskOf
  rw [inMask_maskOf_go l 0 k hk hl]
  simp

/-- The lanes of a mask. -/
theorem mem_lanesOf (m : Mask) (l : Nat) : l ∈ lanesOf m ↔ l < 32 ∧ inMask m l = true := by
  simp [lanesOf]

end Sys2Proof.Machine
end

