-- ==== Sys2Proof/Laws/Issue.lean ====
section
/-! SUPPORT. What every instruction meets before its effect, said once: what a ready instruction does, what a held one does,
and the common ends of effects. -/

namespace Sys2Proof.Machine

open Sys2Proof

/-- A ready instruction does its own effect, and answers a next state. -/
theorem run_ready {s : State} {i : Instr} (h : Ready s i) (body : Mods → State → State) :
    run i s body = .next (body (curMods s) s) := by
  unfold run guard
  have ha : beyond s.cur (uses s i) (isNrq i) = [] := h.allotted
  simp only [h.alive, h.free, h.due, h.kept, h.hints, ha, ite_self, Option.none_or]
  rfl

/-- An instruction that is held changes nothing. -/
theorem run_held {s : State} {i : Instr} (ha : s.cur.alive = true) (hh : held s i = true) (body : Mods → State → State) :
    run i s body = .next s := by
  simp [run, ha, hh]

/-- Every run of an instruction with a crew at issue answers a next state. -/
theorem run_next {s : State} {i : Instr} (ha : s.cur.alive = true) (body : Mods → State → State) :
    ∃ t, run i s body = .next t := by
  simp [run, ha]

theorem needFull_full {s : State} (h : fullMask s = true) (k : State → State) : needFull s k = k s := by simp [needFull, h]
theorem needFull_part {s : State} (h : fullMask s = false) (k : State → State) : needFull s k = upartial s := by
  simp [needFull, h]

/-- A uniform destination needs a full mask unless it is `cz` (R101). -/
theorem needFullFor_ok {s : State} {d : CReg} (h : d.val = 63 ∨ fullMask s = true) (k : State → State) :
    needFullFor s d k = k s := by
  unfold needFullFor
  split
  · rfl
  · exact needFull_full (h.resolve_left ‹_›) k

/-- The uniform write that ends an instruction, as claims say it. -/
theorem setsUniform_of {s : State} {i : Instr} {d : CReg} {v : Word}
    (h : exec i s = .next (complete (setC s d v))) : SetsUniform s i d v (nextPc s) := by
  refine ⟨_, h, ?_, ?_⟩
  · intro r
    exact getC_setC s d r v
  · rw [setC_frame]; rfl

/-- A uniform result of a ready instruction. -/
theorem uniBody_ready {s : State} {i : Instr} (h : Ready s i) {d : CReg} (hd : d.val = 63 ∨ fullMask s = true)
    (f : Mods → State → Word) : run i s (uniBody d f) = .next (complete (setC s d (f (curMods s) s))) := by
  rw [run_ready h, uniBody, needFullFor_ok hd]

/-- The affine write that ends an instruction, as claims say it. -/
theorem setsAffine_of {s : State} {i : Instr} {d : AReg} {b : Word} {st : BitVec 32}
    (h : exec i s = .next (complete (setA s d ⟨b, st⟩))) : SetsAffine s i d b st := by
  refine ⟨_, h, ?_, ?_⟩
  · intro r
    exact getA_setA s d r ⟨b, st⟩
  · rw [setA_frame]; rfl

end Sys2Proof.Machine
end

