-- ==== Sys2Proof/Laws/Links.lean ====
section
/-! SUPPORT. What links, the crew at the issue stage, a quarter's turn and undo steps can do, said once. -/

namespace Sys2Proof.Machine

open Sys2Proof

/-- With no link retraining nothing waits for one (R393). -/
theorem linkHeld_none {s : State} (h : s.dev.retraining = []) (p : Port) (a : PA) : linkHeld s p a = false := by
  simp [linkHeld, h]
theorem outHeld_none {s : State} (h : s.dev.retraining = []) (a : Nat) : outHeld s a = false := by
  simp [outHeld, sendHeld, h]
theorem wbHeld_none {s : State} (h : s.dev.retraining = []) (p : Nat) (f : Line → Bool) : wbHeld s p f = false := by
  simp [wbHeld, h]
theorem releaseHeld_none {s : State} (h : s.dev.retraining = []) (p : Nat) (sc : Scope) : releaseHeld s p sc = false := by
  cases sc <;> simp [releaseHeld, wbHeld_none h]
theorem fillHeld_none {s : State} (h : s.dev.retraining = []) (p vln pln : Nat) : fillHeld s p vln pln = false := by
  simp [fillHeld, h]
theorem walkHeld_none {s : State} (h : s.dev.retraining = []) (p : Port) (va : Nat) : walkHeld s p va = false := by
  simp [walkHeld, h]
theorem granuleHeld_none {s : State} (h : s.dev.retraining = []) (g : Nat) : granuleHeld s g = false := by
  simp [granuleHeld, linkHeld_none h]
theorem linesHeld_none {s : State} (h : s.dev.retraining = []) (f : Line → Bool) : linesHeld s f = false := by
  simp [linesHeld, wbHeld_none h]
theorem groupHeld_none {s : State} (h : s.dev.retraining = []) (g : Nat) : groupHeld s g = false := by
  simp [groupHeld, h]
theorem copyBackHeld_none {s : State} (h : s.dev.retraining = []) (e : Shadow) : copyBackHeld s e = false := by
  simp [copyBackHeld, copyHeld, sendHeld, h]
theorem laneHeld_none {s : State} (h : s.dev.retraining = []) (p : Nat) (sc : Scope) (n : Nat) (l : LaneAcc) :
    laneHeld s p sc n l = false := by
  unfold laneHeld
  split <;> simp [linkHeld_none h, fillHeld_none h]
theorem behindLink_none {s : State} (h : s.dev.retraining = []) (p : Port) (va n : Nat) : behindLink s p va n = false := by
  simp [behindLink, h]
theorem mustWait_none {s : State} (h : s.dev.retraining = []) (p : Port) (va n : Nat) : mustWait s p va n = moving s va n := by
  simp [mustWait, behindLink_none h]
theorem mustHold_none {s : State} (h : s.dev.retraining = []) (p : Port) (va n : Nat) : mustHold s p va n = moving s va n := by
  simp [mustHold, mustWait_none h, h]
theorem commitHeld_none {s : State} (h : s.dev.retraining = []) : commitHeld s = false := by
  simp only [commitHeld, commitReads, behindLink_none h, Bool.and_false, Bool.false_or, List.any_eq_false]
  intro n _
  split <;> exact Bool.false_ne_true
theorem cut_none {s : State} (h : s.dev.retraining = []) (r : Render) (u d : Nat) : r.cut s u d = false := by
  simp [Render.cut, h]

/-- A crew that comes to the issue stage is the one that was named; nothing but the two places of crews changes. -/
theorem bringCrew_frame (s : State) (k : Crew) :
    (bringCrew s k).cur = k ∧ bringCrew s k = { s with cur := k, crews := (bringCrew s k).crews } := ⟨rfl, rfl⟩

theorem focusCid_next {s t : State} {cid : Nat} (h : focusCid s cid = some t) :
    t.cur.cid = cid ∧ t = { s with cur := t.cur, crews := t.crews } := by
  unfold focusCid at h
  split at h
  next e =>
    cases h
    simp only [Bool.and_eq_true, beq_iff_eq] at e
    exact ⟨e.2, rfl⟩
  next =>
    obtain ⟨k, hk, rfl⟩ := Option.map_eq_some_iff.1 h
    exact ⟨by simpa [bringCrew] using List.find?_some hk, rfl⟩

/-- A quarter whose turn is free, or whose instruction still runs, keeps it (R29, R57). -/
theorem releaseTurn_none {s : State} {p q : Nat} (h : (quarterAt s p q).turn = none) : releaseTurn s p q = s := by
  simp [releaseTurn, h]
theorem releaseTurn_busy {s : State} {p q : Nat} (h : 0 < (quarterAt s p q).busy) : releaseTurn s p q = s := by
  unfold releaseTurn
  split
  · rfl
  · split
    · rw [if_pos (by simp [h])]
    · rfl

/-- A rollback that is not in progress does nothing; one whose images are all back closes the interval (R392). -/
theorem rollStep_idle {s : State} (h : s.dev.ulBsy = false) : rollStep s = s := by simp [rollStep, h]
theorem rollStep_last {s : State} (h : s.dev.ulBsy = true) (e : s.dev.undo = []) :
    rollStep s = { s with dev := { s.dev with undo := [], ulBsy := false, ulNum := (s.dev.ulNum + 1) % 2 ^ 32 } } := by
  simp [rollStep, h, e, closeUndo, modDev]

end Sys2Proof.Machine
end

