-- ==== Sys2Proof/Laws/Mem.lean ====
section
/-! SUPPORT. The canonical form of memories: every operation on bytes keeps it, a byte reads back as written, and a write leaves
every other byte alone (R204, R207). -/

namespace Sys2Proof.Machine

open Sys2Proof

/-! ## One memory -/

theorem Mem.wfFrom_le {lo lo' : Nat} (h : lo' ≤ lo) : ∀ {m : Mem}, Mem.wfFrom lo m = true → Mem.wfFrom lo' m = true
  | [], _ => rfl
  | (k, b) :: m, hm => by
    simp only [Mem.wfFrom, Bool.and_eq_true, decide_eq_true_eq] at hm ⊢
    exact ⟨⟨Nat.le_trans h hm.1.1, hm.1.2⟩, hm.2⟩

/-- Writing a byte keeps the canonical form. -/
theorem Mem.wfFrom_write {lo a : Nat} (b : Byte) (h : lo ≤ a) : ∀ {m : Mem}, Mem.wfFrom lo m = true →
    Mem.wfFrom lo (m.write a b) = true := by
  intro m
  induction m generalizing lo with
  | nil =>
    intro _
    simp only [Mem.write]
    split
    · rfl
    · simp_all [Mem.wfFrom]
  | cons c m ih =>
    obtain ⟨k, x⟩ := c
    intro hm
    have hm' := hm
    simp only [Mem.wfFrom, Bool.and_eq_true, decide_eq_true_eq] at hm'
    obtain ⟨⟨hk, hx⟩, ht⟩ := hm'
    simp only [Mem.write]
    split
    · rename_i hak
      split
      · exact hm
      · simp only [Mem.wfFrom, Bool.and_eq_true, decide_eq_true_eq]
        exact ⟨⟨h, by simp_all⟩, ⟨by omega, hx⟩, ht⟩
    · split
      · rename_i _ hak
        subst hak
        split
        · exact Mem.wfFrom_le (Nat.le_succ_of_le h) ht
        · simp only [Mem.wfFrom, Bool.and_eq_true, decide_eq_true_eq]
          exact ⟨⟨h, by simp_all⟩, ht⟩
      · simp only [Mem.wfFrom, Bool.and_eq_true, decide_eq_true_eq]
        exact ⟨⟨hk, hx⟩, ih (by omega) ht⟩

theorem Mem.wf_write {m : Mem} (h : m.wf = true) (a : Nat) (b : Byte) : (m.write a b).wf = true :=
  Mem.wfFrom_write b (Nat.zero_le a) h

theorem Mem.wf_writes {m : Mem} (h : m.wf = true) (a : Nat) (bs : List Byte) : (m.writes a bs).wf = true := by
  induction bs generalizing m a with
  | nil => exact h
  | cons b bs ih => exact ih (Mem.wf_write h a b) (a + 1)

/-- Leaving cells out keeps the canonical form. -/
theorem Mem.wfFrom_filter (p : Host.Cell → Bool) : ∀ {m : Mem} {lo : Nat}, Mem.wfFrom lo m = true →
    Mem.wfFrom lo (m.filter p) = true
  | [], _, _ => rfl
  | (k, b) :: m, lo, h => by
    simp only [Mem.wfFrom, Bool.and_eq_true, decide_eq_true_eq] at h
    rw [List.filter_cons]
    split
    · simp only [Mem.wfFrom, Bool.and_eq_true, decide_eq_true_eq]
      exact ⟨h.1, Mem.wfFrom_filter p h.2⟩
    · exact Mem.wfFrom_le (by omega) (Mem.wfFrom_filter p h.2)

theorem Mem.wf_filter {m : Mem} (h : m.wf = true) (p : Host.Cell → Bool) : Mem.wf (m.filter p) = true := Mem.wfFrom_filter p h

theorem Mem.wf_range {m : Mem} (h : m.wf = true) (a n : Nat) : (m.range a n).wf = true := Mem.wf_filter h _

theorem Mem.wf_foldWrite {α : Type} (f : α → Nat) (g : α → Byte) (l : List α) {m : Mem} (h : m.wf = true) :
    Mem.wf (l.foldl (fun m c => m.write (f c) (g c)) m) = true := by
  induction l generalizing m with
  | nil => exact h
  | cons c l ih => exact ih (Mem.wf_write h _ _)

theorem Mem.wf_copyFrom {m : Mem} (h : m.wf = true) (d : Nat) (src : Mem) (a n : Nat) : (m.copyFrom d src a n).wf = true :=
  Mem.wf_foldWrite (fun c : Host.Cell => d + (c.1 - a)) (fun c => c.2) _ (Mem.wf_filter h _)

/-- Nothing is listed below the least key. -/
theorem Mem.read_below {a lo : Nat} (h : a < lo) : ∀ {m : Mem}, Mem.wfFrom lo m = true → m.read a = 0
  | [], _ => rfl
  | (k, b) :: m, hm => by
    simp only [Mem.wfFrom, Bool.and_eq_true, decide_eq_true_eq] at hm
    rw [Mem.read, if_neg (by omega)]
    exact Mem.read_below (Nat.lt_of_lt_of_le h (Nat.le_succ_of_le hm.1.1)) hm.2

/-- A byte reads back as written, and a write leaves every other byte alone. -/
theorem Mem.readFrom_write {lo : Nat} (a c : Nat) (b : Byte) : ∀ {m : Mem}, Mem.wfFrom lo m = true →
    (m.write a b).read c = if c = a then b else m.read c := by
  intro m
  induction m generalizing lo with
  | nil =>
    intro _
    simp only [Mem.write]
    split
    · subst_vars; simp [Mem.read]
    · simp only [Mem.read, eq_comm]
  | cons x m ih =>
    obtain ⟨k, y⟩ := x
    intro hm
    have h := hm
    simp only [Mem.wfFrom, Bool.and_eq_true, decide_eq_true_eq] at h
    simp only [Mem.write]
    split
    · rename_i hak
      have hr : Mem.read ((k, y) :: m) a = 0 :=
        Mem.read_below (lo := k) hak (by simp only [Mem.wfFrom, Bool.and_eq_true, decide_eq_true_eq]; exact ⟨⟨Nat.le_refl k, h.1.2⟩, h.2⟩)
      split
      · rename_i hb
        split
        · rename_i hc; rw [hc, hr, hb]
        · rfl
      · by_cases hc : c = a
        · rw [if_pos hc, Mem.read, if_pos hc.symm]
        · rw [if_neg hc, Mem.read, if_neg (Ne.symm hc)]
    · split
      · rename_i _ hak
        subst hak
        split
        · rename_i hb
          by_cases hc : c = a
          · rw [if_pos hc, hb, hc]; exact Mem.read_below (Nat.lt_succ_self a) h.2
          · rw [if_neg hc, Mem.read, if_neg (Ne.symm hc)]
        · by_cases hc : c = a
          · rw [if_pos hc, Mem.read, if_pos hc.symm]
          · rw [if_neg hc, Mem.read, if_neg (Ne.symm hc), Mem.read, if_neg (Ne.symm hc)]
      · rename_i h1 h2
        by_cases hk : k = c
        · subst hk; rw [Mem.read, if_pos rfl, if_neg (by omega), Mem.read, if_pos rfl]
        · rw [Mem.read, if_neg hk, ih h.2, Mem.read, if_neg hk]

theorem Mem.read_write {m : Mem} (h : m.wf = true) (a c : Nat) (b : Byte) :
    (m.write a b).read c = if c = a then b else m.read c := Mem.readFrom_write a c b h

/-- Bytes written in a row read back, and every byte outside them is as before. -/
theorem Mem.read_writes {m : Mem} (h : m.wf = true) (a c : Nat) (bs : List Byte) :
    (m.writes a bs).read c = if a ≤ c ∧ c < a + bs.length then bs.getD (c - a) 0 else m.read c := by
  induction bs generalizing m a with
  | nil => simp only [Mem.writes, List.length_nil]; rw [if_neg (by omega)]
  | cons b bs ih =>
    simp only [Mem.writes, List.length_cons]
    rw [ih (Mem.wf_write h a b), Mem.read_write h]
    by_cases h1 : c = a
    · subst h1
      rw [if_neg (by omega), if_pos rfl, if_pos (by omega), Nat.sub_self]; rfl
    · by_cases h2 : a + 1 ≤ c ∧ c < a + 1 + bs.length
      · rw [if_pos h2, if_pos (by omega)]
        have : c - a = (c - (a + 1)) + 1 := by omega
        rw [this]; rfl
      · rw [if_neg h2, if_neg h1, if_neg (by omega)]

/-! ## Keyed lists -/

theorem mem_kset {α : Type} {l : List (Nat × α)} {a : Nat} {v : α} {x : Nat × α} (h : x ∈ kset l a v) : x = (a, v) ∨ x ∈ l := by
  induction l with
  | nil => simpa [kset] using h
  | cons c l ih =>
    obtain ⟨k, w⟩ := c
    simp only [kset] at h
    split at h
    · simpa using h
    · split at h
      · rcases List.mem_cons.1 h with h | h
        · exact .inl h
        · exact .inr (List.mem_cons_of_mem _ h)
      · rcases List.mem_cons.1 h with h | h
        · exact .inr (h ▸ List.mem_cons_self)
        · rcases ih h with h | h
          · exact .inl h
          · exact .inr (List.mem_cons_of_mem _ h)

theorem mem_of_kget {α : Type} {l : List (Nat × α)} {a : Nat} {v : α} (h : kget l a = some v) : (a, v) ∈ l := by
  induction l with
  | nil => simp [kget] at h
  | cons c l ih =>
    obtain ⟨k, w⟩ := c
    simp only [kget] at h
    split at h
    · cases h; subst_vars; exact List.mem_cons_self
    · exact List.mem_cons_of_mem _ (ih h)

theorem kget_kset {α : Type} (l : List (Nat × α)) (a b : Nat) (v : α) :
    kget (kset l a v) b = if b = a then some v else kget l b := by
  have put (l : List (Nat × α)) : kget ((a, v) :: l) b = if b = a then some v else kget l b := by
    rw [kget]
    by_cases h : a = b
    · rw [if_pos h, if_pos h.symm]
    · rw [if_neg h, if_neg (Ne.symm h)]
  induction l with
  | nil => exact put []
  | cons c l ih =>
    obtain ⟨k, w⟩ := c
    rw [kset]
    split
    · exact put _
    · split
      · rename_i _ h
        rw [put, kget]
        by_cases hb : b = a
        · rw [if_pos hb, if_pos hb]
        · rw [if_neg hb, if_neg hb, if_neg fun e => hb (by omega)]
      · rename_i _ h
        rw [kget, kget, ih]
        by_cases hb : k = b
        · rw [if_pos hb, if_neg fun e => h (by omega), if_pos hb]
        · rw [if_neg hb, if_neg hb]

@[simp] theorem kgetD_kset_self {α : Type} (l : List (Nat × α)) (a : Nat) (v d : α) : kgetD (kset l a v) a d = v := by
  simp only [kgetD, kget_kset, if_true, Option.getD_some]

theorem kgetD_kset {α : Type} (l : List (Nat × α)) (a b : Nat) (v d : α) :
    kgetD (kset l a v) b d = if b = a then v else kgetD l b d := by
  simp only [kgetD, kget_kset]
  split <;> rfl

@[simp] theorem coreAt_modCore (s : State) (p : Nat) (f : Core → Core) : coreAt (modCore s p f) p = f (coreAt s p) :=
  kgetD_kset_self _ _ _ _

theorem coreAt_modCore_ne (s : State) {p q : Nat} (f : Core → Core) (h : q ≠ p) : coreAt (modCore s p f) q = coreAt s q := by
  simp only [coreAt, modCore, kgetD_kset, if_neg h]

/-- A default that is canonical makes every entry canonical. -/
theorem wf_kgetD {l : List (Nat × Mem)} (h : ∀ x ∈ l, x.2.wf = true) (a : Nat) : (kgetD l a []).wf = true := by
  unfold kgetD
  cases e : kget l a with
  | none => rfl
  | some m => exact h _ (mem_of_kget e)

theorem tstore_wf_coreAt {s : State} (h : ∀ x ∈ s.cores, x.2.tstore.wf = true) (p : Nat) : (coreAt s p).tstore.wf = true := by
  unfold coreAt kgetD
  cases e : kget s.cores p with
  | none => rfl
  | some m => exact h _ (mem_of_kget e)

/-! ## The state's memories -/

/-- An update that leaves every memory as it is keeps the canonical form. -/
theorem canonical_of_eq {s t : State} (h : MemoriesCanonical s) (hl : t.loc = s.loc) (hs : t.sys = s.sys) (hp : t.peers = s.peers)
    (hw : t.weights = s.weights) (hb : t.blocks = s.blocks) (hc : t.cores = s.cores) (hr : t.ctr.spare = s.ctr.spare) :
    MemoriesCanonical t := by
  unfold MemoriesCanonical
  rw [hl, hs, hp, hw, hb, hc, hr]
  exact h

theorem canonical_modCur {s : State} (h : MemoriesCanonical s) (f : Crew → Crew) : MemoriesCanonical (modCur s f) := h

/-- A core changed elsewhere than in its tile store, or to a canonical one. -/
theorem canonical_modCore {s : State} (h : MemoriesCanonical s) (p : Nat) {f : Core → Core}
    (hf : ∀ c, c.tstore.wf = true → (f c).tstore.wf = true) : MemoriesCanonical (modCore s p f) := by
  obtain ⟨hl, hs, hp, hw, hb, hc, hr⟩ := h
  refine ⟨hl, hs, hp, hw, hb, ?_, hr⟩
  intro x hx
  rcases mem_kset hx with rfl | hx
  · exact hf _ (tstore_wf_coreAt hc p)
  · exact hc x hx

/-- A block changed elsewhere than in its scratchpad, or to a canonical one. -/
theorem canonical_modBlock {s : State} (h : MemoriesCanonical s) (k : Nat) {f : Block → Block}
    (hf : ∀ b, b.scratch.wf = true → (f b).scratch.wf = true) : MemoriesCanonical (modBlock s k f) := by
  obtain ⟨hl, hs, hp, hw, hb, hc, hr⟩ := h
  refine ⟨hl, hs, hp, hw, ?_, hc, hr⟩
  intro x hx
  obtain ⟨b, hb', rfl⟩ := List.mem_map.1 hx
  split
  · exact hf b (hb b hb')
  · exact hb b hb'

theorem canonical_loc {s : State} (h : MemoriesCanonical s) {m : Mem} (hm : m.wf = true) : MemoriesCanonical { s with loc := m } :=
  ⟨hm, h.2⟩

/-- An update that leaves every memory but a canonical local one as it is keeps the form. -/
theorem canonical_of_loc {s t : State} (h : MemoriesCanonical s) (hm : t.loc.wf = true) (hs : t.sys = s.sys)
    (hp : t.peers = s.peers) (hw : t.weights = s.weights) (hb : t.blocks = s.blocks) (hc : t.cores = s.cores)
    (hr : t.ctr.spare = s.ctr.spare) : MemoriesCanonical t := by
  unfold MemoriesCanonical
  rw [hs, hp, hw, hb, hc, hr]
  exact ⟨hm, h.2⟩

theorem Mem.wf_ite {c : Prop} [Decidable c] {a b : Mem} (ha : a.wf = true) (hb : b.wf = true) : (if c then a else b).wf = true := by
  split
  · exact ha
  · exact hb

theorem canonical_undoLog {s : State} (h : MemoriesCanonical s) (a : Nat) : MemoriesCanonical (undoLog s a) := by
  unfold undoLog
  dsimp only
  split
  · exact h
  · refine canonical_of_loc h ?_ rfl rfl rfl rfl rfl rfl
    exact Mem.wf_ite (Mem.wf_writes h.1 _ _) h.1

theorem canonical_locWrite {s : State} (h : MemoriesCanonical s) (a : Nat) (b : Byte) : MemoriesCanonical (locWrite s a b) := by
  unfold locWrite
  split
  · exact canonical_loc (canonical_undoLog h _) (Mem.wf_write (canonical_undoLog h _).1 _ _)
  · exact h

theorem canonical_setDirtyBit {s : State} (h : MemoriesCanonical s) (i : Bool) (g : Nat) (v : Bool) :
    MemoriesCanonical (setDirtyBit s i g v) := by
  unfold setDirtyBit
  split
  · exact h
  · exact canonical_locWrite h _ _

theorem canonical_sendGranule {s : State} (h : MemoriesCanonical s) (g : Nat) : MemoriesCanonical (sendGranule s g) :=
  ⟨h.1, Mem.wf_copyFrom h.2.1 _ _ _ _, h.2.2⟩

theorem canonical_touchGranule (n : Nat) {s : State} (h : MemoriesCanonical s) (seen : List Nat) (g : Nat) :
    MemoriesCanonical (touchGranule n seen s g) := by
  induction n generalizing s seen g with
  | zero => exact h
  | succ n ih =>
    unfold touchGranule
    split
    · exact h
    · have h1 : MemoriesCanonical (if streaming s && dirtyBit s (!s.xl.sel) g then
          setDirtyBit (touchGranule n (g :: seen) (sendGranule s g) (bitGranule s (!s.xl.sel) g)) (!s.xl.sel) g false
        else s) := by
        split
        · exact canonical_setDirtyBit (ih (canonical_sendGranule h g) _ _) _ _ _
        · exact h
      dsimp only
      generalize (if streaming s && dirtyBit s (!s.xl.sel) g then
          setDirtyBit (touchGranule n (g :: seen) (sendGranule s g) (bitGranule s (!s.xl.sel) g)) (!s.xl.sel) g false
        else s) = t at h1 ⊢
      split
      · exact h1
      · exact canonical_setDirtyBit (ih h1 _ _) _ _ _

theorem canonical_markDirty {s : State} (h : MemoriesCanonical s) (a : Nat) : MemoriesCanonical (markDirty s a) :=
  canonical_touchGranule 8 h [] _

/-- A byte of local memory written at its home, with the dirty map and the undo log that go with it. -/
theorem canonical_homeWrite {s : State} (h : MemoriesCanonical s) (a : Nat) (b : Byte) : MemoriesCanonical (homeWrite s a b) := by
  unfold homeWrite
  dsimp only
  have h1 : MemoriesCanonical (if shadowed s a then s else markDirty s a) := by
    split
    · exact h
    · exact canonical_markDirty h a
  exact canonical_locWrite h1 _ _

/-- A byte written at its home, whatever memory that is. -/
theorem canonical_paWrite {s : State} (h : MemoriesCanonical s) (p : PA) (b : Byte) : MemoriesCanonical (paWrite s p b) := by
  unfold paWrite
  split
  · exact canonical_homeWrite h _ _
  · exact ⟨h.1, Mem.wf_write h.2.1 _ _, h.2.2⟩
  · obtain ⟨hl, hs, hp, hw, hb, hc, hr⟩ := h
    refine ⟨hl, hs, ?_, hw, hb, hc, hr⟩
    intro x hx
    rcases mem_kset hx with rfl | hx
    · exact Mem.wf_write (wf_kgetD hp _) _ _
    · exact hp x hx
  · exact canonical_modBlock h _ fun _ hb => Mem.wf_write hb _ _
  · exact canonical_modCore h _ fun _ hc => Mem.wf_write hc _ _
  · obtain ⟨hl, hs, hp, hw, hb, hc, hr⟩ := h
    refine ⟨hl, hs, hp, ?_, hb, hc, hr⟩
    intro x hx
    rcases mem_kset hx with rfl | hx
    · exact Mem.wf_write (wf_kgetD hw _) _ _
    · exact hw x hx

theorem canonical_paWrites {s : State} (h : MemoriesCanonical s) (p : PA) (bs : List Byte) : MemoriesCanonical (paWrites s p bs) := by
  induction bs generalizing s p with
  | nil => exact h
  | cons b bs ih => exact ih (canonical_paWrite h p b) (p.off 1)

/-- A fold of updates that each keep the form keeps it. -/
theorem canonical_foldl {α : Type} {f : State → α → State} (hf : ∀ s x, MemoriesCanonical s → MemoriesCanonical (f s x))
    (l : List α) {s : State} (h : MemoriesCanonical s) : MemoriesCanonical (l.foldl f s) := by
  induction l generalizing s with
  | nil => exact h
  | cons x l ih => exact ih (hf s x h)

end Sys2Proof.Machine
end

