-- ==== Sys2Proof/Laws/PerInstr.lean ====
section
/-! SUPPORT. Statements about every instruction, one lemma per constructor.

Family `Fits`: an instruction's word is one of 32 bits (R36). -/

namespace Sys2Proof

theorem IntTy.code_lt (t : IntTy) : t.code < 4 := by cases t <;> decide
theorem FltTy.low_lt (t : FltTy) : t.low < 4 := by cases t <;> decide
theorem FltTy.code_lt (t : FltTy) : t.code < 8 := by cases t <;> decide
theorem ElTy.code_lt (t : ElTy) : t.code < 8 := by
  cases t with
  | int t => exact Nat.lt_trans t.code_lt (by decide)
  | flt t => exact t.code_lt
theorem SfuTy.code_lt (t : SfuTy) : t.code < 3 := by cases t <;> decide
theorem Size.code_lt (z : Size) : z.code < 5 := by cases z <;> decide
theorem Rel.code_lt (r : Rel) : r.code < 4 := by cases r <;> decide
theorem RedOp.code_lt (o : RedOp) : o.code < 4 := by cases o <;> decide
theorem MaskSel.code_lt (m : MaskSel) : m.code < 10 := by
  cases m with
  | m k => exact Nat.lt_of_lt_of_le k.isLt (by decide)
  | _ => decide
theorem SReg.selector_lt (r : SReg) : r.selector < 1024 := by
  cases r <;> simp only [SReg.selector] <;> omega
theorem msz_lt (z : Size) (x s : Bool) : msz z x s < 32 := by
  have h := z.code_lt
  cases x <;> cases s <;> simp only [msz, Bool.toNat_true, Bool.toNat_false] <;> omega
theorem asz_lt (w : Bool) {op : Nat} (h : op < 16) : asz w op < 32 := by
  cases w <;> simp only [asz, Bool.toNat_true, Bool.toNat_false] <;> omega
theorem Src.bits_lt (b : Src) : b.bits < 2 ^ 12 - 7 := by
  cases b <;> simp only [Src.bits] <;> omega
theorem Idx.bits_lt (x : Idx) : x.bits ≤ 2 ^ 13 - 32 := by
  cases x <;> simp only [Idx.bits] <;> omega

/-- Every field is within its width (R37). -/
def Fields.Fits : Fields → Prop
  | .fmtV maj d a _ et => maj < 64 ∧ d < 128 ∧ a < 128 ∧ et < 8
  | .fmtVS maj d a b sub => maj < 64 ∧ d < 128 ∧ a < 128 ∧ b < 128 ∧ sub < 32
  | .fmtC maj d a b sub => maj < 64 ∧ d < 64 ∧ a < 64 ∧ b < 64 ∧ sub < 256
  | .fmtCI maj d a imm => maj < 64 ∧ d < 64 ∧ a < 64 ∧ imm < 2 ^ 14
  | .fmtA maj d a c b sub => maj < 64 ∧ d < 32 ∧ a < 32 ∧ c < 64 ∧ b < 32 ∧ sub < 32
  | .fmtM maj d _ z => maj < 64 ∧ d < 128 ∧ z < 32
  | .fmtB maj t cond off => maj < 64 ∧ t < 64 ∧ cond < 4 ∧ off < 2 ^ 18
  | .fmtBV maj k off => maj < 64 ∧ k < 8 ∧ off < 2 ^ 23
  | .fmtX maj t a b shape kind => maj < 64 ∧ t < 32 ∧ a < 64 ∧ b < 64 ∧ shape < 32 ∧ kind < 16
  | .fmtS maj c sel => maj < 64 ∧ c < 64 ∧ sel < 1024
  | .fmtH hk p => hk < 4 ∧ p < 2 ^ 24

/-- Fields within their widths make a word of 32 bits. -/
theorem Fields.word_lt {f : Fields} (h : f.Fits) : f.word < 2 ^ 32 := by
  cases f with
  | fmtV maj d a b et => have := b.bits_lt; simp only [Fields.Fits, Fields.word] at *; omega
  | fmtM maj d m z =>
    have := m.idx.bits_lt; have := m.base.isLt; simp only [Fields.Fits, Fields.word] at *; omega
  | _ => simp only [Fields.Fits, Fields.word] at *; omega

end Sys2Proof

namespace Sys2Proof.Laws.Fits

/-- The instruction's word, if it has one, has 32 bits (R36). -/
def Statement (i : Instr) : Prop := ∀ w, encode i = some w → w < 2 ^ 32

theorem of_fields {i : Instr} {f : Fields} (h : i.fields = some f) (hf : f.Fits) : Statement i := by
  intro w hw
  rw [encode, h, Option.map_some, Option.some.injEq] at hw
  exact hw ▸ Fields.word_lt hf

theorem of_none {i : Instr} (h : i.fields = none) : Statement i := by
  intro w hw
  rw [encode, h] at hw
  cases hw

theorem br (o : BitVec 18) : Statement (.br o) :=
  of_fields rfl (by simp only [Fields.Fits]; omega)
theorem brcZ (t : CReg) (o : BitVec 18) : Statement (.brcZ t o) :=
  of_fields rfl (by simp only [Fields.Fits]; omega)
theorem brcNz (t : CReg) (o : BitVec 18) : Statement (.brcNz t o) :=
  of_fields rfl (by simp only [Fields.Fits]; omega)
theorem brcNeg (t : CReg) (o : BitVec 18) : Statement (.brcNeg t o) :=
  of_fields rfl (by simp only [Fields.Fits]; omega)
theorem brv (m : MReg) (o : BitVec 23) : Statement (.brv m o) :=
  of_fields rfl (by simp only [Fields.Fits]; omega)
theorem call (l : CReg) (o : BitVec 18) : Statement (.call l o) :=
  of_fields rfl (by simp only [Fields.Fits]; omega)
theorem nop : Statement (.nop) :=
  of_fields rfl (by simp only [Fields.Fits]; omega)
theorem jmpi (a : CReg) : Statement (.jmpi a) :=
  of_fields rfl (by simp only [Fields.Fits]; omega)
theorem ret (a : CReg) : Statement (.ret a) :=
  of_fields rfl (by simp only [Fields.Fits]; omega)
theorem elect (m : MReg) : Statement (.elect m) :=
  of_fields rfl (by simp only [Fields.Fits]; omega)
theorem yield : Statement (.yield) :=
  of_fields rfl (by simp only [Fields.Fits]; omega)
theorem endd : Statement (.endd) :=
  of_fields rfl (by simp only [Fields.Fits]; omega)
theorem trap (a : CReg) : Statement (.trap a) :=
  of_fields rfl (by simp only [Fields.Fits]; omega)
theorem rft : Statement (.rft) :=
  of_fields rfl (by simp only [Fields.Fits]; omega)
theorem pdone : Statement (.pdone) :=
  of_fields rfl (by simp only [Fields.Fits]; omega)
theorem wcnt (a : CReg) : Statement (.wcnt a) :=
  of_fields rfl (by simp only [Fields.Fits]; omega)
theorem sigchk : Statement (.sigchk) :=
  of_fields rfl (by simp only [Fields.Fits]; omega)
theorem sread (d : CReg) (r : SReg) : Statement (.sread d r) :=
  of_fields rfl (by have := r.selector_lt; simp only [Fields.Fits]; omega)
theorem swrite (c : CReg) (r : SReg) : Statement (.swrite c r) :=
  of_fields rfl (by have := r.selector_lt; simp only [Fields.Fits]; omega)
theorem mcfgWrite (c : CReg) : Statement (.mcfgWrite c) :=
  of_fields rfl (by simp only [Fields.Fits]; omega)
theorem ftmapWrite (c : CReg) : Statement (.ftmapWrite c) :=
  of_fields rfl (by simp only [Fields.Fits]; omega)
theorem cadd (d : CReg) (a : CReg) (b : CReg) : Statement (.cadd d a b) :=
  of_fields rfl (by simp only [Fields.Fits]; omega)
theorem caddImm (d : CReg) (a : CReg) (i : BitVec 14) : Statement (.caddImm d a i) :=
  of_fields rfl (by simp only [Fields.Fits]; omega)
theorem csub (d : CReg) (a : CReg) (b : CReg) : Statement (.csub d a b) :=
  of_fields rfl (by simp only [Fields.Fits]; omega)
theorem cmul (d : CReg) (a : CReg) (b : CReg) : Statement (.cmul d a b) :=
  of_fields rfl (by simp only [Fields.Fits]; omega)
theorem cmulh (d : CReg) (a : CReg) (b : CReg) : Statement (.cmulh d a b) :=
  of_fields rfl (by simp only [Fields.Fits]; omega)
theorem cmad (d : CReg) (a : CReg) (b : CReg) : Statement (.cmad d a b) :=
  of_fields rfl (by simp only [Fields.Fits]; omega)
theorem cand (d : CReg) (a : CReg) (b : CReg) : Statement (.cand d a b) :=
  of_fields rfl (by simp only [Fields.Fits]; omega)
theorem cor (d : CReg) (a : CReg) (b : CReg) : Statement (.cor d a b) :=
  of_fields rfl (by simp only [Fields.Fits]; omega)
theorem cxor (d : CReg) (a : CReg) (b : CReg) : Statement (.cxor d a b) :=
  of_fields rfl (by simp only [Fields.Fits]; omega)
theorem cnot (d : CReg) (a : CReg) : Statement (.cnot d a) :=
  of_fields rfl (by simp only [Fields.Fits]; omega)
theorem cshl (d : CReg) (a : CReg) (b : CReg) : Statement (.cshl d a b) :=
  of_fields rfl (by simp only [Fields.Fits]; omega)
theorem cshr (d : CReg) (a : CReg) (b : CReg) : Statement (.cshr d a b) :=
  of_fields rfl (by simp only [Fields.Fits]; omega)
theorem csar (d : CReg) (a : CReg) (b : CReg) : Statement (.csar d a b) :=
  of_fields rfl (by simp only [Fields.Fits]; omega)
theorem cmin (d : CReg) (a : CReg) (b : CReg) : Statement (.cmin d a b) :=
  of_fields rfl (by simp only [Fields.Fits]; omega)
theorem cminu (d : CReg) (a : CReg) (b : CReg) : Statement (.cminu d a b) :=
  of_fields rfl (by simp only [Fields.Fits]; omega)
theorem cmax (d : CReg) (a : CReg) (b : CReg) : Statement (.cmax d a b) :=
  of_fields rfl (by simp only [Fields.Fits]; omega)
theorem cmaxu (d : CReg) (a : CReg) (b : CReg) : Statement (.cmaxu d a b) :=
  of_fields rfl (by simp only [Fields.Fits]; omega)
theorem ccmpEq (d : CReg) (a : CReg) (b : CReg) : Statement (.ccmpEq d a b) :=
  of_fields rfl (by simp only [Fields.Fits]; omega)
theorem ccmpNe (d : CReg) (a : CReg) (b : CReg) : Statement (.ccmpNe d a b) :=
  of_fields rfl (by simp only [Fields.Fits]; omega)
theorem ccmpLt (d : CReg) (a : CReg) (b : CReg) : Statement (.ccmpLt d a b) :=
  of_fields rfl (by simp only [Fields.Fits]; omega)
theorem ccmpLe (d : CReg) (a : CReg) (b : CReg) : Statement (.ccmpLe d a b) :=
  of_fields rfl (by simp only [Fields.Fits]; omega)
theorem ccmpLtu (d : CReg) (a : CReg) (b : CReg) : Statement (.ccmpLtu d a b) :=
  of_fields rfl (by simp only [Fields.Fits]; omega)
theorem ccmpLeu (d : CReg) (a : CReg) (b : CReg) : Statement (.ccmpLeu d a b) :=
  of_fields rfl (by simp only [Fields.Fits]; omega)
theorem csel (d : CReg) (a : CReg) (b : CReg) : Statement (.csel d a b) :=
  of_fields rfl (by simp only [Fields.Fits]; omega)
theorem cmov (d : CReg) (a : CReg) : Statement (.cmov d a) :=
  of_fields rfl (by simp only [Fields.Fits]; omega)
theorem cbfe (d : CReg) (a : CReg) (b : CReg) : Statement (.cbfe d a b) :=
  of_fields rfl (by simp only [Fields.Fits]; omega)
theorem cpopc (d : CReg) (a : CReg) : Statement (.cpopc d a) :=
  of_fields rfl (by simp only [Fields.Fits]; omega)
theorem cclz (d : CReg) (a : CReg) : Statement (.cclz d a) :=
  of_fields rfl (by simp only [Fields.Fits]; omega)
theorem amov (d : AReg) (a : AReg) : Statement (.amov d a) :=
  of_fields rfl (by simp only [Fields.Fits]; omega)
theorem aidx (d : AReg) (c : CReg) : Statement (.aidx d c) :=
  of_fields rfl (by simp only [Fields.Fits]; omega)
theorem aaddA (d : AReg) (a : AReg) (b : AReg) : Statement (.aaddA d a b) :=
  of_fields rfl (by simp only [Fields.Fits]; omega)
theorem aaddC (d : AReg) (a : AReg) (c : CReg) : Statement (.aaddC d a c) :=
  of_fields rfl (by simp only [Fields.Fits]; omega)
theorem asubA (d : AReg) (a : AReg) (b : AReg) : Statement (.asubA d a b) :=
  of_fields rfl (by simp only [Fields.Fits]; omega)
theorem asubC (d : AReg) (a : AReg) (c : CReg) : Statement (.asubC d a c) :=
  of_fields rfl (by simp only [Fields.Fits]; omega)
theorem amul (d : AReg) (a : AReg) (c : CReg) : Statement (.amul d a c) :=
  of_fields rfl (by simp only [Fields.Fits]; omega)
theorem ashl (d : AReg) (a : AReg) (c : CReg) : Statement (.ashl d a c) :=
  of_fields rfl (by simp only [Fields.Fits]; omega)
theorem lca (d : AReg) (a : CReg) : Statement (.lca d a) :=
  of_fields rfl (by simp only [Fields.Fits]; omega)
theorem lcv (d : VReg) (a : CReg) : Statement (.lcv d a) :=
  of_fields rfl (by simp only [Fields.Fits]; omega)
theorem lav (d : VReg) (a : AReg) : Statement (.lav d a) :=
  of_fields rfl (by simp only [Fields.Fits]; omega)
theorem lvc (d : CReg) (a : VReg) : Statement (.lvc d a) :=
  of_fields rfl (by simp only [Fields.Fits]; omega)
theorem lvcx (d : CReg) (a : VReg) : Statement (.lvcx d a) :=
  of_fields rfl (by simp only [Fields.Fits]; omega)
theorem growV (d : CReg) (a : CReg) : Statement (.growV d a) :=
  of_fields rfl (by simp only [Fields.Fits]; omega)
theorem growT (d : CReg) (a : CReg) : Statement (.growT d a) :=
  of_fields rfl (by simp only [Fields.Fits]; omega)
theorem shrinkV (d : CReg) (a : CReg) : Statement (.shrinkV d a) :=
  of_fields rfl (by simp only [Fields.Fits]; omega)
theorem shrinkT (d : CReg) (a : CReg) : Statement (.shrinkT d a) :=
  of_fields rfl (by simp only [Fields.Fits]; omega)
theorem qbind (k : MReg) (a : CReg) : Statement (.qbind k a) :=
  of_fields rfl (by simp only [Fields.Fits]; omega)
theorem qstat (d : CReg) (k : MReg) : Statement (.qstat d k) :=
  of_fields rfl (by simp only [Fields.Fits]; omega)
theorem cpy (a : CReg) : Statement (.cpy a) :=
  of_fields rfl (by simp only [Fields.Fits]; omega)
theorem cpyw (a : CReg) (b : CReg) : Statement (.cpyw a b) :=
  of_fields rfl (by simp only [Fields.Fits]; omega)
theorem tcpy (a : CReg) : Statement (.tcpy a) :=
  of_fields rfl (by simp only [Fields.Fits]; omega)
theorem lnch (d : CReg) (a : CReg) : Statement (.lnch d a) :=
  of_fields rfl (by simp only [Fields.Fits]; omega)
theorem bar (a : CReg) : Statement (.bar a) :=
  of_fields rfl (by simp only [Fields.Fits]; omega)
theorem bara (d : CReg) (a : CReg) : Statement (.bara d a) :=
  of_fields rfl (by simp only [Fields.Fits]; omega)
theorem bare (a : CReg) (b : CReg) : Statement (.bare a b) :=
  of_fields rfl (by simp only [Fields.Fits]; omega)
theorem barw (a : CReg) (b : CReg) : Statement (.barw a b) :=
  of_fields rfl (by simp only [Fields.Fits]; omega)
theorem wait (a : CReg) (b : CReg) : Statement (.wait a b) :=
  of_fields rfl (by simp only [Fields.Fits]; omega)
theorem waitExt (a : CReg) (b : CReg) : Statement (.waitExt a b) :=
  of_fields rfl (by simp only [Fields.Fits]; omega)
theorem vadd (d : VReg) (a : VReg) (b : Src) (t : IntTy) : Statement (.vadd d a b t) :=
  of_fields rfl (by have := t.code_lt; simp only [Fields.Fits]; omega)
theorem fadd (d : VReg) (a : VReg) (b : Src) (t : FltTy) : Statement (.fadd d a b t) :=
  of_fields rfl (by have := t.code_lt; simp only [Fields.Fits]; omega)
theorem vsub (d : VReg) (a : VReg) (b : Src) (t : IntTy) : Statement (.vsub d a b t) :=
  of_fields rfl (by have := t.code_lt; simp only [Fields.Fits]; omega)
theorem fsub (d : VReg) (a : VReg) (b : Src) (t : FltTy) : Statement (.fsub d a b t) :=
  of_fields rfl (by have := t.code_lt; simp only [Fields.Fits]; omega)
theorem vmul (d : VReg) (a : VReg) (b : Src) (t : IntTy) : Statement (.vmul d a b t) :=
  of_fields rfl (by have := t.code_lt; simp only [Fields.Fits]; omega)
theorem fmul (d : VReg) (a : VReg) (b : Src) (t : FltTy) : Statement (.fmul d a b t) :=
  of_fields rfl (by have := t.code_lt; simp only [Fields.Fits]; omega)
theorem vmulh (d : VReg) (a : VReg) (b : Src) (t : IntTy) : Statement (.vmulh d a b t) :=
  of_fields rfl (by have := t.code_lt; simp only [Fields.Fits]; omega)
theorem vmad (d : VReg) (a : VReg) (b : Src) (t : IntTy) : Statement (.vmad d a b t) :=
  of_fields rfl (by have := t.code_lt; simp only [Fields.Fits]; omega)
theorem ffma (d : VReg) (a : VReg) (b : Src) (t : FltTy) : Statement (.ffma d a b t) :=
  of_fields rfl (by have := t.code_lt; simp only [Fields.Fits]; omega)
theorem vand (d : VReg) (a : VReg) (b : Src) (t : IntTy) : Statement (.vand d a b t) :=
  of_fields rfl (by have := t.code_lt; simp only [Fields.Fits]; omega)
theorem vor (d : VReg) (a : VReg) (b : Src) (t : IntTy) : Statement (.vor d a b t) :=
  of_fields rfl (by have := t.code_lt; simp only [Fields.Fits]; omega)
theorem vxor (d : VReg) (a : VReg) (b : Src) (t : IntTy) : Statement (.vxor d a b t) :=
  of_fields rfl (by have := t.code_lt; simp only [Fields.Fits]; omega)
theorem vshl (d : VReg) (a : VReg) (b : Src) (t : IntTy) : Statement (.vshl d a b t) :=
  of_fields rfl (by have := t.code_lt; simp only [Fields.Fits]; omega)
theorem vshr (d : VReg) (a : VReg) (b : Src) (t : IntTy) : Statement (.vshr d a b t) :=
  of_fields rfl (by have := t.code_lt; simp only [Fields.Fits]; omega)
theorem vsar (d : VReg) (a : VReg) (b : Src) (t : IntTy) : Statement (.vsar d a b t) :=
  of_fields rfl (by have := t.code_lt; simp only [Fields.Fits]; omega)
theorem vmin (d : VReg) (a : VReg) (b : Src) (t : IntTy) : Statement (.vmin d a b t) :=
  of_fields rfl (by have := t.code_lt; simp only [Fields.Fits]; omega)
theorem fmin (d : VReg) (a : VReg) (b : Src) (t : FltTy) : Statement (.fmin d a b t) :=
  of_fields rfl (by have := t.code_lt; simp only [Fields.Fits]; omega)
theorem vminu (d : VReg) (a : VReg) (b : Src) (t : IntTy) : Statement (.vminu d a b t) :=
  of_fields rfl (by have := t.code_lt; simp only [Fields.Fits]; omega)
theorem vmax (d : VReg) (a : VReg) (b : Src) (t : IntTy) : Statement (.vmax d a b t) :=
  of_fields rfl (by have := t.code_lt; simp only [Fields.Fits]; omega)
theorem fmax (d : VReg) (a : VReg) (b : Src) (t : FltTy) : Statement (.fmax d a b t) :=
  of_fields rfl (by have := t.code_lt; simp only [Fields.Fits]; omega)
theorem vmaxu (d : VReg) (a : VReg) (b : Src) (t : IntTy) : Statement (.vmaxu d a b t) :=
  of_fields rfl (by have := t.code_lt; simp only [Fields.Fits]; omega)
theorem vbfe (d : VReg) (a : VReg) (b : Src) (t : Bit1) : Statement (.vbfe d a b t) :=
  of_fields rfl (by simp only [Fields.Fits]; omega)
theorem vbfi (d : VReg) (a : VReg) (b : Src) (t : Bit1) : Statement (.vbfi d a b t) :=
  of_fields rfl (by simp only [Fields.Fits]; omega)
theorem vnot (d : VReg) (a : VReg) (t : IntTy) : Statement (.vnot d a t) :=
  of_fields rfl (by have := t.code_lt; simp only [Fields.Fits]; omega)
theorem vabs (d : VReg) (a : VReg) (t : IntTy) : Statement (.vabs d a t) :=
  of_fields rfl (by have := t.code_lt; simp only [Fields.Fits]; omega)
theorem vneg (d : VReg) (a : VReg) (t : IntTy) : Statement (.vneg d a t) :=
  of_fields rfl (by have := t.code_lt; simp only [Fields.Fits]; omega)
theorem vpopc (d : VReg) (a : VReg) (t : IntTy) : Statement (.vpopc d a t) :=
  of_fields rfl (by have := t.code_lt; simp only [Fields.Fits]; omega)
theorem fabs (d : VReg) (a : VReg) (t : FltTy) : Statement (.fabs d a t) :=
  of_fields rfl (by have := t.code_lt; simp only [Fields.Fits]; omega)
theorem fneg (d : VReg) (a : VReg) (t : FltTy) : Statement (.fneg d a t) :=
  of_fields rfl (by have := t.code_lt; simp only [Fields.Fits]; omega)
theorem frnd (d : VReg) (a : VReg) (t : FltTy) : Statement (.frnd d a t) :=
  of_fields rfl (by have := t.code_lt; simp only [Fields.Fits]; omega)
theorem fclass (d : VReg) (a : VReg) (t : FltTy) : Statement (.fclass d a t) :=
  of_fields rfl (by have := t.code_lt; simp only [Fields.Fits]; omega)
theorem vcmp (m : MReg) (a : VReg) (b : VReg) (r : Rel) (t : IntTy) : Statement (.vcmp m a b r t) :=
  of_fields rfl (by have := r.code_lt; have := t.code_lt; simp only [Fields.Fits]; omega)
theorem fcmp (m : MReg) (a : VReg) (b : VReg) (r : Rel) (t : FltTy) : Statement (.fcmp m a b r t) :=
  of_fields rfl (by have := r.code_lt; have := t.code_lt; simp only [Fields.Fits]; omega)
theorem vcmpLtu (m : MReg) (a : VReg) (b : VReg) (t : IntTy) : Statement (.vcmpLtu m a b t) :=
  of_fields rfl (by have := t.code_lt; simp only [Fields.Fits]; omega)
theorem fcmpUo (m : MReg) (a : VReg) (b : VReg) (t : FltTy) : Statement (.fcmpUo m a b t) :=
  of_fields rfl (by have := t.code_lt; simp only [Fields.Fits]; omega)
theorem vcmpLeu (m : MReg) (a : VReg) (b : VReg) (t : IntTy) : Statement (.vcmpLeu m a b t) :=
  of_fields rfl (by have := t.code_lt; simp only [Fields.Fits]; omega)
theorem vclz (d : VReg) (a : VReg) (t : IntTy) : Statement (.vclz d a t) :=
  of_fields rfl (by have := t.code_lt; simp only [Fields.Fits]; omega)
theorem vperm (d : VReg) (a : VReg) (b : VReg) : Statement (.vperm d a b) :=
  of_fields rfl (by simp only [Fields.Fits]; omega)
theorem vsel (d : VReg) (a : VReg) (b : VReg) (k : MReg) : Statement (.vsel d a b k) :=
  of_fields rfl (by simp only [Fields.Fits]; omega)
theorem frcp (d : VReg) (a : VReg) (t : SfuTy) : Statement (.frcp d a t) :=
  of_fields rfl (by have := t.code_lt; simp only [Fields.Fits]; omega)
theorem frsq (d : VReg) (a : VReg) (t : SfuTy) : Statement (.frsq d a t) :=
  of_fields rfl (by have := t.code_lt; simp only [Fields.Fits]; omega)
theorem fsqrt (d : VReg) (a : VReg) (t : SfuTy) : Statement (.fsqrt d a t) :=
  of_fields rfl (by have := t.code_lt; simp only [Fields.Fits]; omega)
theorem fexp2 (d : VReg) (a : VReg) (t : SfuTy) : Statement (.fexp2 d a t) :=
  of_fields rfl (by have := t.code_lt; simp only [Fields.Fits]; omega)
theorem flog2 (d : VReg) (a : VReg) (t : SfuTy) : Statement (.flog2 d a t) :=
  of_fields rfl (by have := t.code_lt; simp only [Fields.Fits]; omega)
theorem fsin (d : VReg) (a : VReg) (t : SfuTy) : Statement (.fsin d a t) :=
  of_fields rfl (by have := t.code_lt; simp only [Fields.Fits]; omega)
theorem fcos (d : VReg) (a : VReg) (t : SfuTy) : Statement (.fcos d a t) :=
  of_fields rfl (by have := t.code_lt; simp only [Fields.Fits]; omega)
theorem cvt (d : VReg) (a : VReg) (s : ElTy) (t : ElTy) : Statement (.cvt d a s t) :=
  of_fields rfl (by have := s.code_lt; have := t.code_lt; simp only [Fields.Fits]; omega)
theorem dot2F32x2 (d : VReg) (a : VReg) (b : VReg) : Statement (.dot2F32x2 d a b) :=
  of_fields rfl (by simp only [Fields.Fits]; omega)
theorem dot4F16x4 (d : VReg) (a : VReg) (b : VReg) : Statement (.dot4F16x4 d a b) :=
  of_fields rfl (by simp only [Fields.Fits]; omega)
theorem dot4Bf16x4 (d : VReg) (a : VReg) (b : VReg) : Statement (.dot4Bf16x4 d a b) :=
  of_fields rfl (by simp only [Fields.Fits]; omega)
theorem dot4I16x4 (d : VReg) (a : VReg) (b : VReg) : Statement (.dot4I16x4 d a b) :=
  of_fields rfl (by simp only [Fields.Fits]; omega)
theorem dot8I8x8 (d : VReg) (a : VReg) (b : VReg) : Statement (.dot8I8x8 d a b) :=
  of_fields rfl (by simp only [Fields.Fits]; omega)
theorem dot8Binary8 (d : VReg) (a : VReg) (b : VReg) (f : Fmt8) : Statement (.dot8Binary8 d a b f) :=
  of_fields rfl (by simp only [Fields.Fits]; omega)
theorem cvn (d : VReg) (a : VReg) (s : FltTy) (f : Fmt8) : Statement (.cvn d a s f) :=
  of_fields rfl (by have := s.code_lt; simp only [Fields.Fits]; omega)
theorem cvw (d : VReg) (a : VReg) (t : FltTy) (f : Fmt8) : Statement (.cvw d a t f) :=
  of_fields rfl (by have := t.code_lt; simp only [Fields.Fits]; omega)
theorem cvs (d : VReg) (a : VReg) (b : VReg) (f : Fmt8) : Statement (.cvs d a b f) :=
  of_fields rfl (by simp only [Fields.Fits]; omega)
theorem welf (d : VReg) (a : VReg) (t : Bit1) : Statement (.welf d a t) :=
  of_fields rfl (by simp only [Fields.Fits]; omega)
theorem wmrg (d : VReg) (a : VReg) (t : Bit1) : Statement (.wmrg d a t) :=
  of_fields rfl (by simp only [Fields.Fits]; omega)
theorem shfl (d : VReg) (a : VReg) (b : VReg) : Statement (.shfl d a b) :=
  of_fields rfl (by simp only [Fields.Fits]; omega)
theorem shflx (d : VReg) (a : VReg) (b : VReg) : Statement (.shflx d a b) :=
  of_fields rfl (by simp only [Fields.Fits]; omega)
theorem bcst (d : VReg) (a : VReg) (j : Fin 32) : Statement (.bcst d a j) :=
  of_fields rfl (by simp only [Fields.Fits]; omega)
theorem voteAny (d : VReg) (a : VReg) : Statement (.voteAny d a) :=
  of_fields rfl (by simp only [Fields.Fits]; omega)
theorem voteAll (d : VReg) (a : VReg) : Statement (.voteAll d a) :=
  of_fields rfl (by simp only [Fields.Fits]; omega)
theorem voteBal (d : VReg) (a : VReg) : Statement (.voteBal d a) :=
  of_fields rfl (by simp only [Fields.Fits]; omega)
theorem rdc (d : VReg) (a : VReg) (o : RedOp) (e : ElTy) : Statement (.rdc d a o e) :=
  of_fields rfl (by have := o.code_lt; have := e.code_lt; simp only [Fields.Fits]; omega)
theorem scan (d : VReg) (a : VReg) (o : RedOp) (e : ElTy) : Statement (.scan d a o e) :=
  of_fields rfl (by have := o.code_lt; have := e.code_lt; simp only [Fields.Fits]; omega)
theorem mmov (d : MaskSel) (a : MaskSel) : Statement (.mmov d a) :=
  of_fields rfl (by have := d.code_lt; have := a.code_lt; simp only [Fields.Fits]; omega)
theorem mand (d : MaskSel) (a : MaskSel) (b : MaskSel) : Statement (.mand d a b) :=
  of_fields rfl (by have := d.code_lt; have := a.code_lt; have := b.code_lt; simp only [Fields.Fits]; omega)
theorem mor (d : MaskSel) (a : MaskSel) (b : MaskSel) : Statement (.mor d a b) :=
  of_fields rfl (by have := d.code_lt; have := a.code_lt; have := b.code_lt; simp only [Fields.Fits]; omega)
theorem mxor (d : MaskSel) (a : MaskSel) (b : MaskSel) : Statement (.mxor d a b) :=
  of_fields rfl (by have := d.code_lt; have := a.code_lt; have := b.code_lt; simp only [Fields.Fits]; omega)
theorem mnot (d : MaskSel) (a : MaskSel) : Statement (.mnot d a) :=
  of_fields rfl (by have := d.code_lt; have := a.code_lt; simp only [Fields.Fits]; omega)
theorem mpop (d : CReg) (a : MaskSel) : Statement (.mpop d a) :=
  of_fields rfl (by have := a.code_lt; simp only [Fields.Fits]; omega)
theorem mfirst (d : MaskSel) (a : MaskSel) : Statement (.mfirst d a) :=
  of_fields rfl (by have := d.code_lt; have := a.code_lt; simp only [Fields.Fits]; omega)
theorem ld (d : VReg) (m : MOp) (z : Size) (x : Bool) : Statement (.ld d m z x) :=
  of_fields rfl (by have := msz_lt z x m.scaled; simp only [Fields.Fits]; omega)
theorem st (v : VReg) (m : MOp) (z : Size) : Statement (.st v m z) :=
  of_fields rfl (by have := msz_lt z false m.scaled; simp only [Fields.Fits]; omega)
theorem lds (d : VReg) (m : MOp) (z : Size) (x : Bool) : Statement (.lds d m z x) :=
  of_fields rfl (by have := msz_lt z x m.scaled; simp only [Fields.Fits]; omega)
theorem sts (v : VReg) (m : MOp) (z : Size) : Statement (.sts v m z) :=
  of_fields rfl (by have := msz_lt z false m.scaled; simp only [Fields.Fits]; omega)
theorem ldc (d : CReg) (m : MOp) (z : Size) (x : Bool) : Statement (.ldc d m z x) :=
  of_fields rfl (by have := msz_lt z x m.scaled; simp only [Fields.Fits]; omega)
theorem atomAdd (d : VReg) (m : MOp) (w : Bool) : Statement (.atomAdd d m w) :=
  of_fields rfl (by have := asz_lt w (op := 0) (by decide); simp only [Fields.Fits]; omega)
theorem atomAnd (d : VReg) (m : MOp) (w : Bool) : Statement (.atomAnd d m w) :=
  of_fields rfl (by have := asz_lt w (op := 1) (by decide); simp only [Fields.Fits]; omega)
theorem atomOr (d : VReg) (m : MOp) (w : Bool) : Statement (.atomOr d m w) :=
  of_fields rfl (by have := asz_lt w (op := 2) (by decide); simp only [Fields.Fits]; omega)
theorem atomXor (d : VReg) (m : MOp) (w : Bool) : Statement (.atomXor d m w) :=
  of_fields rfl (by have := asz_lt w (op := 3) (by decide); simp only [Fields.Fits]; omega)
theorem atomMin (d : VReg) (m : MOp) (w : Bool) : Statement (.atomMin d m w) :=
  of_fields rfl (by have := asz_lt w (op := 4) (by decide); simp only [Fields.Fits]; omega)
theorem atomMax (d : VReg) (m : MOp) (w : Bool) : Statement (.atomMax d m w) :=
  of_fields rfl (by have := asz_lt w (op := 5) (by decide); simp only [Fields.Fits]; omega)
theorem atomMinu (d : VReg) (m : MOp) (w : Bool) : Statement (.atomMinu d m w) :=
  of_fields rfl (by have := asz_lt w (op := 6) (by decide); simp only [Fields.Fits]; omega)
theorem atomMaxu (d : VReg) (m : MOp) (w : Bool) : Statement (.atomMaxu d m w) :=
  of_fields rfl (by have := asz_lt w (op := 7) (by decide); simp only [Fields.Fits]; omega)
theorem atomExch (d : VReg) (m : MOp) (w : Bool) : Statement (.atomExch d m w) :=
  of_fields rfl (by have := asz_lt w (op := 8) (by decide); simp only [Fields.Fits]; omega)
theorem atomFadd (d : VReg) (m : MOp) (w : Bool) : Statement (.atomFadd d m w) :=
  of_fields rfl (by have := asz_lt w (op := 9) (by decide); simp only [Fields.Fits]; omega)
theorem atomFmin (d : VReg) (m : MOp) (w : Bool) : Statement (.atomFmin d m w) :=
  of_fields rfl (by have := asz_lt w (op := 10) (by decide); simp only [Fields.Fits]; omega)
theorem atomFmax (d : VReg) (m : MOp) (w : Bool) : Statement (.atomFmax d m w) :=
  of_fields rfl (by have := asz_lt w (op := 11) (by decide); simp only [Fields.Fits]; omega)
theorem cas (d : VReg) (m : MOp) (w : Bool) : Statement (.cas d m w) :=
  of_fields rfl (by have := asz_lt w (op := 0) (by decide); simp only [Fields.Fits]; omega)
theorem pref (m : MOp) (z : Size) : Statement (.pref m z) :=
  of_fields rfl (by have := msz_lt z false m.scaled; simp only [Fields.Fits]; omega)
theorem pacq (d : VReg) (m : MOp) (z : Size) (x : Bool) : Statement (.pacq d m z x) :=
  of_fields rfl (by have := msz_lt z x m.scaled; simp only [Fields.Fits]; omega)
theorem fence : Statement (.fence) :=
  of_fields rfl (by simp only [Fields.Fits]; omega)
theorem drain : Statement (.drain) :=
  of_fields rfl (by simp only [Fields.Fits]; omega)
theorem cctlWb (a : CReg) (b : CReg) : Statement (.cctlWb a b) :=
  of_fields rfl (by simp only [Fields.Fits]; omega)
theorem cctlInv (a : CReg) (b : CReg) : Statement (.cctlInv a b) :=
  of_fields rfl (by simp only [Fields.Fits]; omega)
theorem cctlIinv (a : CReg) (b : CReg) : Statement (.cctlIinv a b) :=
  of_fields rfl (by simp only [Fields.Fits]; omega)
theorem locq (d : CReg) (a : CReg) (k : Bit1) : Statement (.locq d a k) :=
  of_fields rfl (by simp only [Fields.Fits]; omega)
theorem mmaE8 (t : TReg) (a : CReg) (b : CReg) (s : Shape) : Statement (.mmaE8 t a b s) :=
  of_fields rfl (by simp only [Fields.Fits]; omega)
theorem mmasE8 (t : TReg) (a : CReg) (b : CReg) (s : Shape) : Statement (.mmasE8 t a b s) :=
  of_fields rfl (by simp only [Fields.Fits]; omega)
theorem mmauE8 (t : TReg) (a : CReg) (b : CReg) (s : Shape) : Statement (.mmauE8 t a b s) :=
  of_fields rfl (by simp only [Fields.Fits]; omega)
theorem mmaE16 (t : TReg) (a : CReg) (b : CReg) (s : Shape) : Statement (.mmaE16 t a b s) :=
  of_fields rfl (by simp only [Fields.Fits]; omega)
theorem mmasE16 (t : TReg) (a : CReg) (b : CReg) (s : Shape) : Statement (.mmasE16 t a b s) :=
  of_fields rfl (by simp only [Fields.Fits]; omega)
theorem mmauE16 (t : TReg) (a : CReg) (b : CReg) (s : Shape) : Statement (.mmauE16 t a b s) :=
  of_fields rfl (by simp only [Fields.Fits]; omega)
theorem gang (a : CReg) : Statement (.gang a) :=
  of_fields rfl (by simp only [Fields.Fits]; omega)
theorem mzero (t : TReg) (a : CReg) : Statement (.mzero t a) :=
  of_fields rfl (by simp only [Fields.Fits]; omega)
theorem mldw (a : CReg) (b : CReg) : Statement (.mldw a b) :=
  of_fields rfl (by simp only [Fields.Fits]; omega)
theorem mdrnTs (t : TReg) (a : CReg) (b : CReg) (s : Shape2) : Statement (.mdrnTs t a b s) :=
  of_fields rfl (by simp only [Fields.Fits]; omega)
theorem mdrnQ (t : TReg) (q : MReg) (b : CReg) (s : Shape2) : Statement (.mdrnQ t q b s) :=
  of_fields rfl (by simp only [Fields.Fits]; omega)
theorem mdrnPeer (t : TReg) (a : CReg) (b : CReg) (s : Shape2) : Statement (.mdrnPeer t a b s) :=
  of_fields rfl (by simp only [Fields.Fits]; omega)
theorem mrow (t : TReg) (q : MReg) (s : Shape2) : Statement (.mrow t q s) :=
  of_fields rfl (by simp only [Fields.Fits]; omega)
theorem grdv (d : VReg) (a : AReg) (k : MReg) : Statement (.grdv d a k) :=
  of_fields rfl (by simp only [Fields.Fits]; omega)
theorem grdw (v : VReg) (a : AReg) (k : MReg) : Statement (.grdw v a k) :=
  of_fields rfl (by simp only [Fields.Fits]; omega)
theorem rsub (d : VReg) (a : AReg) (c : CReg) : Statement (.rsub d a c) :=
  of_fields rfl (by simp only [Fields.Fits]; omega)
theorem samp (d : VReg) (a : VReg) (c : CReg) : Statement (.samp d a c) :=
  of_fields rfl (by simp only [Fields.Fits]; omega)
theorem rbox (d : VReg) (g : VReg) (n : VReg) : Statement (.rbox d g n) :=
  of_fields rfl (by simp only [Fields.Fits]; omega)
theorem rtri (d : VReg) (g : VReg) (n : VReg) : Statement (.rtri d g n) :=
  of_fields rfl (by simp only [Fields.Fits]; omega)
theorem rtriAlpha (d : VReg) (g : VReg) (n : VReg) : Statement (.rtriAlpha d g n) :=
  of_fields rfl (by simp only [Fields.Fits]; omega)
theorem rpsh (a : VReg) (c : CReg) : Statement (.rpsh a c) :=
  of_fields rfl (by simp only [Fields.Fits]; omega)
theorem rpop (d : VReg) (c : CReg) : Statement (.rpop d c) :=
  of_fields rfl (by simp only [Fields.Fits]; omega)
theorem rhit (d : VReg) (a : VReg) (g : VReg) : Statement (.rhit d a g) :=
  of_fields rfl (by simp only [Fields.Fits]; omega)
theorem nrq (d : VReg) (a : VReg) (n : CReg) : Statement (.nrq d a n) :=
  of_fields rfl (by simp only [Fields.Fits]; omega)
theorem hintLo (p : BitVec 24) : Statement (.hintLo p) :=
  of_fields rfl (by simp only [Fields.Fits]; omega)
theorem hintHi (p : BitVec 24) : Statement (.hintHi p) :=
  of_fields rfl (by simp only [Fields.Fits]; omega)
theorem hintMod (p : BitVec 24) : Statement (.hintMod p) :=
  of_fields rfl (by simp only [Fields.Fits]; omega)
theorem hintJoin (p : BitVec 24) : Statement (.hintJoin p) :=
  of_fields rfl (by simp only [Fields.Fits]; omega)
theorem growGrant (p : Nat) (tile : Bool) : Statement (.growGrant p tile) := of_none rfl
theorem shrinkComplete (p : Nat) (sl : Nat) (fid : Nat) : Statement (.shrinkComplete p sl fid) := of_none rfl
theorem joinFusion (p : Nat) (sl : Nat) (j : Nat) : Statement (.joinFusion p sl j) := of_none rfl
theorem fragmentReload (p : Nat) (sl : Nat) : Statement (.fragmentReload p sl) := of_none rfl
theorem endRetire (p : Nat) (sl : Nat) (fid : Nat) : Statement (.endRetire p sl fid) := of_none rfl
theorem yieldHoldExpiry (p : Nat) (sl : Nat) (fid : Nat) : Statement (.yieldHoldExpiry p sl fid) := of_none rfl
theorem promotion (p : Nat) (sl : Nat) (fid : Nat) : Statement (.promotion p sl fid) := of_none rfl
theorem trapDelivery (p : Nat) (sl : Nat) : Statement (.trapDelivery p sl) := of_none rfl
theorem hbudExpiry (p : Nat) (sl : Nat) : Statement (.hbudExpiry p sl) := of_none rfl
theorem swapOut (p : Nat) : Statement (.swapOut p) := of_none rfl
theorem swapIn : Statement (.swapIn) := of_none rfl
theorem placeBlock : Statement (.placeBlock) := of_none rfl
theorem latchRelease (b : Nat) (n : Nat) : Statement (.latchRelease b n) := of_none rfl
theorem engineCommandComplete (p : Nat) : Statement (.engineCommandComplete p) := of_none rfl
theorem rsPowerUp (p : Nat) : Statement (.rsPowerUp p) := of_none rfl
theorem feedPush (p : Nat) : Statement (.feedPush p) := of_none rfl
theorem nrqDispatch (p : Nat) : Statement (.nrqDispatch p) := of_none rfl
theorem nrqComplete (p : Nat) (bad : Bool) : Statement (.nrqComplete p bad) := of_none rfl
theorem loadComplete (p : Nat) (sl : Nat) (id : Nat) (bad : BitVec 32) : Statement (.loadComplete p sl id bad) := of_none rfl
theorem storeTranslate (p : Nat) (sl : Nat) : Statement (.storeTranslate p sl) := of_none rfl
theorem atomicRetire (i : Nat) (n : Nat) (bad : Bool) : Statement (.atomicRetire i n bad) := of_none rfl
theorem atomErr (i : Nat) : Statement (.atomErr i) := of_none rfl
theorem promotionHint (i : Nat) : Statement (.promotionHint i) := of_none rfl
theorem pacqSnapshot (i : Nat) : Statement (.pacqSnapshot i) := of_none rfl
theorem promoteRequest (i : Nat) : Statement (.promoteRequest i) := of_none rfl
theorem pacqComplete (i : Nat) (bad : BitVec 32) : Statement (.pacqComplete i bad) := of_none rfl
theorem copyComplete (id : Nat) (bad : Bool) (flip : List (Nat × BitVec 8)) : Statement (.copyComplete id bad flip) := of_none rfl
theorem copyChainMemberStart (id : Nat) : Statement (.copyChainMemberStart id) := of_none rfl
theorem tcpyComplete (id : Nat) (bad : Bool) : Statement (.tcpyComplete id bad) := of_none rfl
theorem barrierOperation (i : Nat) : Statement (.barrierOperation i) := of_none rfl
theorem barrierWithdrawal (i : Nat) : Statement (.barrierWithdrawal i) := of_none rfl
theorem barrierCombinerSend (d : Nat) (i : Nat) : Statement (.barrierCombinerSend d i) := of_none rfl
theorem waitPoll (cid : Nat) (fid : Nat) : Statement (.waitPoll cid fid) := of_none rfl
theorem ringConsume (n : Nat) (bad : Bool) : Statement (.ringConsume n bad) := of_none rfl
theorem ringEnable (n : Nat) (v : BitVec 64) : Statement (.ringEnable n v) := of_none rfl
theorem ringDisable (n : Nat) (v : BitVec 64) : Statement (.ringDisable n v) := of_none rfl
theorem ringResume (n : Nat) : Statement (.ringResume n) := of_none rfl
theorem beaconPulse : Statement (.beaconPulse) := of_none rfl
theorem launchTransfer (p : Nat) : Statement (.launchTransfer p) := of_none rfl
theorem launchStart (id : Nat) : Statement (.launchStart id) := of_none rfl
theorem launchComplete (id : Nat) (bad : Bool) : Statement (.launchComplete id bad) := of_none rfl
theorem groupCommit (g : Nat) : Statement (.groupCommit g) := of_none rfl
theorem shadowCopyBack (d : Nat) (i : Nat) : Statement (.shadowCopyBack d i) := of_none rfl
theorem faultRecord (i : Nat) : Statement (.faultRecord i) := of_none rfl
theorem batchAgeExpiry : Statement (.batchAgeExpiry) := of_none rfl
theorem batchDeliver : Statement (.batchDeliver) := of_none rfl
theorem fresResolve (b : BitVec 32) : Statement (.fresResolve b) := of_none rfl
theorem shootdownGo : Statement (.shootdownGo) := of_none rfl
theorem shootdownDone : Statement (.shootdownDone) := of_none rfl
theorem mmrlRelease : Statement (.mmrlRelease) := of_none rfl
theorem ptrtWrite (v : BitVec 64) : Statement (.ptrtWrite v) := of_none rfl
theorem placRefill (v : BitVec 64) : Statement (.placRefill v) := of_none rfl
theorem ckctGo : Statement (.ckctGo) := of_none rfl
theorem checkpointSwitch : Statement (.checkpointSwitch) := of_none rfl
theorem checkpointStreamAck (bad : Bool) : Statement (.checkpointStreamAck bad) := of_none rfl
theorem commitGo : Statement (.commitGo) := of_none rfl
theorem commitApply (bad : Option Nat) : Statement (.commitApply bad) := of_none rfl
theorem rgrsRes (r : Nat) : Statement (.rgrsRes r) := of_none rfl
theorem rgrsRel (r : Nat) : Statement (.rgrsRel r) := of_none rfl
theorem budgetDebit (p : Nat) (i : Nat) : Statement (.budgetDebit p i) := of_none rfl
theorem budgetExhausted (i : Nat) : Statement (.budgetExhausted i) := of_none rfl
theorem wdog (i : Nat) : Statement (.wdog i) := of_none rfl
theorem renderLaunchStart (id : Nat) (bad : Bool) : Statement (.renderLaunchStart id bad) := of_none rfl
theorem patchBin (id : Nat) (u : Nat) (bad : Bool) : Statement (.patchBin id u bad) := of_none rfl
theorem insertQueueMerge (id : Nat) (d : Nat) : Statement (.insertQueueMerge id d) := of_none rfl
theorem bucketStart (id : Nat) (d : Nat) : Statement (.bucketStart id d) := of_none rfl
theorem bucketSteal (id : Nat) (d : Nat) : Statement (.bucketSteal id d) := of_none rfl
theorem dicePatch (id : Nat) (b : Nat) : Statement (.dicePatch id b) := of_none rfl
theorem gridShadeStart (id : Nat) (b : Nat) : Statement (.gridShadeStart id b) := of_none rfl
theorem gridHandoff (id : Nat) (b : Nat) : Statement (.gridHandoff id b) := of_none rfl
theorem gridRasterise (id : Nat) (b : Nat) : Statement (.gridRasterise id b) := of_none rfl
theorem bucketResolve (id : Nat) (b : Nat) (bad : Bool) : Statement (.bucketResolve id b bad) := of_none rfl
theorem refreshEpoch (k : Nat) : Statement (.refreshEpoch k) := of_none rfl
theorem start (fail : BitVec 8) : Statement (.start fail) := of_none rfl
theorem startFailRestart : Statement (.startFailRestart) := of_none rfl
theorem dcmdRst : Statement (.dcmdRst) := of_none rfl
theorem dcmdRplc : Statement (.dcmdRplc) := of_none rfl
theorem dcmdFwld (n : Nat) : Statement (.dcmdFwld n) := of_none rfl
theorem attestation : Statement (.attestation) := of_none rfl
theorem ulctEn (en : Bool) : Statement (.ulctEn en) := of_none rfl
theorem ulctCls : Statement (.ulctCls) := of_none rfl
theorem ulctRoll : Statement (.ulctRoll) := of_none rfl
theorem wsctGo : Statement (.wsctGo) := of_none rfl
theorem weightStoreLoad (bad : Option Nat) : Statement (.weightStoreLoad bad) := of_none rfl
theorem spareRemap (u : Nat) : Statement (.spareRemap u) := of_none rfl
theorem spareForceSave (p : Nat) : Statement (.spareForceSave p) := of_none rfl
theorem correctedError (u : Option Nat) (d : Option Nat) : Statement (.correctedError u d) := of_none rfl
theorem uncorr (l : Nat) : Statement (.uncorr l) := of_none rfl
theorem linkRetrain (k : Nat) : Statement (.linkRetrain k) := of_none rfl
theorem powerCheck (w : BitVec 16) : Statement (.powerCheck w) := of_none rfl
theorem coolantFault : Statement (.coolantFault) := of_none rfl
theorem coolantTimeout : Statement (.coolantTimeout) := of_none rfl
theorem hostRegisterWrite (off : Nat) (v : BitVec 64) : Statement (.hostRegisterWrite off v) := of_none rfl
theorem driverPreemptRequest (r : Nat) : Statement (.driverPreemptRequest r) := of_none rfl
theorem storePerformed (i : Nat) : Statement (.storePerformed i) := of_none rfl
theorem renderResultArrival (p : Nat) (sl : Nat) (id : Nat) (bad : BitVec 32) : Statement (.renderResultArrival p sl id bad) := of_none rfl
theorem instructionFetch (p : Nat) (sl : Nat) (fid : Nat) (k : Nat) : Statement (.instructionFetch p sl fid k) := of_none rfl
theorem iinvAcknowledged (p : Nat) (sl : Nat) (fid : Nat) : Statement (.iinvAcknowledged p sl fid) := of_none rfl
theorem refreshEpochEnd (k : Nat) : Statement (.refreshEpochEnd k) := of_none rfl
theorem linkRetrainComplete (k : Nat) : Statement (.linkRetrainComplete k) := of_none rfl
theorem coolantRestored : Statement (.coolantRestored) := of_none rfl
theorem hostPeerAccess (who : Option Nat) (va : Nat) (n : Nat) (data : Option (List (BitVec 8))) : Statement (.hostPeerAccess who va n data) := of_none rfl
theorem memoryScrubbing (d : Nat) (fixed : Bool) : Statement (.memoryScrubbing d fixed) := of_none rfl
theorem registerLaneError (p : Nat) (sl : Nat) (v : Nat) (lane : Nat) : Statement (.registerLaneError p sl v lane) := of_none rfl

end Sys2Proof.Laws.Fits
end

