-- ==== Sys2Proof/Laws/Varying.lean ====
section
/-! SUPPORT. What the shared varying operations do when no poison and no queue window is met, said once. -/

namespace Sys2Proof.Machine

open Sys2Proof

/-- The same, of the lanes the instruction works on as its meaning computes them. -/
theorem clean_active {s : State} {i : Instr} {l : List Nat} (h : Clean s i l) :
    ∀ r ∈ l, s.cur.poisonOf r &&& actOf s (curMods s) = 0 := h.sound

/-- Poison that no register holds in the active lanes is consumed by none. -/
theorem poison_fold (c : Crew) (act : Mask) (l : List Nat) (m : Mask) (hm : m &&& act = 0)
    (h : ∀ r ∈ l, c.poisonOf r &&& act = 0) :
    l.foldl (fun m r => m ||| c.poisonOf r) m &&& act = 0 := by
  induction l generalizing m with
  | nil => exact hm
  | cons a l ih =>
    rw [List.foldl_cons]
    refine ih _ ?_ fun r hr => h r (List.mem_cons_of_mem _ hr)
    have ha := h a List.mem_cons_self
    rw [BitVec.and_comm, BitVec.and_or_distrib_left, BitVec.and_comm act, BitVec.and_comm act, hm, ha]
    rfl

/-- With no poison, what consumes runs on every lane. -/
theorem consuming_clean {s : State} {act : Mask} {srcs : List Nat} (h : ∀ r ∈ srcs, s.cur.poisonOf r &&& act = 0)
    (k : Mask → State → State) : consuming s act srcs k = k act s := by
  have := poison_fold s.cur act srcs 0 (by simp) h
  unfold consuming
  simp only [this]
  rfl

/-- Nothing is popped. -/
theorem popAll_clean {s : State} {u : Uses} (h : popped s.cur u = []) : popAll s u = s := by simp [popAll, h]

/-- Nothing is fed. -/
theorem feedPush_clean {s : State} {u : Uses} (h : fed s.cur u = []) (n : Nat) : feedPush s u n = s := by
  simp [feedPush, h]

/-- The fed queues depend on the bindings alone. -/
theorem fed_qregs {c k : Crew} (h : c.qregs = k.qregs) (u : Uses) : fed c u = fed k u := by
  unfold fed; rw [h]

/-- The end that every varying effect shares: the push of a feed window, where there is none. -/
theorem endPush {s t : State} {i : Instr} {l : List Nat} (h : Clean s i l) (ht : t.cur.qregs = s.cur.qregs) (cid : Nat) :
    (if t.cur.alive && t.cur.cid == cid then feedPush t (uses s i) 0 else t) = t := by
  rw [feedPush_clean (by rw [fed_qregs ht]; exact h.feeds)]
  split <;> rfl

/-- A lane-by-lane effect on clean operands. -/
theorem laneOp_clean {s : State} {i : Instr} (h : Clean s i (uses s i).r) (d : VReg) (f : State → Nat → Word × Bool)
    (flag : State → Bool → State) (hq : ∀ s b, (flag s b).cur.qregs = s.cur.qregs) :
    laneOp (uses s i) d f flag (curMods s) s =
      complete (flag (setV s d (active s) (mkLanes fun l => (f s l).1))
        ((lanesOf (active s)).any fun l => (f s l).2)) := by
  unfold laneOp
  rw [popAll_clean (show popped s.cur (uses s i) = [] from h.pops)]
  simp only [consuming_clean (clean_active h)]
  refine endPush h ?_ _
  show (flag _ _).cur.qregs = _
  rw [hq]
  show (Crew.putV _ _ _ _ _).qregs = _
  rw [putV_frame]

/-- A copying effect on clean operands. -/
theorem copyOp_clean {s : State} {i : Instr} {eat : List Nat} (h : Clean s i eat) (d : VReg) (f : State → Nat → Word × Bool) :
    copyOp (uses s i) d eat f (curMods s) s =
      complete (modCur s fun c => c.putV d.val (active s) (mkLanes fun l => (f s l).1)
        (maskOf ((lanesOf (active s)).filter fun l => (f s l).2))) := by
  unfold copyOp
  rw [popAll_clean (show popped s.cur (uses s i) = [] from h.pops)]
  simp only [consuming_clean (clean_active h)]
  refine endPush h ?_ _
  show (Crew.putV _ _ _ _ _).qregs = _
  rw [putV_frame]

/-- The poison of a register after a write (R119). -/
theorem poisonOf_putV (c : Crew) (d r : Nat) (act bad : Mask) (x : Lanes) (hd : d < 128) :
    (c.putV d act x bad).poisonOf r =
      if r = d ∧ d ≠ 127 then (c.poisonOf d &&& ~~~act) ||| (bad &&& act) else c.poisonOf r := by
  by_cases h : 127 ≤ d
  · have : d = 127 := by omega
    simp [Crew.putV, this]
  · by_cases hr : r = d
    · subst hr
      have : r ≠ 127 := by omega
      simp [Crew.putV, Crew.poisonOf, vec_getD, h, this, hd]
    · by_cases h2 : 127 ≤ r
      · simp [Crew.poisonOf, h2, hr]
      · have : ¬ d = r := fun e => hr e.symm
        simp [Crew.putV, Crew.poisonOf, vec_getD, h, h2, hr, this]

/-- What a completed write of lanes comes to, as claims say it. -/
theorem setsLanes_of {s : State} {i : Instr} {d : VReg} {f : Nat → Word} {bad : Nat → Bool} {b : Mask} {nsf : Word} {dsrc : Bool}
    (hb : ∀ l, l < 32 → inMask (active s) l = true → inMask b l = bad l)
    (h : exec i s = .next (complete (modCur s fun c =>
      { c.putV d.val (active s) (mkLanes f) b with nsf := nsf, cst := { c.cst with dsrc := dsrc } }))) :
    SetsLanes s i d f bad nsf dsrc := by
  refine ⟨_, h, ?_, ?_, ?_⟩
  · intro r l hl
    show laneAt ((s.cur.putV d.val (active s) (mkLanes f) b).vreg r) l = _
    rw [vreg_putV _ _ _ _ _ _ d.isLt]
    by_cases hr : r = d.val ∧ d.val ≠ 127
    · rw [if_pos hr, laneAt_mergeLanes _ _ _ _ hl, laneAt_mkLanes _ _ hl]
      by_cases hm : inMask (active s) l = true
      · simp [hr.1, hr.2, hm]
      · rw [if_neg hm, if_neg (fun e => hm e.2.2), hr.1]
    · rw [if_neg hr, if_neg (fun e => hr ⟨e.1, e.2.1⟩)]
  · intro r l hl
    show inMask ((s.cur.putV d.val (active s) (mkLanes f) b).poisonOf r) l = _
    rw [poisonOf_putV _ _ _ _ _ _ d.isLt]
    by_cases hr : r = d.val ∧ d.val ≠ 127
    · rw [if_pos hr]
      by_cases hm : inMask (active s) l = true
      · rw [if_pos ⟨hr.1, hr.2, hm⟩, ← hb l hl hm]
        have : (active s).getLsbD l = true := hm
        simp [inMask, this]
      · rw [if_neg (fun e => hm e.2.2), hr.1]
        have : (active s).getLsbD l = false := by simpa [inMask] using hm
        show (_ ||| _ : Mask).getLsbD l = _
        simp only [BitVec.getLsbD_or, BitVec.getLsbD_and, this, Bool.and_false, Bool.or_false, BitVec.getLsbD_not, hl]
        simp; rfl
    · rw [if_neg hr, if_neg (fun e => hr ⟨e.1, e.2.1⟩)]
  · unfold Crew.putV; split <;> rfl

/-! ## Elements -/

theorem packN_get (w : Nat) (g : Nat → Nat) : ∀ (n k e : Nat), e < n →
    packN w ((List.range' k n).map g) / 2 ^ (w * e) % 2 ^ w = g (k + e) % 2 ^ w
  | 0, _, _, h => absurd h (Nat.not_lt_zero _)
  | n + 1, k, 0, _ => by
    simp [List.range'_succ, packN, Nat.add_mul_mod_self_left]
  | n + 1, k, e + 1, h => by
    have ih := packN_get w g n (k + 1) e (by omega)
    have hp : 2 ^ (w * (e + 1)) = 2 ^ w * 2 ^ (w * e) := by rw [← Nat.pow_add]; congr 1; rw [Nat.mul_add]; omega
    rw [List.range'_succ, List.map_cons, packN, hp, ← Nat.div_div_eq_div_mul,
      Nat.add_mul_div_left _ _ (Nat.two_pow_pos w), Nat.div_eq_of_lt (Nat.mod_lt _ (Nat.two_pow_pos w)), Nat.zero_add, ih]
    congr 2; omega

theorem packN_lt (w : Nat) (l : List Nat) : packN w l < 2 ^ (w * l.length) := by
  induction l with
  | nil => simp [packN]
  | cons a l ih =>
    have h1 := Nat.mod_lt a (Nat.two_pow_pos w)
    have hp : 2 ^ (w * (l.length + 1)) = 2 ^ w * 2 ^ (w * l.length) := by rw [← Nat.pow_add]; congr 1; rw [Nat.mul_add]; omega
    rw [List.length_cons, hp, packN]
    have : 2 ^ w * packN w l + 2 ^ w ≤ 2 ^ w * 2 ^ (w * l.length) := by
      rw [← Nat.mul_succ]; exact Nat.mul_le_mul_left _ ih
    omega

/-- An element of a lane built element by element. -/
theorem sub_pack (w : Nat) (hw : w * (64 / w) ≤ 64) (g : Nat → Nat) (e : Nat) (he : e < 64 / w) :
    sub w (pack w ((List.range (64 / w)).map g)) e = g e % 2 ^ w := by
  have hl : packN w ((List.range (64 / w)).map g) < 2 ^ 64 :=
    Nat.lt_of_lt_of_le (packN_lt _ _) (Nat.pow_le_pow_right (by decide) (by simpa using hw))
  unfold sub pack
  rw [BitVec.toNat_ofNat, Nat.mod_eq_of_lt hl, List.range_eq_range', packN_get w g _ 0 e he, Nat.zero_add]

/-- An element of an element-wise result. -/
theorem sub_mapEl (w : Nat) (f : Nat → Nat × Bool) (e : Nat) (he : e < 64 / w) :
    sub w (mapEl w f).1 e = (f e).1 % 2 ^ w := by
  have := sub_pack w (Nat.mul_div_le 64 w) (fun i => (f i).1) e he
  simpa [mapEl, List.map_map, Function.comp_def] using this

/-- The flag `ISAT` set or kept (R75). -/
theorem setIsat_eq (s : State) (b : Bool) : setIsat s b = modCur s fun c => { c with nsf := withFlag s.cur.nsf 0 b } := by
  unfold setIsat setNsf withFlag; split <;> rfl

theorem noFlag_eq (s : State) (b : Bool) : noFlag s b = s := rfl

/-- A clean element-wise effect without a flag, as claims say it. -/
theorem setsElements_noFlag {s : State} {i : Instr} {d : VReg} {w : Nat} {g : Mods → State → Nat → Nat → Nat × Bool}
    (hr : Ready s i) (hc : Clean s i (uses s i).r)
    (he : exec i s = run i s fun m t => laneOp (uses s i) d (fun t l => mapEl w (g m t l)) noFlag m t) :
    SetsElements s i d w (fun l e => (g (curMods s) s l e).1 % 2 ^ w) s.cur.nsf := by
  refine ⟨fun l => (mapEl w (g (curMods s) s l)).1, ?_, fun l e _ h => sub_mapEl w _ e h⟩
  refine setsLanes_of (b := 0) (fun l _ _ => by simp [inMask]) ?_
  rw [he, run_ready hr, laneOp_clean (flag := noFlag) hc d _ (fun _ _ => rfl), noFlag_eq]
  unfold setV modCur Crew.putV
  split <;> rfl

/-- A clean element-wise effect that sets `ISAT`, as claims say it. -/
theorem setsElements_isat {s : State} {i : Instr} {d : VReg} {w : Nat} {g : Mods → State → Nat → Nat → Nat × Bool}
    (hr : Ready s i) (hc : Clean s i (uses s i).r)
    (he : exec i s = run i s fun m t => laneOp (uses s i) d (fun t l => mapEl w (g m t l)) setIsat m t) :
    SetsElements s i d w (fun l e => (g (curMods s) s l e).1 % 2 ^ w)
      (withFlag s.cur.nsf 0 (anyElement s w fun l e => (g (curMods s) s l e).2)) := by
  refine ⟨fun l => (mapEl w (g (curMods s) s l)).1, ?_, fun l e _ h => sub_mapEl w _ e h⟩
  refine setsLanes_of (b := 0) (fun l _ _ => by simp [inMask]) ?_
  rw [he, run_ready hr, laneOp_clean (flag := setIsat) hc d _ (fun s b => by rw [setIsat_eq]; rfl), setIsat_eq]
  have hf : ((lanesOf (active s)).any fun l => (mapEl w (g (curMods s) s l)).2) =
      anyElement s w fun l e => (g (curMods s) s l e).2 := by
    unfold anyElement
    congr 1
    funext l
    simp [mapEl, Function.comp_def, List.any_map]
  rw [hf]
  unfold setV modCur Crew.putV
  split <;> rfl

/-- Claims about elements may be said in another way where it is equal. -/
theorem setsElements_congr {s : State} {i : Instr} {d : VReg} {w : Nat} {g k : Nat → Nat → Nat} {n m : Word}
    (h : SetsElements s i d w g n) (hg : ∀ l e, g l e = k l e) (hn : n = m) : SetsElements s i d w k m := by
  obtain ⟨f, h1, h2⟩ := h
  exact ⟨f, hn ▸ h1, fun l e hl he => (h2 l e hl he).trans (hg l e)⟩

/-- A clean integer form, as claims say it. -/
theorem intOp_ready {s : State} {i : Instr} {d a : VReg} {b : Src} {w : Nat} {f : Mods → Nat → Nat → Nat → Nat × Bool}
    (hr : Ready s i) (hc : Clean s i (uses s i).r) (he : exec i s = run i s (intOp (uses s i) d a b w f)) :
    let r (l e : Nat) := f (curMods s) (sub w (laneAt (getV s a) l) e) (sub w (srcLane s (curMods s) w none b l) e)
      (sub w (laneAt (getV s d) l) e)
    SetsElements s i d w (fun l e => (r l e).1 % 2 ^ w) (withFlag s.cur.nsf 0 (anyElement s w fun l e => (r l e).2)) :=
  setsElements_isat (g := fun m t l e => f m (sub w (laneAt (getV t a) l) e) (sub w (srcLane t m w none b l) e)
    (sub w (laneAt (getV t d) l) e)) hr hc he

/-- A clean float form, as claims say it. -/
theorem fltOp_ready {s : State} {i : Instr} {d a : VReg} {b : Src} {t : FltTy} {f : Fmt → Rnd → Nat → Nat → Nat → Nat}
    (hr : Ready s i) (hc : Clean s i (uses s i).r) (he : exec i s = run i s (fltOp (uses s i) d a b t f)) :
    SetsElements s i d (FltTy.width t) (fun l e => f (FltTy.fmt t) (rndOf .ne (curMods s).rnd)
      (sub (FltTy.width t) (laneAt (getV s a) l) e)
      (sub (FltTy.width t) (srcLane s (curMods s) (FltTy.width t) (some (FltTy.fmt t)) b l) e)
      (sub (FltTy.width t) (laneAt (getV s ((curMods s).av.getD d)) l) e) % 2 ^ FltTy.width t) s.cur.nsf :=
  setsElements_noFlag (g := fun m u l e => (f (FltTy.fmt t) (rndOf .ne m.rnd) (sub (FltTy.width t) (laneAt (getV u a) l) e)
    (sub (FltTy.width t) (srcLane u m (FltTy.width t) (some (FltTy.fmt t)) b l) e)
    (sub (FltTy.width t) (laneAt (getV u (m.av.getD d)) l) e), false)) hr hc he

/-- A clean one-operand form, as claims say it. -/
theorem elOp_ready {s : State} {i : Instr} {d a : VReg} {w : Nat} {f : Nat → Nat}
    (hr : Ready s i) (hc : Clean s i (uses s i).r) (he : exec i s = run i s (elOp (uses s i) d a w f)) :
    SetsElements s i d w (fun l e => f (sub w (laneAt (getV s a) l) e) % 2 ^ w) s.cur.nsf :=
  setsElements_noFlag (g := fun _ u l e => (f (sub w (laneAt (getV u a) l) e), false)) hr hc he

/-- An element is below 2^w. -/
theorem sub_lt (w : Nat) (x : Word) (e : Nat) : sub w x e < 2 ^ w := Nat.mod_lt _ (Nat.two_pow_pos w)

end Sys2Proof.Machine
end

