-- ==== Sys2Proof/Tests/Slice0.lean ====
section
/-! SUPPORT. The tests: words written out from the spec's tables and what they decode to, ill-formed terms and what refuses them,
and for each statement of Obligations.lean a state and operands that meet its hypotheses, at the ends of the ranges its clauses
draw. Expected values come from the rules cited, not from the model. -/

set_option maxRecDepth 1000000

namespace Sys2Proof.Tests

open Sys2Proof Sys2Proof.Machine

/-! ## Words (R37, R44 to R50) -/

theorem test_words_control_1 : [0x0402ABCD, 0x0476ABCD, 0x048AABCD, 0x049EABCD, 0x0B5ABCDE, 0x0CB2ABCD, 0x10000000,
    0x10034001, 0x10038002, 0x10300003, 0x10000004, 0x10000005].map (decodeTableWord 32) = [
    some (.br 0x2ABCD),
    some (.brcZ 7 0x2ABCD),
    some (.brcNz 8 0x2ABCD),
    some (.brcNeg 9 0x2ABCD),
    some (.brv 6 0x5ABCDE),
    some (.call 11 0x2ABCD),
    some (.nop),
    some (.jmpi 13),
    some (.ret 14),
    some (.elect 3),
    some (.yield),
    some (.endd)] := by decide

theorem test_words_control_2 : [0x10048006, 0x10000007, 0x10000008, 0x10054009, 0x1000000A].map (decodeTableWord 32) = [
    some (.trap 18),
    some (.rft),
    some (.pdone),
    some (.wcnt 21),
    some (.sigchk)] := by decide

theorem test_words_special_registers : [0x15767000, 0x19803C00, 0x19930000, 0x19A54000].map (decodeTableWord 32) = [
    some (.sread 23 (.pme 12)),
    some (.swrite 24 .tk1),
    some (.mcfgWrite 25),
    some (.ftmapWrite 26)] := by decide

theorem test_words_uniform_1 : [0x1DB7D300, 0x21C82BCD, 0x1DD85501, 0x1DE89602, 0x1DF8D703, 0x1E091804, 0x1E195905,
    0x1E299A06, 0x1E325B07, 0x1E428008, 0x1E52DD09, 0x1E631E0A].map (decodeTableWord 32) = [
    some (.cadd 27 31 19),
    some (.caddImm 28 32 0x2BCD),
    some (.csub 29 33 21),
    some (.cmul 30 34 22),
    some (.cmulh 31 35 23),
    some (.cmad 32 36 24),
    some (.cand 33 37 25),
    some (.cor 34 38 26),
    some (.cxor 35 9 27),
    some (.cnot 36 10),
    some (.cshl 37 11 29),
    some (.cshr 38 12 30)] := by decide

theorem test_words_uniform_2 : [0x1E735F0B, 0x1E83A00C, 0x1E93E10D, 0x1EA4220E, 0x1EB4630F, 0x1EC4A410, 0x1C54D111,
    0x1C651212, 0x1C755313, 0x1C859414, 0x1C95D515, 0x1CA61616].map (decodeTableWord 32) = [
    some (.csar 39 13 31),
    some (.cmin 40 14 32),
    some (.cminu 41 15 33),
    some (.cmax 42 16 34),
    some (.cmaxu 43 17 35),
    some (.ccmpEq 44 18 36),
    some (.ccmpNe 5 19 17),
    some (.ccmpLt 6 20 18),
    some (.ccmpLe 7 21 19),
    some (.ccmpLtu 8 22 20),
    some (.ccmpLeu 9 23 21),
    some (.csel 10 24 22)] := by decide

theorem test_words_uniform_3 : [0x1CB64017, 0x1CC69818, 0x1CD6C019, 0x1CE7001A].map (decodeTableWord 32) = [
    some (.cmov 11 25),
    some (.cbfe 12 26 24),
    some (.cpopc 13 27),
    some (.cclz 14 28)] := by decide

theorem test_words_affine_and_lifts_1 : [0x2AD90000, 0x2AE07801, 0x2B1B03C2, 0x2B3C7803, 0x2B5D0024, 0x2B7E8005, 0x2B808406,
    0x2BA18807, 0x2CF25000, 0x2D626001, 0x2D704002, 0x2CD10003].map (decodeTableWord 32) = [
    some (.amov 22 25),
    some (.aidx 23 30),
    some (.aaddA 24 27 30),
    some (.aaddC 25 28 30),
    some (.asubA 26 29 1),
    some (.asubC 27 30 32),
    some (.amul 28 0 33),
    some (.ashl 29 1 34),
    some (.lca 30 37),
    some (.lcv 44 38),
    some (.lav 46 4),
    some (.lvc 26 16)] := by decide

theorem test_words_affine_and_lifts_2 : [0x2CD94004].map (decodeTableWord 32) = [
    some (.lvcx 27 20)] := by decide

theorem test_words_allotment_queues_copies : [0x31C30000, 0x31D34001, 0x31E38002, 0x31F3C003, 0x34440000, 0x36100501,
    0x38088000, 0x3808D301, 0x38090002].map (decodeTableWord 32) = [
    some (.growV 28 12),
    some (.growT 29 13),
    some (.shrinkV 30 14),
    some (.shrinkT 31 15),
    some (.qbind 4 16),
    some (.qstat 33 5),
    some (.cpy 34),
    some (.cpyw 35 19),
    some (.tcpy 36)] := by decide

theorem test_words_launch_and_barriers : [0x3E554000, 0x3C098001, 0x3E75C002, 0x3C0A1803, 0x3C0A5904, 0x3C0A9A05,
    0x3C0ADB06].map (decodeTableWord 32) = [
    some (.lnch 37 21),
    some (.bar 38),
    some (.bara 39 23),
    some (.bare 40 24),
    some (.barw 41 25),
    some (.wait 42 26),
    some (.waitExt 43 27)] := by decide

theorem test_words_integer_and_float_1 : [0x42A58E6B, 0x4030C16C, 0x44410569, 0x4451489E, 0x48618E6B, 0x4871C16C, 0x4C820569,
    0x5092489A, 0x50A28E6F, 0x54B2C168, 0x58C30569, 0x5CD3489A].map (decodeTableWord 32) = [
    some (.vadd 84 88 (.imm 77) .i8x8),
    some (.fadd 6 12 (.v 45) .f64),
    some (.vsub 8 16 (.c 45) .i32x2),
    some (.fsub 10 20 (.a 19) .f16x4),
    some (.vmul 12 24 (.imm 77) .i8x8),
    some (.fmul 14 28 (.v 45) .f64),
    some (.vmulh 16 32 (.c 45) .i32x2),
    some (.vmad 18 36 (.a 19) .i16x4),
    some (.ffma 20 40 (.imm 77) .bf16x4),
    some (.vand 22 44 (.v 45) .i64),
    some (.vor 24 48 (.c 45) .i32x2),
    some (.vxor 26 52 (.a 19) .i16x4)] := by decide

theorem test_words_integer_and_float_2 : [0x60E38E6B, 0x64F3C168, 0x69040569, 0x6D14489A, 0x6D248E6F, 0x7134C168, 0x75450569,
    0x7555489E, 0x79658E6B, 0x7D70C169, 0x81810569].map (decodeTableWord 32) = [
    some (.vshl 28 56 (.imm 77) .i8x8),
    some (.vshr 30 60 (.v 45) .i64),
    some (.vsar 32 64 (.c 45) .i32x2),
    some (.vmin 34 68 (.a 19) .i16x4),
    some (.fmin 36 72 (.imm 77) .bf16x4),
    some (.vminu 38 76 (.v 45) .i64),
    some (.vmax 40 80 (.c 45) .i32x2),
    some (.fmax 42 84 (.a 19) .f16x4),
    some (.vmaxu 44 88 (.imm 77) .i8x8),
    some (.vbfe 46 12 (.v 45) 1),
    some (.vbfi 48 16 (.c 45) 1)] := by decide

theorem test_words_unary_and_special_1 : [0x85914002, 0x85A1800B, 0x85B1C010, 0x85C20019, 0x85D24006, 0x85E2800F, 0x85F2C014,
    0x8603001D, 0x883B4792, 0x88038817, 0x8C0BC880, 0x8C140905].map (decodeTableWord 32) = [
    some (.vnot 50 20 .i16x4),
    some (.vabs 52 24 .i8x8),
    some (.vneg 54 28 .i64),
    some (.vpopc 56 32 .i32x2),
    some (.fabs 58 36 .f16x4),
    some (.fneg 60 40 .bf16x4),
    some (.frnd 62 44 .f64),
    some (.fclass 64 48 .f32x2),
    some (.vcmp 7 52 60 .lt .i16x4),
    some (.fcmp 0 56 64 .lt .bf16x4),
    some (.vcmpLtu 1 60 68 .i64),
    some (.fcmpUo 2 64 72 .f32x2)] := by decide

theorem test_words_unary_and_special_2 : [0x8C1C498A, 0x92648003, 0x9274CA88, 0x96850B06, 0x9A954001, 0x9AA58006, 0x9830C008,
    0x9841000D, 0x98514012, 0x98618014, 0x9871C019].map (decodeTableWord 32) = [
    some (.vcmpLeu 3 68 76 .i16x4),
    some (.vclz 76 72 .i8x8),
    some (.vperm 78 76 84),
    some (.vsel 80 80 88 6),
    some (.frcp 82 84 .f16x4),
    some (.frsq 84 88 .bf16x4),
    some (.fsqrt 6 12 .f32x2),
    some (.fexp2 8 16 .f16x4),
    some (.flog2 10 20 .bf16x4),
    some (.fsin 12 24 .f32x2),
    some (.fcos 14 28 .f16x4)] := by decide

theorem test_words_convert_and_dot : [0x9C8200C1, 0xA0924580, 0xA0A28601, 0xA0B2C682, 0xA0C30703, 0xA0D34784, 0xA4E38815,
    0xA8F3C095, 0xAD0400B5, 0xB1144995, 0xB5248005, 0xB534C00D].map (decodeTableWord 32) = [
    some (.cvt 16 32 (.flt .f16x4) (.int .i32x2)),
    some (.dot2F32x2 18 36 44),
    some (.dot4F16x4 20 40 48),
    some (.dot4Bf16x4 22 44 52),
    some (.dot4I16x4 24 48 56),
    some (.dot8I8x8 26 52 60),
    some (.dot8Binary8 28 56 64 0x15),
    some (.cvn 30 60 .f64 0x15),
    some (.cvw 32 64 .f32x2 0x15),
    some (.cvs 34 68 76 0x15),
    some (.welf 36 72 1),
    some (.wmrg 38 76 1)] := by decide

theorem test_words_cross_lane_and_masks_1 : [0xB9450B00, 0xB9554B81, 0xB9658302, 0xB970C003, 0xB9810004, 0xB9914005,
    0xBDA18012, 0xC1B1C012, 0xC4409000, 0xC44090A1, 0xC44090A2, 0xC44090A3].map (decodeTableWord 32) = [
    some (.shfl 40 80 88),
    some (.shflx 42 84 92),
    some (.bcst 44 88 24),
    some (.voteAny 46 12),
    some (.voteAll 48 16),
    some (.voteBal 50 20),
    some (.rdc 52 24 .max (.int .i16x4)),
    some (.scan 54 28 .max (.int .i16x4)),
    some (.mmov .xm .lm),
    some (.mand .xm .lm (.m 5)),
    some (.mor .xm .lm (.m 5)),
    some (.mxor .xm .lm (.m 5))] := by decide

theorem test_words_cross_lane_and_masks_2 : [0xC4189004, 0xC5189005, 0xC4409006].map (decodeTableWord 32) = [
    some (.mnot (.m 3) .lm),
    some (.mpop 35 .lm),
    some (.mfirst .xm .lm)] := by decide

theorem test_words_loads_and_stores : [0xCA35654B, 0xCE459924, 0xD255A54B, 0xD665D92D, 0xD94DE54A].map (decodeTableWord 32) = [
    some (.ld 70 { base := 43, idx := .a 21, scaled := true } .b32 true),
    some (.st 72 { base := 44, idx := .v 100, scaled := false } .b16),
    some (.lds 74 { base := 45, idx := .a 21, scaled := true } .b32 true),
    some (.sts 76 { base := 46, idx := .v 100, scaled := true } .b64),
    some (.ldc 41 { base := 47, idx := .a 21, scaled := false } .b32 true)] := by decide

theorem test_words_atomics_1 : [0xDE861930, 0xDE962551, 0xDEA65932, 0xDC316553, 0xDC419934, 0xDC51A555, 0xDC61D936,
    0xDC71E557, 0xDC821938, 0xDC922559, 0xDCA2593A, 0xDCB2655B].map (decodeTableWord 32) = [
    some (.atomAdd 80 { base := 48, idx := .v 100, scaled := true } true),
    some (.atomAnd 82 { base := 49, idx := .a 21, scaled := true } true),
    some (.atomOr 84 { base := 50, idx := .v 100, scaled := true } true),
    some (.atomXor 6 { base := 11, idx := .a 21, scaled := true } true),
    some (.atomMin 8 { base := 12, idx := .v 100, scaled := true } true),
    some (.atomMax 10 { base := 13, idx := .a 21, scaled := true } true),
    some (.atomMinu 12 { base := 14, idx := .v 100, scaled := true } true),
    some (.atomMaxu 14 { base := 15, idx := .a 21, scaled := true } true),
    some (.atomExch 16 { base := 16, idx := .v 100, scaled := true } true),
    some (.atomFadd 18 { base := 17, idx := .a 21, scaled := true } true),
    some (.atomFmin 20 { base := 18, idx := .v 100, scaled := true } true),
    some (.atomFmax 22 { base := 19, idx := .a 21, scaled := true } true)] := by decide

theorem test_words_atomics_2 : [0xE0C29930].map (decodeTableWord 32) = [
    some (.cas 24 { base := 20, idx := .v 100, scaled := true } true)] := by decide

theorem test_words_caches : [0xE402A54D, 0xE8E2D92A, 0xEC000000, 0xEC000001, 0xEC04E102, 0xEC152202, 0xEC256302,
    0xED690003].map (decodeTableWord 32) = [
    some (.pref { base := 21, idx := .a 21, scaled := true } .b64),
    some (.pacq 28 { base := 22, idx := .v 100, scaled := false } .b32 true),
    some (.fence),
    some (.drain),
    some (.cctlWb 19 33),
    some (.cctlInv 20 34),
    some (.cctlIinv 21 35),
    some (.locq 22 36 0)] := by decide

theorem test_words_matrix_1 : [0xF352C750, 0xF3734961, 0xF384A372, 0xF3A52583, 0xF3C5A794, 0xF00629A5, 0xF40E8000, 0xF4470001,
    0xF40F9E02, 0xF48830C3, 0xF4A2B2F4, 0xF4C93525].map (decodeTableWord 32) = [
    some (.mmaE8 26 37 35 21),
    some (.mmasE8 27 38 36 22),
    some (.mmauE8 28 9 17 23),
    some (.mmaE16 29 10 18 24),
    some (.mmasE16 30 11 19 25),
    some (.mmauE16 0 12 20 26),
    some (.gang 29),
    some (.mzero 2 14),
    some (.mldw 31 15),
    some (.mdrnTs 4 16 24 4),
    some (.mdrnQ 5 5 25 5),
    some (.mdrnPeer 6 18 26 6)] := by decide

theorem test_words_matrix_2 : [0xF4E38156].map (decodeTableWord 32) = [
    some (.mrow 7 7 7)] := by decide

theorem test_words_render : [0xFA20B020, 0xFA30C001, 0xFA40D3C2, 0xFA5443E3, 0xFA648A04, 0xFA74CA85, 0xFA850B06, 0xF8052367,
    0xFAA00388, 0xF830C289, 0xF8410250].map (decodeTableWord 32) = [
    some (.grdv 68 11 1),
    some (.grdw 70 12 0),
    some (.rsub 72 13 30),
    some (.samp 74 68 31),
    some (.rbox 76 72 80),
    some (.rtri 78 76 84),
    some (.rtriAlpha 80 80 88),
    some (.rpsh 82 27),
    some (.rpop 84 28),
    some (.rhit 6 12 20),
    some (.nrq 8 16 18)] := by decide

theorem test_words_hints : [0xFCABCDE1, 0xFDABCDE1, 0xFE900000, 0xFFABCDE1].map (decodeTableWord 32) = [
    some (.hintLo 0xABCDE1),
    some (.hintHi 0xABCDE1),
    some (.hintMod 0x900000),
    some (.hintJoin 0xABCDE1)] := by decide

/-- The words of the worked encodings, and one with a reserved field not 0, one with a reserved value, one without a row. -/
theorem test_words_refused : [0x00000000, 0x10000100, 0x10100005, 0x24000000, 0x18380000, 0xFFFFFFFF].map
    (decodeTableWord 32) = [none, none, none, none, none, none] := by decide

theorem test_bytes_little_endian : bytesOfWord 0x205143E8 = [0xE8, 0x43, 0x51, 0x20] := by decide

/-! ## Ill-formed terms -/

/-- One term for each clause of `Instr.wf`. -/
theorem test_wf_refuses : ([.swrite 1 .lm, .cpy 60, .cpyw 60 1, .tcpy 58, .cvt 1 2 (.int .i64) (.int .i64),
    .dot8Binary8 1 2 3 28, .cvn 1 2 .f64 28, .cvw 1 2 .f64 31, .cvs 1 2 3 29, .welf 125 1 0, .welf 5 1 1, .wmrg 8 125 0,
    .rdc 1 2 .minu (.flt .f64), .scan 1 2 .minu (.flt .f64), .mmov .lm (.m 0), .mand .lm .xm .xm, .mor .lm .xm .xm,
    .mxor .lm .xm .xm, .mnot .lm .xm, .mfirst .lm .xm] : List Instr).map Instr.wf = List.replicate 20 false := by decide

/-- The same for memory operands, engines, rays and hints. -/
theorem test_wf_refuses_memory :
    let m : MOp := { base := 1, idx := .v 2, scaled := true }
    let n : MOp := { base := 1, idx := .a 2, scaled := false }
    ([.ld 5 m .b128 false, .ld 126 m .b128 false, .ld 4 m .b64 true, .st 5 m .b128, .lds 5 m .b128 false, .sts 5 m .b128,
      .ldc 62 n .b128 false, .ldc 4 m .b64 false, .atomAdd 126 m true, .atomAdd 4 n true, .cas 5 m true, .cas 126 m true,
      .pacq 4 m .b128 false, .locq 1 2 1, .mmauE8 1 60 2 0, .grdv 5 1 0, .grdw 4 1 3, .grdw 5 1 0, .rsub 5 1 2, .rbox 4 2 8,
      .rtri 4 122 8, .rtriAlpha 5 4 8, .rhit 4 6 2, .hintMod 1, .hintMod 0x0A0000, .hintMod 0x100000,
      .hintJoin 0xFFFFFF] : List Instr).map Instr.wf = List.replicate 27 false := by decide

/-! ## A crew at issue -/

/-- A fragment of a full mask at 0x1000. -/
def frag : Frag := { Frag.zero with fid := 1, pc := 0x1000, fl := 0xFFFFFFFF, xm := 0xFFFFFFFF, entry := some 0, stamp := 1 }

/-- A crew of a launch in region 16, with every register. -/
def crew : Crew := { Crew.none with
  alive := true, cid := 1, launch := 1, block := 1, region := 16, vn := 128, tn := 32, lm := 0xFFFFFFFF, fr := frag }

def region : Region := { (default : Region) with num := 16, uha := 0x9000, instS := 16, instF := 16, instH := 16, instM := 16, instL := 16 }

/-- Pages of 2^30 bytes: the first in system memory, the second in local memory, the third in a peer; in the fourth, of 2^21
bytes: a first-touch page, a swapped one, a migrating one, a malformed entry, an absent page, and a first-touch page of 2^16 (R337 to
R339). -/
def pages : Mem := [(0x1000, 0x01), (0x1001, 0x20), (0x2000, 0x01), (0x2001, 0x30), (0x3000, 0x1F), (0x3001, 0x02),
  (0x3008, 0x1F), (0x3010, 0x1F), (0x3011, 0x04), (0x3018, 0x01), (0x3019, 0x40), (0x4000, 0x42), (0x4008, 0x82), (0x4010, 0x02), (0x4011, 0x01),
  (0x4019, 0x08), (0x4028, 0x01), (0x4029, 0x60)] ++
  (List.range 16).flatMap fun k => (0x6000 + 8 * k, (0x62 : Byte)) :: if k = 0 then [] else [(0x6000 + 8 * k + 1, BitVec.ofNat 8 (16 * k))]

def block : Block := { (default : Block) with bid := 1, launch := 1, crews := 2, pair := some 0, scratchSize := 4096 }

/-- The state most instructions are tried on. -/
def st : State := { State.reset with
  nextId := 100, cur := crew, blocks := [block], loc := pages, xl := { Xlate.zero with ptrt := 0x1000 }
  rg := { Regions.zero with eff := [region] } }

/-- `st` with another crew, uniform registers set, affine registers set. -/
def on (f : Crew → Crew) : State := { st with cur := f crew }
def withC (l : List (Fin 64 × Word)) : State := on fun c => { c with c := l.foldl (fun v x => v.set x.1 x.2) c.c }
def withA (l : List (Fin 32 × Affine)) : State := on fun c => { c with a := l.foldl (fun v x => v.set x.1 x.2) c.a }
/-- With one lane under `xm`. -/
def part : State := on fun c => { c with fr := { c.fr with xm := 1 } }
/-- With no lane under `xm`. -/
def idle : State := on fun c => { c with fr := { c.fr with xm := 0 } }
/-- In a handler. -/
def handling (l : Level) : State := on fun c => { c with cst := { c.cst with lvl := l }, fr := { c.fr with handler := true } }

def readyB (s : State) (i : Instr) : Bool :=
  s.cur.alive && !held s i && (dueImprec s i (uses s i)).isNone && (failedTrap s.cur.fr).isNone &&
    (badHint (accepts i) s.cur.fr.run).isNone && (tooHigh s i).isEmpty

theorem ready_of {s : State} {i : Instr} (h : readyB s i = true) : Ready s i := by
  simp only [readyB, Bool.and_eq_true, Bool.not_eq_true', Option.isNone_iff_eq_none, List.isEmpty_iff] at h
  obtain ⟨⟨⟨⟨⟨h1, h2⟩, h3⟩, h4⟩, h5⟩, h6⟩ := h
  exact ⟨h1, h2, h3, h4, h5, h6⟩

theorem all_ready {s : State} {l : List Instr} (h : l.all (readyB s) = true) : ∀ i ∈ l, Ready s i :=
  fun i hi => ready_of (List.all_eq_true.1 h i hi)

def cleanB (s : State) (i : Instr) : Bool :=
  (uses s i).r.all (fun r => s.cur.poisonOf r &&& active s == 0) && (popped s.cur (uses s i)).isEmpty &&
    (fed s.cur (uses s i)).isEmpty

theorem clean_of {s : State} {i : Instr} (h : cleanB s i = true) : Clean s i (uses s i).r := by
  simp only [cleanB, Bool.and_eq_true, List.all_eq_true, List.isEmpty_iff, beq_iff_eq] at h
  exact ⟨h.1.1, h.1.2, h.2⟩

/-- Ready and clean, for every form of a list. -/
theorem all_meet {s : State} {l : List Instr} (h : l.all (fun i => readyB s i && cleanB s i) = true) :
    ∀ i ∈ l, Ready s i ∧ Clean s i (uses s i).r := fun i hi => by
  have := List.all_eq_true.1 h i hi
  rw [Bool.and_eq_true] at this
  exact ⟨ready_of this.1, clean_of this.2⟩

def canonB (s : State) : Bool :=
  s.loc.wf && s.sys.wf && s.peers.all (fun x => x.2.wf) && s.weights.all (fun x => x.2.wf) &&
    s.blocks.all (fun b => b.scratch.wf) && s.cores.all (fun x => x.2.tstore.wf) && s.ctr.spare.wf

theorem canon_of {s : State} (h : canonB s = true) : MemoriesCanonical s := by
  simp only [canonB, Bool.and_eq_true, List.all_eq_true] at h
  obtain ⟨⟨⟨⟨⟨⟨h1, h2⟩, h3⟩, h4⟩, h5⟩, h6⟩, h7⟩ := h
  exact ⟨h1, h2, h3, h4, h5, h6, h7⟩

def uniformForms (d a b : CReg) : List Instr :=
  [.cadd d a b, .caddImm d a 5, .csub d a b, .cmul d a b, .cmulh d a b, .cmad d a b, .cmov d a, .cnot d a, .cand d a b, .cor d a b,
    .cxor d a b, .cshl d a b, .cshr d a b, .csar d a b, .cmin d a b, .cminu d a b, .cmax d a b, .cmaxu d a b, .ccmpEq d a b,
    .ccmpNe d a b, .ccmpLt d a b, .ccmpLe d a b, .ccmpLtu d a b, .ccmpLeu d a b, .csel d a b, .cbfe d a b, .cpopc d a, .cclz d a,
    .mpop d .xm]

theorem test_uniform_met : fullMask st = true ∧ ∀ i ∈ uniformForms 1 2 3, Ready st i := ⟨by decide, all_ready (by decide)⟩
/-- A write of `cz` under a partial mask. -/
theorem test_uniform_zero_met : fullMask part = false ∧ ∀ i ∈ uniformForms 63 2 3, Ready part i :=
  ⟨by decide, all_ready (by decide)⟩

def affineForms (d a b : AReg) (c : CReg) : List Instr :=
  [.amov d a, .aidx d c, .aaddA d a b, .aaddC d a c, .asubA d a b, .asubC d a c, .amul d a c, .ashl d a c]

/-- A stride at each end of the range, and one beyond. -/
def strides (x y : BitVec 32) : State := withA [(1, ⟨1, x⟩), (2, ⟨0, y⟩)]

theorem test_affine_met : fullMask st = true ∧ ∀ i ∈ affineForms 1 2 3 4, Ready st i := ⟨by decide, all_ready (by decide)⟩
theorem test_affine_ends_met : fullMask (strides 0x7FFFFFFF 1) = true ∧ Ready (strides 0x7FFFFFFF 1) (.aaddA 3 1 2) ∧
    (getA (strides 0x7FFFFFFF 1) 1).stride.toInt + (getA (strides 0x7FFFFFFF 1) 2).stride.toInt = 2 ^ 31 - 1 + 1 ∧
    Ready (strides 0x80000000 1) (.asubA 3 1 2) ∧
    (getA (strides 0x80000000 1) 1).stride.toInt - (getA (strides 0x80000000 1) 2).stride.toInt = -(2 ^ 31) - 1 ∧
    (getA (strides 0x80000000 0) 1).stride.toInt - (getA (strides 0x80000000 0) 2).stride.toInt = -(2 ^ 31) :=
  ⟨by decide, ready_of (by decide), by decide, ready_of (by decide), by decide, by decide⟩
theorem test_affine_partial_met : fullMask part = false ∧ (∀ i ∈ affineForms 1 2 3 4, Ready part i) ∧
    ∀ i ∈ affineForms 31 2 3 4, Ready part i := ⟨by decide, all_ready (by decide), all_ready (by decide)⟩

theorem test_integer_met : ∀ i ∈ ([.vadd 1 2 (.v 3) .i64, .vsub 1 2 (.c 3) .i32x2, .vmul 1 2 (.a 3) .i16x4,
    .vmad 1 2 (.imm 64) .i8x8, .vmulh 1 2 (.v 3) .i64, .vand 1 2 (.v 3) .i64, .vor 1 2 (.v 3) .i64, .vxor 1 2 (.v 3) .i64,
    .vshl 1 2 (.v 3) .i8x8, .vshr 1 2 (.v 3) .i64, .vsar 1 2 (.v 3) .i64, .vmin 1 2 (.v 3) .i64, .vminu 1 2 (.v 3) .i64,
    .vmax 1 2 (.v 3) .i64, .vmaxu 1 2 (.v 3) .i64, .vbfe 1 2 (.v 3) 0, .vbfi 127 2 (.v 3) 1, .vnot 1 2 .i64, .vabs 1 2 .i64,
    .vneg 1 2 .i64, .vpopc 1 2 .i64, .vclz 1 2 .i8x8] : List Instr), Ready st i ∧ Clean st i (uses st i).r := all_meet (by decide)

theorem test_float_met : ∀ i ∈ ([.fadd 1 2 (.v 3) .f64, .fsub 1 2 (.c 3) .f32x2, .fmul 1 2 (.a 3) .f16x4,
    .ffma 1 2 (.imm 5) .bf16x4, .fmin 1 2 (.v 3) .f64, .fmax 1 2 (.v 3) .f64, .fabs 1 2 .f64, .fneg 1 2 .f64, .frnd 1 2 .f64,
    .fclass 1 2 .f64] : List Instr), Ready st i ∧ Clean st i (uses st i).r := all_meet (by decide)
/-- A NaN, both infinities, for the clauses that name them; 1 below 2, −0 below +0, and nothing below a NaN. -/
theorem test_float_classes_met : ((FltTy.fmt .f32x2).decode 0x7FC00000).isNan = true ∧
    (FltTy.fmt .f32x2).decode 0x7F800000 = .inf false ∧ (FltTy.fmt .f32x2).decode 0xFF800000 = .inf true ∧
    isBelow (fp32.decode 0x3F800000) (fp32.decode 0x40000000) = true ∧
    isBelow (fp32.decode 0x80000000) (fp32.decode 0) = true ∧ isBelow (fp32.decode 0) (fp32.decode 0x80000000) = false ∧
    isBelow (fp32.decode 0) (fp32.decode 0x7FC00000) = false := by decide

theorem test_special_met : (∀ i ∈ ([.frcp 1 2 .f32x2, .frsq 1 2 .f16x4, .fsqrt 1 2 .bf16x4, .fexp2 1 2 .f32x2, .flog2 1 2 .f32x2,
    .fsin 1 2 .f32x2, .fcos 1 2 .f32x2] : List Instr), Ready st i ∧ Clean st i (uses st i).r) ∧
    fp16.decode 0x7E00 = .nan ∧ fp16.decode 0x7C00 = .inf false ∧ fp16.decode 0xFC00 = .inf true ∧
    fp16.decode 0x8000 = .fin true 0 (-24) ∧ fp16.decode 0xBC00 = .fin true 1024 (-10) ∧
    (fp16.decode 0x3C00).eqv (.fin false 1 0) = true := ⟨all_meet (by decide), by decide⟩

theorem test_compare_met : ∀ i ∈ ([.vcmp 1 2 3 .lt .i64, .vcmpLtu 1 2 3 .i8x8, .vcmpLeu 1 2 3 .i64, .fcmp 1 2 3 .ne .f64,
    .fcmpUo 1 2 3 .bf16x4] : List Instr), Ready st i ∧ Clean st i (uses st i).r := all_meet (by decide)

theorem test_convert_met : ∀ i ∈ ([.cvt 1 2 (.flt .f64) (.int .i8x8), .cvt 1 2 (.int .i64) (.flt .f32x2),
    .cvt 1 2 (.flt .f16x4) (.flt .f64), .cvt 1 2 (.int .i8x8) (.int .i64), .cvw 1 2 .f64 0, .cvn 1 2 .f64 27, .cvs 1 2 3 0,
    .dot2F32x2 1 2 3, .dot4F16x4 1 2 3, .dot4Bf16x4 1 2 3, .dot4I16x4 1 2 3, .dot8I8x8 1 2 3,
    .dot8Binary8 1 2 3 5] : List Instr), Ready st i ∧ Clean st i (uses st i).r := all_meet (by decide)
theorem test_dot_version_met : st.cur.nbv.toNat % 16 ≠ 4 ∧ (on fun c => { c with nbv := 4 }).cur.nbv.toNat % 16 = 4 ∧
    Ready (on fun c => { c with nbv := 4 }) (.dot8Binary8 1 2 3 5) := ⟨by decide, by decide, ready_of (by decide)⟩

theorem test_welford_met : ∀ i ∈ ([.welf 124 1 0, .welf 124 1 1, .wmrg 0 124 0, .wmrg 4 8 1] : List Instr),
    i.wf = true ∧ Ready st i ∧ Clean st i (uses st i).r := fun i hi => ⟨List.all_eq_true.1 (by decide) i hi, all_meet (by decide) i hi⟩
/-- An empty triple in every lane, and one of a sample in lane 0. -/
theorem test_welford_merge_met : (fp32.decode (tripleAt st 124 1 0).n).zero? = true ∧
    (let s := on fun c => { c with v := c.v.set 124 (mkLanes fun l => if l = 0 then 0x3F800000 else 0) }
     Ready s (.wmrg 0 124 1) ∧ (fp32.decode (tripleAt s 124 1 0).n).zero? = false ∧ inMask (active s) 0 = true) :=
  ⟨by decide, ready_of (by decide), by decide⟩

/-- Lane 0 active, lanes 8 to 31 dead. -/
def dying : State := on fun c => { c with lm := 0xFF, fr := { c.fr with fl := 0xFF, xm := 1 } }

theorem test_cross_lane_met : ∀ s ∈ [st, dying], ∀ i ∈ ([.shfl 1 2 3, .shflx 1 2 3, .bcst 1 2 31, .voteAny 1 2, .voteAll 1 2,
    .voteBal 1 2, .vsel 1 2 3 4, .vperm 1 2 3, .rdc 1 2 .add (.int .i64), .rdc 1 2 .minu (.int .i8x8), .scan 1 2 .max (.int .i64),
    .rdc 1 2 .add (.flt .f64), .scan 1 2 .min (.flt .f32x2)] : List Instr), Ready s i ∧ Clean s i (uses s i).r := by
  intro s hs
  rcases List.mem_cons.1 hs with rfl | hs
  · exact all_meet (by decide)
  · rw [List.mem_singleton.1 hs]; exact all_meet (by decide)

/-- Lanes that are all NaN, and one that is not. -/
theorem test_reduction_nan_met :
    let all (x : Word) : State := on fun c => { c with v := c.v.set 2 (mkLanes fun l => if l = 3 then x else 0x7FF8000000000000) }
    Ready (all 0x7FF8000000000000) (.rdc 1 2 .min (.flt .f64)) ∧ Ready (all 0) (.scan 1 2 .max (.flt .f64)) ∧
    (fp64.decode (laneAt (getV (all 0) 2) 0).toNat).isNan = true ∧ (fp64.decode (laneAt (getV (all 0) 2) 3).toNat).isNan = false :=
  ⟨ready_of (by decide), ready_of (by decide), by decide⟩

theorem test_mask_met : (∀ i ∈ ([.mmov (.m 7) .xm, .mand .xm (.m 1) .lm, .mor (.m 1) .xm .xm, .mxor .xm (.m 1) .xm, .mnot .xm .xm,
    .mfirst (.m 3) .xm, .mfirst .xm (.m 0)] : List Instr), i.wf = true ∧ Ready st i) ∧ maskSrc st (.m 0) = 0 ∧
    inMask (maskSrc st .xm) 0 = true := by
  exact ⟨fun i hi => ⟨List.all_eq_true.1 (by decide) i hi, all_ready (by decide) i hi⟩, by decide⟩

/-- Lanes that agree, that differ in lane 31, and none. -/
theorem test_lift_met : (∀ i ∈ ([.lca 1 2, .lcv 1 2, .lav 1 2, .lvc 1 2, .lvcx 1 2] : List Instr),
      Ready st i ∧ Clean st i (uses st i).r) ∧ Ready part (.lca 1 2) ∧ inMask (active st) 0 = true ∧
    (∀ i ∈ ([.lvc 63 2, .lvcx 63 2] : List Instr), Ready idle i ∧ Clean idle i (uses idle i).r) ∧ active idle = 0 ∧
    (let s := on fun c => { c with v := c.v.set 2 (mkLanes fun l => if l = 31 then 1 else 0) }
     Ready s (.lvcx 1 2) ∧ laneAt (getV s 2) 31 ≠ laneAt (getV s 2) 0) :=
  ⟨all_meet (by decide), ready_of (by decide), by decide, all_meet (by decide), by decide, ready_of (by decide), by decide⟩

/-! ## Control -/

theorem test_branch_met : (∀ i ∈ ([.br 5, .nop, .brcZ 1 5, .brcNz 1 5, .brcNeg 1 5, .jmpi 1, .ret 1, .call 1 5] : List Instr), Ready st i) ∧
    fullMask st = true ∧ Ready part (.call 63 5) := ⟨all_ready (by decide), by decide, ready_of (by decide)⟩
/-- The last address, the first beyond, and a misaligned one. -/
theorem test_jump_met : ∀ v ∈ ([0x1FFFFFFFFFFFFFC, 0x200000000000000, 2] : List Word), Ready (withC [(1, v)]) (.jmpi 1) := by
  intro v hv
  simp only [List.mem_cons, List.not_mem_nil, or_false] at hv
  rcases hv with rfl | rfl | rfl <;> exact ready_of (by decide)

/-- With `n` join records, a run of a join hint, and a mask of the branch. -/
def split (n : Nat) (hint : Bool) (m : Mask) : State := on fun c => { c with
  joins := List.replicate n ⟨50, 0x2000, 0xFFFFFFFF, none⟩, m := c.m.set 2 m, fr := { c.fr with run := if hint then [.join 0x20] else [] } }

theorem test_split_met : Ready (split 256 true 1) (.brv 2 8) ∧ (curMods (split 256 true 1)).join.isSome = true ∧
    256 ≤ (split 256 true 1).cur.joins.length ∧ Ready (split 255 true 1) (.brv 2 8) ∧
    (split 255 true 1).cur.joins.length < 256 ∧ Ready (split 256 false 1) (.brv 2 8) ∧
    (curMods (split 256 false 1)).join.isNone = true :=
  ⟨ready_of (by decide), by decide, by decide, ready_of (by decide), by decide, ready_of (by decide), by decide⟩
/-- No lane taken, every lane, one of them. -/
theorem test_split_sides_met : ∀ m ∈ ([0, 0xFFFFFFFF, 1] : List Mask), Ready (split 0 false m) (.brv 2 8) := by
  intro m hm
  simp only [List.mem_cons, List.not_mem_nil, or_false] at hm
  rcases hm with rfl | rfl | rfl <;> exact ready_of (by decide)

/-- A fragment whose daymark is 5, after a low hint of 5 or of 6. -/
def marked (k : BitVec 24) : State := on fun c => { c with fr := { c.fr with dmk := 5, run := [.lo k] } }

theorem test_fragment_control_met : (∀ i ∈ ([.elect 1, .yield] : List Instr), Ready st i) ∧ Ready idle (.elect 1) ∧
    liveXm idle = 0 ∧ inMask (liveXm st) 0 = true ∧ Ready (marked 5) .sigchk ∧
    ((curMods (marked 5)).wide.getD 0).setWidth 32 = (marked 5).cur.fr.dmk ∧ Ready (marked 6) .sigchk ∧
    ((curMods (marked 6)).wide.getD 0).setWidth 32 ≠ (marked 6).cur.fr.dmk :=
  ⟨all_ready (by decide), ready_of (by decide), by decide, by decide, ready_of (by decide), by decide, ready_of (by decide), by decide⟩
theorem test_hints_join_met : st.cur.alive = true ∧ dueImprec st (.hintLo 5) {} = none ∧ failedTrap st.cur.fr = none ∧
    ∀ h ∈ ([.lo 5, .hi 5, .mod 0x900000, .join 5] : List Hint),
      runBreaks st.cur.fr.run h = false ∧ runAdmits st.cur.fr.run h = true := by decide

/-- Region 16 with no user handler, and the launch it belongs to. -/
def noHandler : State := { st with
  rg := { st.rg with eff := [{ region with uha := 0 }] }, launches := [{ (default : Launch) with lid := 1, st := .running }] }
def inHandler : State := { noHandler with cur := { crew with cst := { crew.cst with lvl := .user } } }

theorem trapsAtOnce_of {s : State} (h : (s.cur.stores.isEmpty && s.cur.all.all fun f => !barParked f &&
    match f.park with | .lnch .. => false | _ => true) = true) : TrapsAtOnce s := by
  simp only [Bool.and_eq_true, List.isEmpty_iff, List.all_eq_true, Bool.not_eq_true'] at h
  refine ⟨h.1, fun f hf => ⟨(h.2 f hf).1, fun cd since lid e => ?_⟩⟩
  have := (h.2 f hf).2
  rw [e] at this
  cases this

theorem test_trap_met : Ready st (.trap 1) ∧ regionAt? st 16 = some region ∧ region.uha ≠ 0 ∧ st.cur.cst.lvl = .none ∧
    TrapsAtOnce st ∧ Ready noHandler (.trap 1) ∧ regionAt? noHandler 16 = some { region with uha := 0 } ∧
    TrapsAtOnce noHandler ∧ (launchAt? noHandler 1).isSome = true ∧ Ready inHandler (.trap 1) ∧ inHandler.cur.cst.lvl ≠ .none ∧
    (launchAt? inHandler 1).isSome = true :=
  ⟨ready_of (by decide), by decide, by decide, by decide, trapsAtOnce_of (by decide), ready_of (by decide), by decide,
    trapsAtOnce_of (by decide), by decide, ready_of (by decide), by decide, by decide⟩
/-- An instruction that raises a cause of its own. -/
theorem test_trap_raises_met : Raises (withC [(1, 2)]) (.jmpi 1) { cause := .badpc, addr := 2 } ∧
    regionAt? (withC [(1, 2)]) 16 = some region ∧ TrapsAtOnce (withC [(1, 2)]) := ⟨rfl, by decide, trapsAtOnce_of (by decide)⟩

/-- In a handler at a level, returning to `pc`, with the fragment that it interrupted. -/
def returning (l : Level) (pc : Word) : State := on fun c => { c with
  cst := { c.cst with lvl := l }, tpc := pc, txm := 1, trapped := 2, fr := { c.fr with handler := true }, frags := [{ frag with fid := 2 }] }

theorem test_return_met : Ready st .rft ∧ Ready st .pdone ∧
    (∀ i ∈ ([.rft, .pdone] : List Instr), Ready (returning .preempt 0x1000) i) ∧
    fullMask (returning .preempt 0x1000) = true ∧ (returning .preempt 0x1000).cur.stores = [] ∧
    quiet (returning .preempt 0x1000) = true ∧ saveMoves (returning .preempt 0x1000) = false ∧ (returning .user 0x1000).cur.cst.ppre = false ∧
    (returning .user 0x1000).cur.imprec = [] ∧ (returning .user 0x1000).cur.fr.handler = true ∧
    (returning .user 0x1000).cur.frags = [{ frag with fid := 2 }] ∧ (returning .user 0x1000).cur.trapped = 2 :=
  ⟨ready_of (by decide), ready_of (by decide), all_ready (by decide), by decide, rfl, by decide, by decide, rfl, rfl, rfl, rfl, rfl⟩
/-- A return to the last address, to the first beyond and to a misaligned one. -/
theorem test_return_address_met : ([0x1FFFFFFFFFFFFFC, 0x200000000000000, 2] : List Word).all (fun pc =>
    readyB (returning .user pc) .rft && readyB (returning .supervisor pc) .rft) = true := by decide

/-- With a store that has not been translated, and with one that has not been performed. -/
def storing : StoreReq := {
  id := 9, fid := 1, pc := 0, po := [1], size := 4, act := 1, lanes := [(0, 0x100, 5)], scope := .block, rel := false
  ord := 0, scp := 0, skid := 0, hnd := false }
def stored : StoreT := {
  id := 9, cid := 1, fid := 1, launch := 1, pair := 0, block := 1, deps := [], size := 4
  lanes := [⟨0, 0x100, ⟨.sys, 0x100⟩, ⟨true, true, false⟩, 5⟩], scope := .block, rel := false, logged := none }
def behindStore : State := on fun c => { c with stores := [storing] }
def behindQueue : State := { st with storeQ := [stored] }
/-- In the pre-emption handler with a store that has not been performed. -/
def leaving : State := { returning .preempt 0x1000 with storeQ := [stored] }

theorem test_return_waits_met : (∀ i ∈ ([.rft, .pdone] : List Instr), Ready leaving i) ∧ quiet leaving = false ∧
    leaving.cur.stores = [] ∧ fullMask leaving = true := ⟨all_ready (by decide), by decide, rfl, by decide⟩

theorem test_waiting_met : (∀ i ∈ ([.wcnt 63, .drain, .fence] : List Instr), Ready st i) ∧ st.cur.stores = [] ∧
    fenceClear st st.cur st.cur.fr true .device = true ∧ Ready behindQueue .fence ∧ behindQueue.cur.stores = [] ∧
    fenceClear behindQueue behindQueue.cur behindQueue.cur.fr true .device = false ∧ Ready behindStore (.wcnt 63) ∧
    0 < storesLeft behindStore behindStore.cur :=
  ⟨all_ready (by decide), by decide, by decide, ready_of (by decide), by decide, by decide, ready_of (by decide), by decide⟩

/-- A future of the crew; two fragments of which one ends. -/
def future (d : Dest) (k : FutKind) : Fut := ⟨7, 1, [1], [], d, k, []⟩
def waitingLoad : State := on fun c => { c with futs := [future (.v 5 1) (.load 4 false [⟨0, 0x100, ⟨.sys, 0x100⟩, ⟨true, true, false⟩, 0⟩] .block false)] }
def twoFrags : State := on fun c => { c with
  fr := { c.fr with fl := 0xFFFF, xm := 0xFFFF }, frags := [{ frag with fid := 2, fl := 0xFFFF0000, xm := 0xFFFF0000, entry := some 1 }] }

theorem test_end_met : (∀ s ∈ [st, waitingLoad, twoFrags], s.cur.stores = []) ∧ Ready st .endd ∧ Ready waitingLoad .endd ∧ Ready twoFrags .endd ∧
    st.cur.futs.all (fun f => f.dest == .none) = true ∧ waitingLoad.cur.futs.all (fun f => f.dest == .none) = false ∧
    engCount st 0 1 = 0 ∧ copiesOf st 1 false = 0 ∧ copiesOf st 1 true = 0 ∧ st.cur.lm &&& ~~~st.cur.fr.fl = 0 ∧
    twoFrags.cur.lm &&& ~~~twoFrags.cur.fr.fl ≠ 0 ∧ blockAt? st 1 = some block :=
  ⟨by decide, ready_of (by decide), ready_of (by decide), ready_of (by decide), by decide⟩

/-! ## Special registers -/

def allRegisters : List SReg := [.xm, .lm, .fl, .cst, .dmk, .tcause, .tpc, .taddr, .tlanes, .tinfo, .txm, .tk0, .tk1, .hbud, .nbv, .nsf,
  .mcfg, .mst, .gang, .sfra, .ftmap, .ftst, .bpc, .ccyc, .rfph, .wdc, .pme 15, .pmc 15]

theorem test_special_reads_met : (∀ i ∈ allRegisters.map (Instr.sread 1), Ready st i) ∧ fullMask st = true ∧
    (∀ i ∈ ([.sread 1 .ftmap, .sread 1 .ftst] : List Instr), Ready (handling .supervisor) i) ∧ st.cur.cst.lvl ≠ .supervisor ∧
    regionAt? st st.cur.region = some region := ⟨all_ready (by decide), by decide, all_ready (by decide), by decide, by decide⟩

def written : List SReg := [.xm, .cst, .tcause, .tpc, .taddr, .tlanes, .tinfo, .txm, .tk0, .tk1, .nbv, .nsf, .pme 0, .pmc 0]

theorem test_special_writes_met : (∀ i ∈ .mcfgWrite 1 :: .ftmapWrite 1 :: written.map (Instr.swrite 1), Ready st i) ∧
    (([.user, .supervisor, .preempt] : List Level).all fun l => (written.map (Instr.swrite 1)).all (readyB (handling l))) = true ∧
    fullMask (handling .user) = true ∧ Ready (withC [(1, 4)]) (.swrite 1 .nbv) ∧ Ready (withC [(1, 6)]) (.swrite 1 .nbv) :=
  ⟨all_ready (by decide), by decide, by decide, ready_of (by decide), ready_of (by decide)⟩

/-- `ftmap` written for an address, with a pool of 2^21-byte frames of a count, or of another size, or none. -/
def touching (pool : Option Pool) (va : Word) : State :=
  let s := handling .supervisor
  { s with cur := { s.cur with c := s.cur.c.set 1 va }, rg := { s.rg with touchPool := (pool.map fun p => (16, p)).toList } }

theorem test_first_touch_ready : ([(none, 0xC0000000), (some ⟨0x5000, 2, 4, 0⟩, 0xC0200000), (some ⟨0x5000, 2, 4, 1⟩, 0xC0000000),
    (some ⟨0x5000, 0, 4, 1⟩, 0xC0000000), (none, 0), (none, 0xC0800000), (none, 0xC0600000)] : List (Option Pool × Word)).all
    (fun x => readyB (touching x.1 x.2) (.ftmapWrite 1)) = true := by decide
/-- No link retrains and no pool's page migrates there; an address that is not canonical. -/
theorem test_first_touch_goes : ([(none, 0xC0000000), (some ⟨0x5000, 2, 4, 0⟩, 0xC0200000), (some ⟨0x5000, 2, 4, 1⟩, 0xC0000000),
    (none, 0x200000000000000)] : List (Option Pool × Word)).all (fun x => !touchMoves (touching x.1 x.2) &&
      !touchHeld (touching x.1 x.2) x.2.toNat && !releaseHeld (touching x.1 x.2) 0 .device) = true ∧ canonical 0x200000000000000 = false := by decide
/-- A page of sixteen entries, with a pool of its size. -/
theorem test_first_touch_group_met : Ready (touching (some ⟨0x5000, 1, 4, 1⟩) 0xC0A01000) (.ftmapWrite 1) ∧
    walk (touching none 0) 0xC0A01000 = .leaf 0x1062 16 0x6008 ∧ Pool.bits ⟨0x5000, 1, 4, 1⟩ = 16 ∧
    (Pool.pop (touching (some ⟨0x5000, 1, 4, 1⟩) 0) ⟨0x5000, 1, 4, 1⟩).isSome = true :=
  ⟨ready_of (by decide), by decide, by decide, by decide⟩
/-- The leaves of those addresses, and what the pools hold. -/
theorem test_first_touch_met : walk (touching none 0) 0xC0000000 = .leaf 0x42 21 0x4000 ∧
    walk (touching none 0) 0xC0200000 = .leaf 0x82 21 0x4008 ∧ walk (touching none 0) 0xC0800000 = .leaf 0 21 0x4020 ∧
    walk (touching none 0) 0xC0600000 = .malformed ∧ walk (touching none 0) 0 = .leaf 0x21F 30 0x3000 ∧
    Pool.bits ⟨0x5000, 2, 4, 1⟩ = 21 ∧ Pool.bits ⟨0x5000, 0, 4, 1⟩ ≠ 21 ∧
    Pool.pop (touching (some ⟨0x5000, 2, 4, 0⟩) 0) ⟨0x5000, 2, 4, 0⟩ = none ∧
    (Pool.pop (touching (some ⟨0x5000, 2, 4, 1⟩) 0) ⟨0x5000, 2, 4, 1⟩).isSome = true := by decide

/-- Every instruction of R101 that a partial mask traps. -/
theorem test_partial_met : fullMask part = false ∧ (∀ i ∈ uniformForms 1 2 3 ++ affineForms 1 2 3 4 ++
    [.call 1 5, .sread 1 .xm, .lvc 1 2, .lvcx 1 2, .qstat 1 2, .lnch 1 2, .ldc 1 ⟨2, .a 3, true⟩ .b64 false, .locq 1 2 0, .growV 1 2, .growT 1 2,
      .shrinkV 1 2, .shrinkT 1 2, .bara 1 2, .lca 1 2, .swrite 1 .tk0, .swrite 1 .nsf, .mcfgWrite 1], Ready part i) ∧
    readRefused part .xm = false := ⟨by decide, all_ready (by decide), by decide⟩
/-- The registers that only a handler writes, and those of the supervisor's. -/
theorem test_partial_registers_met : ([.user, .supervisor] : List Level).all (fun l =>
    let s : State := { handling l with cur := { (handling l).cur with fr := part.cur.fr } }
    !fullMask s && ([.cst, .tk0, .tk1, .nbv, .nsf, .tcause, .tpc, .taddr, .tlanes, .tinfo, .txm] : List SReg).all (fun r => readyB s (.swrite 1 r)) &&
      (l != .supervisor || (readyB s (.swrite 1 (.pme 15)) && readyB s (.swrite 1 (.pmc 0)) && readyB s (.ftmapWrite 1)))) = true := by decide

/-! ## Memory -/

/-- The address in `c1`, the same in every lane. -/
def op : MOp := { base := 1, idx := .a 31, scaled := true }
def addr (va : Word) : State := withC [(1, va)]
def idleAddr : State := { idle with cur := { idle.cur with c := idle.cur.c.set 1 2 } }

theorem lanes_ok {r : Lanes?} (h : (match r with | .ok l => !l.isEmpty | _ => false) = true) : ∃ las, r = .ok las ∧ las ≠ [] := by
  cases r with
  | ok l => exact ⟨l, rfl, by simpa using h⟩
  | _ => cases h

def memForms : List Instr := [.ld 4 op .b32 true, .ld 4 op .b128 false, .lds 4 op .b32 false, .st 4 op .b32, .sts 4 op .b32,
  .pacq 4 op .b32 false, .atomAdd 4 op false, .atomAnd 5 op false, .atomOr 4 op false, .atomXor 4 op false, .atomMin 4 op false,
  .atomMax 4 op false, .atomMinu 4 op false, .atomMaxu 4 op false, .atomExch 4 op false, .atomFadd 4 op false, .atomFmin 4 op false,
  .atomFmax 4 op false, .cas 4 op false]

/-- Every form in a full mask, at a misaligned address, and with no active lane. -/
theorem test_memory_met : (∀ i ∈ memForms, Ready st i ∧ Clean st i (uses st i).r) ∧
    (∀ i ∈ memForms, Ready (addr 2) i ∧ Clean (addr 2) i (uses (addr 2) i).r) ∧
    (∀ i ∈ memForms, Ready idleAddr i ∧ Clean idleAddr i (uses idleAddr i).r) ∧ memForms.all Instr.wf = true ∧ active idleAddr = 0 ∧
    ((accesses (addr 2) op .b32).filter fun l => l.2 % 4 != 0) ≠ [] ∧ ((accesses st op .b32).filter fun l => l.2 % 4 != 0) = [] :=
  ⟨all_meet (by decide), all_meet (by decide), all_meet (by decide), by decide, by decide, by decide, by decide⟩
/-- Lanes that translate: system memory, the last line of local memory's page, a peer. -/
theorem test_translated_met : (∃ las, (translateLanes st .read 0 ((accesses st op .b32).map fun l => (l.1, l.2, 0))).1 = .ok las ∧ las ≠ []) ∧
    (∃ las, (translateLanes (addr 0x7FFFFFFC) .write 3
      ((accesses (addr 0x7FFFFFFC) op .b32).map fun l => (l.1, l.2, 0))).1 = .ok las ∧ las ≠ []) ∧
    (∃ las, (translateLanes (addr 0x80000000) .read 0
      ((accesses (addr 0x80000000) op .b32).map fun l => (l.1, l.2, 0))).1 = .ok las ∧ las ≠ []) :=
  ⟨lanes_ok (by decide), lanes_ok (by decide), lanes_ok (by decide)⟩
theorem test_constant_load_met : Ready st (.ldc 4 op .b128 false) ∧ Ready (addr 2) (.ldc 4 op .b32 true) ∧
    (∃ las, (translateLanes st .read 0 [(0, laneAddress st op .b32 0, 0)]).1 = .ok las ∧ las ≠ []) :=
  ⟨ready_of (by decide), ready_of (by decide), lanes_ok (by decide)⟩
/-- The last element of the scratchpad, and the first beyond it. -/
theorem test_scratchpad_met : Ready (addr 4092) (.lds 4 op .b32 false) ∧ Ready (addr 4096) (.sts 4 op .b32) ∧
    ((accesses (addr 4092) op .b32).filter fun l => decide (4096 < l.2 + 4)) = [] ∧
    ((accesses (addr 4096) op .b32).filter fun l => decide (4096 < l.2 + 4)) ≠ [] ∧
    ((blockAt? st st.cur.block).map fun b => b.scratchSize) = some 4096 :=
  ⟨ready_of (by decide), ready_of (by decide), by decide, by decide, by decide⟩
/-- All lanes of a `pacq` in local memory, and none. -/
theorem test_promoting_met : (match (translateLanes (addr 0x40000000) .read 0
      ((accesses (addr 0x40000000) op .b32).map fun l => (l.1, l.2, 0))).1 with
      | .ok las => !las.isEmpty && las.all fun l => l.pa.sp == .loc | _ => false) = true ∧
    (match (translateLanes st .read 0 ((accesses st op .b32).map fun l => (l.1, l.2, 0))).1 with
      | .ok las => !las.isEmpty && las.all fun l => l.pa.sp != .loc | _ => false) = true := by decide

theorem test_caches_met : (∀ i ∈ ([.pref op .b32, .cctlWb 1 2, .cctlInv 1 2, .cctlIinv 1 2, .locq 3 1 0, .locq 3 63 1] : List Instr),
      Ready st i ∧ Clean st i (uses st i).r) ∧ (getC st 2).toNat % 2 ^ 32 = 0 ∧ Ready (withC [(2, 1)]) (.cctlIinv 1 2) ∧
    (getC (withC [(2, 1)]) 2).toNat % 2 ^ 32 ≠ 0 ∧ walk st 0x40000000 = .leaf 0x1F 30 0x3008 ∧ walk st 0xC0600000 = .malformed ∧
    Ready (addr 0x200000000000000) (.locq 3 1 0) ∧ Ready (addr 0xC0600000) (.locq 3 1 0) :=
  ⟨all_meet (by decide), by decide, ready_of (by decide), by decide, by decide, by decide, ready_of (by decide), ready_of (by decide)⟩
/-- A dirty line of the range in the core's L1, and one outside it. -/
def dirtyLines : State := { withC [(1, 0x40000000), (2, 1)] with cores := [(0, { Core.zero with
  l1 := [⟨0x800000, 0, default, 5, 1, 1, 0, 0⟩, ⟨0x800001, 1, default, 5, 1, 1, 0, 0⟩] })] }
theorem test_caches_home_met : (∀ i ∈ ([.cctlWb 1 2, .cctlInv 1 2, .pref op .b32] : List Instr), Ready dirtyLines i) ∧ dirtyLines.loc.wf = true ∧
    PlainHomes dirtyLines ∧ OneLineEach dirtyLines 0 ∧ (coreAt dirtyLines 0).l1.map (fun l => inRange 0x40000000 1 l.vln) = [true, false] :=
  ⟨all_ready (by decide), by decide, by unfold PlainHomes; decide, by unfold OneLineEach; decide, by decide⟩

/-! ## Allotments, queues, copies, launches, barriers -/

/-- Sixty-four registers and sixteen tiles, with a request in `c1`. -/
def asking (n : Word) : State := on fun c => { c with vn := 64, tn := 16, c := c.c.set 1 n }
/-- The same with `v63` pending. -/
def askingPending : State := { asking 56 with cur := { (asking 56).cur with futs := [future (.v 63 1) (.render 1 (.rpop Lanes.zero))] } }

def allotForms : List Instr := [.growV 2 1, .growT 2 1, .shrinkV 2 1, .shrinkT 2 1]

/-- A request of no more, of the most, of too many, of an odd number, of none. -/
theorem test_allotment_met : ([64, 72, 128, 136, 9, 0, 16, 17, 32, 33, 56, 15] : List Word).all (fun n =>
      allotForms.all (readyB (asking n)) && fullMask (asking n)) = true ∧
    Ready askingPending (.shrinkV 2 1) ∧ (pendingV askingPending.cur).any (fun r => decide (56 ≤ r)) = true ∧
    (pendingV (asking 56).cur).all (fun r => decide (r < 56)) = true ∧ (coreAt (asking 15) 0).opq = [] :=
  ⟨by decide, ready_of (by decide), by decide, by decide, by decide⟩

/-- A block with a queue table, and a word to bind or a binding in register 2. -/
def queueBlock : Block := { block with scratchSize := 8192, winSize := 65536, qtab := some 0 }
def binding (w : Word) : State := { withC [(1, w)] with blocks := [queueBlock] }
def bound (w : Word) : State :=
  { on (fun c => { c with qregs := c.qregs.set 2 ⟨w + 0x8000000000000000, 0, 0⟩ }) with blocks := [queueBlock] }

/-- A result queue of one item at offset 256, and of the last that fits; a feed queue. -/
theorem test_queue_bind_met : ([0x0000000000040019, 0x0000000000001C1D, 0x000000000000001A] : List Word).all (fun w =>
      readyB (binding w) (.qbind 2 1)) = true ∧
    bindBad (binding 0x40019) 2 0x40019 = false ∧ bindBad (binding 0x1A) 2 0x1A = false ∧ bindWaits (binding 0x1A) 2 = false ∧
    Ready (binding 0) (.qbind 2 63) ∧ queueBlock.qtab.isSome = true ∧ crew.idx < queueBlock.crews ∧
    (0x1A00000000000000 : Word).toNat % 4 = 0 ∧ Ready (binding 0x1FD) (.qbind 2 1) ∧ (0x1FD : Word).toNat / 4 % 128 = 127 ∧
    Ready st (.qbind 2 1) ∧ block.qtab = none ∧ Ready { st with blocks := [] } (.qbind 2 1) ∧ blockAt? { st with blocks := [] } 1 = none :=
  ⟨by decide, by decide, by decide, by decide, ready_of (by decide), by decide, by decide, by decide, ready_of (by decide), by decide,
    ready_of (by decide), by decide, ready_of (by decide), by decide⟩
/-- A feed push of the crew on its way. -/
def feeding : State := { binding 0x1A with cores := [(0, { Core.zero with feeds := [{ (default : Feed) with cid := 1 }] })] }
theorem test_queue_bind_waits_met : Ready feeding (.qbind 2 1) ∧ bindWaits feeding 2 = true ∧ bindBad feeding 2 0x1A = false ∧
    Ready feeding (.qbind 2 63) ∧ MemoriesCanonical feeding ∧ MemoriesCanonical (binding 0x1A) ∧ MemoriesCanonical (bound 0x19) ∧
    fullMask feeding = true :=
  ⟨ready_of (by decide), by decide, by decide, ready_of (by decide), canon_of (by decide), canon_of (by decide),
    canon_of (by decide), by decide⟩
theorem test_queue_status_met : Ready st (.qstat 1 2) ∧ (st.cur.qregs.get 2).word.getLsbD 63 = false ∧
    Ready (bound 0x19) (.qstat 1 2) ∧ ((bound 0x19).cur.qregs.get 2).word.getLsbD 63 = true ∧
    ((bound 0x19).cur.qregs.get 2).word.toNat % 4 = 1 ∧ Ready (bound 0x1A) (.qstat 1 2) ∧
    ((bound 0x1A).cur.qregs.get 2).word.toNat % 4 = 2 :=
  ⟨ready_of (by decide), by decide, ready_of (by decide), by decide, by decide, ready_of (by decide), by decide⟩

/-- A result queue of one item whose window is `v6`, and a feed queue of that window: an instruction that reads it and one that
writes it. -/
def popping : State := { bound 0x19 with cur := { (bound 0x19).cur with qregs := crew.qregs.set 2 ⟨0x8000000000000019, 0, 1⟩ } }
theorem test_queue_pop_met : Ready popping (.vnot 1 6 .i64) ∧ popped popping.cur (uses popping (.vnot 1 6 .i64)) = [2] ∧
    isVarying (.vnot 1 6 .i64) = true ∧ blockAt? popping 1 = some queueBlock ∧ Ready (bound 0x1A) (.vnot 6 1 .i64) ∧
    fed (bound 0x1A).cur (uses (bound 0x1A) (.vnot 6 1 .i64)) = [2] ∧
    (consumed (.vnot 1 6 .i64) (uses popping (.vnot 1 6 .i64))).all (fun r => popping.cur.poisonOf r &&& active popping == 0) = true :=
  ⟨ready_of (by decide), by decide, by decide, by decide, ready_of (by decide), by decide, by decide⟩

theorem test_copies_met : (∀ i ∈ ([.cpy 59, .tcpy 57, .cpyw 59 1] : List Instr), Ready st i) ∧ fullMask st = true ∧
    ([0x1FFFFFFFFFFFFFC, 0x200000000000000, 2] : List Word).all (fun t => readyB (withC [(1, t)]) (.cpyw 2 1)) = true :=
  ⟨all_ready (by decide), by decide, by decide⟩

/-- A chain open or not, and a command word: a member that lengthens it, one that ends it, one with no chain bit, a last command
without a chain. -/
def chained (o : Option (BitVec 32)) (w : Word) : State := on fun c => { c with chain := o, chainSeq := [8], c := c.c.set 3 w }
theorem test_chain_met : ([(none, 0), (none, 0x2000000), (none, 0x4000000), (none, 0x6000000), (some 5, 0), (some 5, 0x2000000),
    (some 5, 0x4000000), (some 5, 0x6000000)] : List (Option (BitVec 32) × Word)).all (fun x =>
      ([.cpy 1, .tcpy 1, .cpyw 1 40] : List Instr).all (readyB (chained x.1 x.2))) = true ∧
    (0x6000000 : Word).getLsbD 25 = true ∧ (0x6000000 : Word).getLsbD 26 = true := by decide

/-- A launch record at 0x100 of system memory: region 16, one block of one crew at 0x2000; depth limit, pool share, entries in use. -/
def record (lfl : Byte) : Mem := [(0x102, lfl), (0x104, 0x10), (0x109, 0x20), (0x118, 1)]
def launching (lfl : Byte) (dlim psh used queue depth : Nat) : State := { addr 0x100 with
  sys := (record lfl).filter fun x => x.2 != 0
  launches := [{ (default : Launch) with lid := 1, depth := depth, st := .running }]
  rg := { Regions.zero with eff := [{ region with dlim := dlim, psh := psh }], share := [(16, used)] }
  cores := [(0, { Core.zero with pendingLaunch := List.replicate queue 5 })] }

def launchOk (s : State) : Bool := readyB s (.lnch 2 1) && fullMask s &&
  (match (translateAt s (getC s 1).toNat false).1 with | .ok pa => pa == ⟨.sys, 0x100⟩ | _ => false) &&
  !linkHeld s (corePort 0) ⟨.sys, 0x100⟩ && s.dev.diesUp == [0, 1, 2, 3]

theorem test_launch_met : launchOk (launching 0 0 4 3 3 7) = true ∧ launchOk (launching 0 0 4 3 4 0) = true ∧
    launchOk (launching 0 0 4 4 0 0) = true ∧ launchOk (launching 0 2 4 0 0 2) = true ∧ launchOk (launching 2 0 4 0 0 0) = true ∧
    Ready (addr 0x200000000000000) (.lnch 2 1) ∧ Ready (addr 0x1FFFFFFFFFFFFE0) (.lnch 2 1) := by
  refine ⟨by decide, by decide, by decide, by decide, by decide, ready_of (by decide), ready_of (by decide)⟩
/-- What the record's checks answer, and where the limits lie. -/
theorem test_launch_record_met : let s := launching 0 0 4 3 3 7
    let r := LRec.ofBytes (paBytes s ⟨.sys, 0x100⟩ 64)
    r.bad true true = none ∧ r.regn = 16 ∧ (effRegion? s 16).isSome = true ∧ descends s s.cur.region 16 16 = true ∧
    heldRegion s { region with dlim := 0, psh := 4 } = false ∧ queueWaits s 0 = [] ∧ (coreAt s 0).pendingLaunch.length = 3 ∧
    ((launchAt? s 1).map fun l => l.depth) = some 7 ∧
    (LRec.ofBytes (paBytes (launching 2 0 4 0 0 0) ⟨.sys, 0x100⟩ 64)).bad true true = some 2 := by decide

/-- A barrier word of an address and a space. -/
def bword (spc va : Nat) : Word := BitVec.ofNat 64 (2 ^ 57 * spc + va)
def atBarrier (w : Word) : State := withC [(1, w)]
def barForms : List Instr := [.bar 1, .bara 2 1, .bare 1 2, .barw 1 2]

/-- Words in local memory, in the scratchpad at its last place and beyond it, misaligned, of no space. -/
theorem test_barrier_met : ([bword 0 0x40000010, bword 1 4080, bword 1 4096, bword 0 8, bword 2 0, bword 3 0] : List Word).all (fun w =>
      barForms.all (readyB (atBarrier w))) = true ∧ fullMask st = true ∧
    (match (barRef (atBarrier (bword 0 0x40000010)) (bword 0 0x40000010) true).1 with | .ok p => p == ⟨.loc, 0x10⟩ | _ => false) = true ∧
    (match (barRef (atBarrier (bword 1 4080)) (bword 1 4080) true).1 with | .ok p => p == ⟨.spad 1, 4080⟩ | _ => false) = true := by
  decide
/-- Forms that name no lane, under a partial mask. -/
theorem test_barrier_partial_met : fullMask part = false ∧ ∀ i ∈ ([.bar 1, .bara 2 1, .bare 1 2] : List Instr), Ready part i :=
  ⟨by decide, all_ready (by decide)⟩
/-- A phase that has passed and one that has not. -/
theorem test_barrier_wait_met : barMet st st.cur ⟨.spad 1, 16⟩ 0 = false ∧ barMet st st.cur ⟨.spad 1, 16⟩ 0xFFFFFFFF = true := by decide
/-- Counters met at the last distance and not met at the first beyond, and one misaligned. -/
theorem test_counter_met : ([(0x100, 0), (0x100, 0x8000000000000001), (0x100, 0x8000000000000000), (0x104, 0)] : List (Word × Word)).all
      (fun x => ([.wait 1 2, .waitExt 1 2] : List Instr).all (readyB (withC [(1, x.1), (2, x.2)]))) = true ∧
    (BitVec.ofNat 64 (counterAt st 0 ⟨.sys, 0x100⟩) - 0x8000000000000001).toNat = 2 ^ 63 - 1 ∧
    (BitVec.ofNat 64 (counterAt st 0 ⟨.sys, 0x100⟩) - 0x8000000000000000).toNat = 2 ^ 63 ∧
    linkHeld st (corePort st.cur.pair) ⟨.sys, 0x100⟩ = false := by decide

/-! ## The matrix unit and rendering -/

def arithForms : List Instr := [.mmaE8 1 2 3 0, .mmasE8 1 2 3 26, .mmauE8 1 59 3 5, .mmaE16 1 2 3 5, .mmasE16 1 2 3 5, .mmauE16 1 59 3 5]

/-- A gang of crews 0 and 1, of which 1 has retired or not. -/
def ganged (gone : List Nat) : State :=
  { on (fun c => { c with gang := 2 + 2 ^ 8 }) with blocks := [{ block with retired := gone }] }

theorem test_arithmetic_met : (∀ i ∈ arithForms, Ready st i) ∧ st.cur.gang.toNat % 8 = 0 ∧ (∀ i ∈ arithForms, Ready (ganged []) i) ∧
    (ganged []).cur.gang.toNat % 8 ≠ 0 ∧ (∀ i ∈ arithForms, Ready (ganged [1]) i) ∧
    blockAt? (ganged [1]) 1 = some { block with retired := [1] } :=
  ⟨all_ready (by decide), by decide, all_ready (by decide), by decide, all_ready (by decide), by decide⟩

/-- With a result queue bound to register 2, `MCFG` held at 1, and a word in `c1`. -/
def draining (w : Word) : State := { ganged [] with
  cur := { (ganged []).cur with c := crew.c.set 1 w, qregs := crew.qregs.set 2 ⟨0x8000000000000019, 0, 0⟩ }
  cores := [(0, { Core.zero with mcfgHeld := 1 })] }

theorem test_matrix_met : (∀ i ∈ ([.mzero 1 2, .mldw 1 2, .mdrnTs 1 2 3 0, .mdrnQ 1 2 3 8, .mdrnPeer 1 2 3 0, .mrow 1 2 8, .gang 1,
      .nrq 1 8 2] : List Instr), Ready st i) ∧ Clean st (.nrq 1 8 2) (groupOf 8 8) ∧
    (∀ i ∈ ([.mdrnQ 1 2 3 8, .mdrnQ 1 3 3 8, .mdrnPeer 1 1 3 0, .mrow 1 2 8, .mrow 1 3 8, .gang 1] : List Instr),
      Ready (draining (2 + 2 ^ 8)) i) ∧ Ready (draining 1) (.mdrnPeer 1 1 3 0) ∧ (1 : Word).toNat % 8 < (draining 1).cur.gang.toNat % 8 ∧
    (coreAt (draining 1) 0).mcfgHeld ≠ 0 ∧ (coreAt st 0).mcfgHeld = 0 ∧ ((draining 1).cur.qregs.get 2).word.getLsbD 63 = true ∧
    ((draining 1).cur.qregs.get 2).word.toNat % 4 = 1 ∧ Ready (draining 1) (.gang 1) ∧ Ready (draining 0) (.gang 1) :=
  ⟨all_ready (by decide), ⟨by decide, by decide, by decide⟩, all_ready (by decide), ready_of (by decide), by decide, by decide, by decide,
    by decide, by decide, ready_of (by decide), ready_of (by decide)⟩

/-- A render launch with one bucket of one grid of one vertex; a crew that shades it, and one that resolves it. -/
def vertex : Vert := default
def grid : Grid := { (default : Grid) with num := 3, nu := 1, nv := 1, verts := [vertex], st := .shading 1 }
def bucket : Bucket := { (default : Bucket) with bix := 2, grids := [grid] }
def render : Render := { (default : Render) with lid := 1, flight := [bucket] }
def shading : State := { on (fun c => { c with kind := .vertex 2 3 }) with renders := [render] }
def resolving : State := { on (fun c => { c with kind := .resolve 2 }) with renders := [render] }

theorem test_grid_met : (∀ s ∈ [st, shading, resolving], ∀ i ∈ ([.grdv 4 1 4, .grdv 4 1 5, .grdw 4 1 0, .grdw 4 1 1, .grdw 4 1 2,
      .rsub 4 1 2] : List Instr), Ready s i ∧ Clean s i (uses s i).r) ∧ st.cur.isVertex = false ∧ shading.cur.isVertex = true ∧
    st.cur.isResolve = false ∧ resolving.cur.isResolve = true ∧ bucket? shading 1 2 = some bucket ∧ shading.cur.kind = .vertex 2 3 ∧
    (bucket.grids.find? fun z => z.num == 3) = some grid ∧ shading.cur.futs = [] ∧
    depsFor shading shading.cur (shading.cur.fr.fid :: shading.cur.fr.preds) [] false = [] ∧
    gridHeld shading (corePort shading.cur.pair) grid = false := by
  refine ⟨fun s hs => ?_, by decide⟩
  simp only [List.mem_cons, List.not_mem_nil, or_false] at hs
  rcases hs with rfl | rfl | rfl <;> exact all_meet (by decide)
/-- A lane that writes the vertex, and none that does. -/
theorem test_grid_writers_met : (lanesOf (active shading)).filter (fun l : Nat =>
      ((getA shading 1).base + BitVec.ofInt 64 ((getA shading 1).stride.toInt * (l : Int))).toNat == 0) ≠ [] ∧
    (lanesOf (active shading)).filter (fun l : Nat => ((getA shading 1).base + BitVec.ofInt 64 ((getA shading 1).stride.toInt * (l : Int))).toNat == 1) = [] := by
  decide

/-- Lane addresses in `v8`, a descriptor's address in `c1`, the descriptor at 0x100. -/
def tracing (node : Word) (desc : Word) (top : Byte) : State := { on (fun c => { c with
    v := c.v.set 8 (mkLanes fun _ => node), c := c.c.set 1 desc }) with
  sys := [(0x101, 2)] ++ (if top = 0 then [] else [(0x107, top)]) ++ [(0x108, 1), (0x10A, 1), (0x10C, 4)] }

def rayForms : List Instr := [.rbox 4 12 8, .rtri 4 12 8, .rtriAlpha 4 12 8, .samp 4 8 1]

theorem test_rays_met : (∀ i ∈ rayForms, Ready (tracing 0x80 0x100 0) i ∧ Clean (tracing 0x80 0x100 0) i (uses (tracing 0x80 0x100 0) i).r) ∧
    active (tracing 0x80 0x100 0) ≠ 0 ∧ (∀ i ∈ rayForms, Ready (tracing 0x20 0x110 0) i) ∧
    (∀ i ∈ rayForms, Ready (tracing 0x40 0x100 2) i) :=
  ⟨all_meet (by decide), by decide, all_ready (by decide), all_ready (by decide)⟩

/-- The places of lanes that translate, and what can be read of them at once. -/
def placed (s : State) (ls : List (Nat × Nat)) : Option (List LaneAcc × State) :=
  match translateLanes s .read 0 (ls.map fun l => (l.1, l.2, 0)) with
  | (.ok las, u) => some (las, u)
  | _ => none
def readNow (s : State) (va n k : Nat) : Option (List (Nat × Nat) × State) :=
  (placed s ((lanesOf (active s)).map fun l => (l, va))).bind fun x =>
    let las := x.1.take k
    if (depsFor x.2 x.2.cur x.2.cur.fr.po (bytesOf las n) false).isEmpty && las.all (fun l => !laneHeld x.2 s.cur.pair .block n l && !headLost x.2 s.cur.pair l)
    then some (readLanes x.2 s.cur.pair s.cur.launch .block n las) else none

/-- Nodes and triangles translate; the triangles name no descriptor; the descriptor has texels, or none at 2^57. -/
theorem test_ray_places_met : (placed (tracing 0x80 0x100 0) ((lanesOf (active st)).map fun l => (l, 0x80))).isSome = true ∧
    (readNow (tracing 0x40 0x100 0) 0x40 64 32).map (fun x => alphaLanes ((List.range 4).map fun k => st.cur.vreg (12 + k)) x.1) = some [] ∧
    (readNow (tracing 0x80 0x100 2) 0x100 32 1).map (fun x => readsTexels ((x.1.headD (0, 0)).2)) = some none ∧
    ((readNow (tracing 0x80 0x100 0) 0x100 32 1).bind fun x => (readsTexels ((x.1.headD (0, 0)).2)).map fun t => (t.base, t.size)) =
      some (0x200, 4) := by decide

/-- A triangle at 0x40 that lane 0 hits, whose texture is the descriptor at 0x100. -/
def texturing : State :=
  let t := tracing 0x40 0x100 0
  { t with
    cur := { t.cur with v := t.cur.v.set 15 (mkLanes fun _ => 0x7F8000003F800000), fr := { t.cur.fr with xm := 1 } }
    sys := [(0x4A, 0x80), (0x4B, 0x3F), (0x4E, 0x80), (0x4F, 0x3F), (0x56, 0x80), (0x57, 0x3F), (0x5E, 0x80), (0x5F, 0x3F),
      (0x62, 0x80), (0x63, 0x3F), (0x79, 1)] ++ t.sys }
set_option exponentiation.threshold 1000 in
theorem test_alpha_texture_met : Ready texturing (.rtriAlpha 4 12 8) ∧ Clean texturing (.rtriAlpha 4 12 8) (uses texturing (.rtriAlpha 4 12 8)).r ∧
    ((readNow texturing 0x40 64 32).bind fun x =>
      let al := alphaLanes ((List.range 4).map fun k => texturing.cur.vreg (12 + k)) x.1
      (readNow x.2 0x100 32 32).map fun y =>
        let full := withDescs al y.1
        (al.map fun z => (z.1, z.2.1), texelsBad full, (placed y.2 (texelAddrs full)).isSome)) = some ([(0, 0x100)], [], true) :=
  ⟨ready_of (by decide), clean_of (by decide), by decide⟩

/-- A stack at an offset with a depth, `n` in each lane's count; the hit's and the candidate's distances in `v4` and `v8`. -/
def stack (off depth n : Nat) : State := { on (fun c => { c with
    c := c.c.set 1 (BitVec.ofNat 64 (off + 2 ^ 24 * depth))
    v := (c.v.set 4 (mkLanes fun _ => 0x40000000)).set 8 (mkLanes fun _ => 0x3F800000) }) with
  blocks := [{ block with scratch := if n = 0 then [] else (List.range 32).map fun l => (off + l, BitVec.ofNat 8 n) }] }

def stackForms : List Instr := [.rpsh 8 1, .rpop 4 1, .rhit 4 8 12]

theorem test_ray_stack_met : ([(224, 15, 14), (224, 15, 15), (224, 15, 16), (224, 15, 0), (232, 15, 0), (4, 1, 0), (0, 0, 0)] :
      List (Nat × Nat × Nat)).all (fun x => stackForms.all fun i => readyB (stack x.1 x.2.1 x.2.2) i && cleanB (stack x.1 x.2.1 x.2.2) i) = true ∧
    active (stack 224 15 0) ≠ 0 ∧ block.scratchSize = 224 + 32 + 256 * 15 ∧
    depsFor (stack 224 15 0) (stack 224 15 0).cur frag.po [(⟨.spad 1, 224⟩, 32 + 256 * 15)] false = [] ∧
    (fp32.decode 0x3F800000).lt (fp32.decode 0x40000000) = true ∧ Instr.wf (.rhit 4 8 12) = true ∧ block.pair.isSome = true := by decide
theorem test_ray_stack_canonical : MemoriesCanonical (stack 224 15 14) ∧ MemoriesCanonical (stack 224 15 0) :=
  ⟨canon_of (by decide), canon_of (by decide)⟩

/-- Parked on a failed page; with a recorded fault; after a hint that only a branch takes; with eight registers. -/
def failing : State := on fun c => { c with fr := { c.fr with park := .failed .pgnp 0x100 1 0 } }
def faulted : State := on fun c => { c with imprec := [⟨.stperm, 0x100, 1, 0, false, false, [], false⟩] }
def hinted : State := on fun c => { c with fr := { c.fr with run := [.join 5] } }
def narrow : State := on fun c => { c with vn := 8 }

theorem test_first_met : held waitingLoad (.vnot 1 5 .i64) = true ∧ held failing .nop = false ∧ (failedTrap failing.cur.fr).isSome = true ∧
    held faulted .drain = false ∧ (dueImprec faulted .drain (uses faulted .drain)).isSome = true ∧ held hinted .nop = false ∧
    badHint (accepts .nop) hinted.cur.fr.run = some 0 ∧ (dueImprec hinted .nop (uses hinted .nop)).or (failedTrap hinted.cur.fr) = none ∧
    held narrow (.vnot 1 8 .i64) = false ∧ tooHigh narrow (.vnot 1 8 .i64) ≠ [] ∧ tooHigh narrow (.vnot 1 7 .i64) = [] ∧
    isEvent .nop = false ∧ isHintWord .nop = false ∧ replays faulted .drain (uses faulted .drain) = false := by decide
/-- An `end` and a mismatched `sigchk` leave a recorded fault where it is. -/
theorem test_first_leaves_met : held { faulted with ir := 0 } .endd = false ∧
    (dueImprec faulted .endd (uses faulted .endd)).isSome = true ∧
    (let s := { marked 6 with cur := { (marked 6).cur with imprec := faulted.cur.imprec } }
     replays s .sigchk (uses s .sigchk) = true ∧ held s .sigchk = false) := by decide
/-- Poison in some lanes of `v2`: one lane of many, the fragment's last, the crew's last. -/
def poisoned (m : Mask) (replay : Bool) : State :=
  { on (fun c => { c with poison := c.poison.set 2 m }) with
    rg := { st.rg with eff := [{ region with ldr := replay }] }, xl := { st.xl with groups := [{ (default : Group) with gid := 1 }] }
    launches := [{ (default : Launch) with lid := 1, group := 1, st := .running }] }
def poisonedPair : State := { poisoned 0xFFFF false with cur := { (poisoned 0xFFFF false).cur with
  fr := { frag with fl := 0xFFFF, xm := 0xFFFF }, frags := [{ frag with fid := 2, fl := 0xFFFF0000, xm := 0xFFFF0000, entry := some 1 }] } }
theorem test_poison_met : ([poisoned 1 false, poisonedPair, poisoned 0xFFFFFFFF false, poisoned 1 true] : List State).all (fun s =>
      readyB s (.vnot 1 2 .i64) && (popped s.cur (uses s (.vnot 1 2 .i64))).isEmpty &&
      (consumed (.vnot 1 2 .i64) (uses s (.vnot 1 2 .i64))).contains 2) = true ∧
    (replayLaunch (poisoned 1 true) 1 .poison).cur.alive = false ∧ isVarying (.vnot 1 2 .i64) = true ∧
    Ready (poisoned 1 false) (.st 2 op .b32) ∧ reachesMemory (.st 2 op .b32) = true :=
  ⟨by decide, by decide, by decide, ready_of (by decide), by decide⟩

/-! ## Events -/

/-- The fragment an event names, under the issue stage. -/
def found (s : State) (fid : Nat) : Option State := (focus s 0 0).bind fun t => focusFrag t fid

theorem finds_of {s : State} {fid : Nat} {p : State → Bool} (h : (found s fid).any p = true) : ∃ u, Finds s 0 0 fid u ∧ p u = true := by
  cases e : found s fid with
  | none => rw [e] at h; cases h
  | some u =>
    rw [e] at h
    obtain ⟨t, ht, hu⟩ := Option.bind_eq_some_iff.1 e
    exact ⟨u, ⟨t, ht, hu⟩, h⟩

def parked (p : Park) : State := on fun c => { c with vn := 64, tn := 16, fr := { c.fr with park := p } }

/-- A request of 72 registers with one unit free, one of 32 tiles with sixteen. -/
def granting (tile : Bool) : State := { parked (.grow tile (if tile then 32 else 72)) with
  cores := [(0, { Core.zero with vfree := 1, tfree := 16, growV := [(1, 1, 72)], growT := [(1, 1, 32)] })] }

theorem test_grow_grant_met : ([false, true].all fun tile => ((focusCid (granting tile) 1).bind fun t => focusFrag t 1).any fun t =>
    decide (if tile then 32 - t.cur.tn ≤ (coreAt (granting tile) 0).tfree else (72 - t.cur.vn) / 8 ≤ (coreAt (granting tile) 0).vfree)) = true := by
  decide
theorem test_shrink_complete_met : (∃ u, Finds (parked (.shrink false 56)) 0 0 1 u ∧
      (decide (u.cur.fr.park = .shrink false 56) && (pendingV u.cur).all fun r => decide (r < 56)) = true) ∧
    (∃ u, Finds (parked (.shrink true 0)) 0 0 1 u ∧
      (decide (u.cur.fr.park = .shrink true 0) && (coreAt u 0).opq.all fun c => (c.tilesOf 1).all fun t => decide (t < 0)) = true) :=
  ⟨finds_of (by decide), finds_of (by decide)⟩
def ending : State := { twoFrags with cur := { twoFrags.cur with fr := { twoFrags.cur.fr with park := .ending } } }
theorem test_end_retire_met : ∃ u, Finds ending 0 0 1 u ∧ (decide (u.cur.fr.park = .ending) && u.cur.stores.isEmpty &&
    (dueImprec { u with ir := u.cur.fr.word } .endd {}).isNone && endReady u && u.cur.lm &&& ~~~u.cur.fr.fl != 0) = true :=
  finds_of (by decide)
def caching (s : State) : State := { s with cores := [(0, { Core.zero with icache := [⟨32, 5⟩], l1 := [default] })] }
theorem test_fetch_met : (∃ u, Finds (caching st) 0 0 1 u ∧ (runnable u.cur u.cur.fr && !stalled u 1 &&
      !hasFailed u.cur.fr && ((coreAt u 0).icache.find? fun l => l.vln == (u.cur.fr.pc.toNat + 4 * 7) / 128).isSome) = true) ∧
    (∃ u, Finds (caching (parked (.iinv 0x1000 1))) 0 0 1 u ∧ decide (u.cur.fr.park = .iinv 0x1000 1) = true) :=
  ⟨finds_of (by decide), finds_of (by decide)⟩

/-- A join record of every lane, with no fragment, with one that has all of them, with one that has lost one. -/
def joining (j : Option Nat) (fl : Mask) : State := on fun c => { c with
  joins := [⟨50, 0x2000, 0xFFFFFFFF, none⟩], fr := { c.fr with fl := fl, xm := fl, join := j, park := .join } }
theorem test_join_met : carriers (joining none 0xFFFFFFFF).cur 50 = [] ∧
    ([0xFFFFFFFF, 0x7FFFFFFF].all fun fl => let s := joining (some 50) fl
      (carriers s.cur 50).length == 1 && (carriers s.cur 50).all (fun f => f.park == .join && f.join == some 50 && f.fl == fl) &&
      s.cur.cst.lvl == .none) = true ∧
    (let s := (joining (some 50) 0xFFFFFFFF).cur
     (carriers s 50).all (fun f => f.fid != s.trapped) = true) := by decide
def spilledFrag : State := on fun c => { c with frags := [{ frag with fid := 2, entry := none }] }
theorem test_reload_met : freeEntry? spilledFrag 0 0 = some 1 ∧ (spilledFrag.cur.all.any fun f => f.entry.isNone) = true := by decide
def owedPreempt : State := on fun c => { c with preDue := some 0 }
def spent : State := on fun c => { c with cst := { c.cst with lvl := .preempt }, fr := { c.fr with handler := true } }
theorem test_preempt_met : (focus owedPreempt 0 0).isSome = true ∧ owedPreempt.cur.preDue.isSome = true ∧
    owedPreempt.cur.cst.lvl = .none ∧ owedPreempt.cur.saving = 0 ∧
    (owedPreempt.cur.all.any fun f => ready owedPreempt owedPreempt.cur f) = false ∧
    owedPreempt.cur.imprec.all (fun e => !e.isStore) = true ∧ spent.cur.cst.lvl = .preempt ∧ spent.cur.hbud = 0 ∧
    spent.cur.saving = 0 ∧ regionAt? spent 16 = some region := by decide
def holding (n passed : Nat) : State := on fun c => { c with fr := { c.fr with hold := some n, passed := passed } }
theorem test_hold_met : (holding 16 0).cur.fr.hold = some 16 ∧ 64 ≤ (holding 16 64).cur.fr.passed ∧
    (quarterAt (holding 16 64) 0 0).promo.contains (1, 1) = false := by decide

/-- A launch with a block to place, of 33 lanes of work in two crews; or wholly without a lane count. -/
def launch : Launch := { (default : Launch) with lid := 1, st := .running, lr := { (default : LRec) with regn := 16, entry := 0x2000, blks := 1, nlan := 33, res := 1 } }
def placing (nlan : Nat) : State := { State.reset with
  nextId := 100, launches := [{ launch with lr := { launch.lr with nlan := nlan } }], rg := { Regions.zero with eff := [region] } }

theorem test_place_met : ((nextPlace (placing 33)).any fun x => x.1 == .block (placing 33).launches.head! && x.2 == 0) = true ∧
    ((nextPlace (placing 0)).any fun x => x.2 == 0) = true ∧ maskBelow (33 - 32 * 0) = 0xFFFFFFFF ∧ maskBelow (33 - 32 * 1) = 1 ∧
    maskBelow (32 - 32 * 1) = 0 := by decide

/-- A core whose one buffered page of 2^30 bytes lies in system memory, whose bytes are `m`. -/
structure Flat (m : Mem) (s : State) : Prop where
  sys : s.sys = m
  l1 : (coreAt s 0).l1 = []
  tlb : (coreAt s 0).tlb = [⟨0, 30, 0x21F⟩]

/-- A translation that counts an L1 miss, but in a line counted already. -/
def counted (s : State) (again : Bool) : State := if again then s else modCore s 0 fun c => countEvt c 0x03 1

theorem flat_count {m : Mem} {s : State} (h : Flat m s) (again : Bool) : Flat m (counted s again) := by
  cases again with
  | true => exact h
  | false => exact ⟨h.sys, by rw [counted, if_neg (by decide), coreAt_modCore]; exact h.l1,
      by rw [counted, if_neg (by decide), coreAt_modCore]; exact h.tlb⟩

theorem tlbFind_one {e : TlbE} {va n : Nat} (h : e.va = 0) (hb : e.bits = n) (h1 : va / 2 ^ n = 0) : tlbFind [e] va = some e := by
  have q : (e.va == va / 2 ^ e.bits * 2 ^ e.bits) = true := by rw [h, hb, h1, Nat.zero_mul]; rfl
  simp only [tlbFind, List.find?, q]

theorem flat_xlate {m : Mem} {s : State} (h : Flat m s) {va : Nat} (hv : va < 2 ^ 30) (again : Bool) :
    xlate s 0 .read va again = (.ok ⟨.sys, va⟩ ⟨true, true, true⟩, counted s again) := by
  have h1 : va / 2 ^ 30 = 0 := Nat.div_eq_of_lt hv
  have h2 : (va : Nat) < 2 ^ 57 := Nat.lt_of_lt_of_le hv (by decide)
  have h3 : judge .read va 0x21F 30 = .ok ⟨.sys, va⟩ ⟨true, true, true⟩ := by
    have : leafPA 0x21F 30 va = ⟨.sys, va⟩ := by
      have f : pteFrame 0x21F = 0 := by decide
      have g : pteTGT 0x21F = 1 := by decide
      simp only [leafPA, f, g, Nat.mod_eq_of_lt hv, Nat.zero_div, Nat.zero_mul, Nat.zero_add]
      rw [if_neg (by decide)]
    have v : pteV 0x21F = true := by decide
    have p : ptePerm 0x21F = ⟨true, true, true⟩ := by decide
    simp only [judge, this, v, p, Perm.admits, if_true]
  have h4 : tlbFind (coreAt s 0).tlb va = some ⟨0, 30, 0x21F⟩ := by
    rw [h.tlb]
    exact tlbFind_one rfl rfl h1
  have h5 : l1Tag? (coreAt s 0) (va / 128) = none := by rw [l1Tag?, h.l1]; rfl
  have h6 : (Acc.read == Acc.fetch) = false := rfl
  have h7 : canonical va = true := decide_eq_true h2
  have h8 : (coreAt (counted s again) 0).tlb = (coreAt s 0).tlb := by
    cases again with
    | true => rfl
    | false => rw [counted, if_neg (by decide), coreAt_modCore]; rfl
  have h9 : (if again = true then s else modCore s 0 fun c => countEvt c 0x03 1) = counted s again := rfl
  simp only [xlate, h7, h6, Bool.false_eq_true, if_false, Bool.not_true, h5, h4, h3, ite_self, Bool.false_or, h9]

theorem flat_read {m : Mem} (n : Nat) : ∀ {s : State} {va : Nat}, Flat m s → va + n ≤ 2 ^ 30 →
    ∃ t, Flat m t ∧ readVirtual s 0 va n = some ((List.range' va n).map m.read, t) := by
  induction n with
  | zero => intro s va h _; exact ⟨s, h, rfl⟩
  | succ n ih =>
    intro s va h hv
    obtain ⟨t, ht, e⟩ := ih (va := va + 1) (flat_count h (va % 128 != 0)) (by omega)
    refine ⟨t, ht, ?_⟩
    rw [readVirtual, flat_xlate h (by omega)]
    simp only [e, paRead, (flat_count h (va % 128 != 0)).sys]
    rfl

/-- A saved crew of block 1, which is on core 0, and its record: version 5, 8 registers, one fragment at 0x2000. -/
def saved : SavedCrew := { (default : SavedCrew) with cid := 9, launch := 1, block := 1, region := 16, vn := 8, ready := some 0 }
def recordBytes : Mem := [(0, 5), (2, 8), (4, 1), (0x501, 0x20)]
def swapping : State := { st with
  cur := Crew.none, saved := [saved], sys := recordBytes, cores := [(0, { Core.zero with tlb := [⟨0, 30, 0x21F⟩] })] }

theorem test_swap_in_met : ((nextPlace swapping).any fun x => x.1 == .crew saved && x.2 == 0) = true ∧ restoreWaits swapping saved 0 = false ∧
    recordBad swapping saved region block = none ∧
    saved.regs = [] ∧ block.qtab = none ∧ block.pair = some 0 := by decide
theorem test_record_met : ∃ x, readRecord (acquireAt swapping 0 .device) 0 0 = some x ∧ recordOk x.1 = true ∧
    recNat x.1 0x498 8 / 16 % 4 = 0 := by
  have flat : Flat recordBytes (acquireAt swapping 0 .device) := ⟨rfl, by decide, by decide⟩
  let data := (List.range' 0 0x1920).map recordBytes.read ++ (List.range' 0x1920 2048).map recordBytes.read
  obtain ⟨t, ht, e⟩ := flat_read 0x1920 (va := 0) flat (by decide)
  obtain ⟨u, _, f⟩ := flat_read 2048 (va := 0x1920) ht (by decide)
  have size : 256 * min (recNat ((List.range' 0 0x1920).map recordBytes.read) 2 1) 128 +
      18432 * min (recNat ((List.range' 0 0x1920).map recordBytes.read) 3 1) 32 = 2048 := by decide
  have ok : recordOk data = true ∧ recNat data 0x498 8 / 16 % 4 = 0 := by clear e f size ht; decide
  exact ⟨(data, u), by rw [readRecord, e]; simp only [Nat.zero_add, size, f]; rfl, ok⟩
theorem test_swap_in_block_met : blockAt? swapping 1 = some block ∧ keepBlock (acquireAt swapping 0 .device) block region = acquireAt swapping 0 .device ∧
    recNat (recordBytes.bytes 0 0x1920) 0x498 8 / 16 % 4 = 0 := by decide
/-- The same with core 0 full of a parked crew of a lower priority. -/
def crowded : State := { swapping with
  crews := [{ crew with region := 17, block := 2, fr := { frag with park := .wait ⟨.sys, 0⟩ 0 1 false 0 } }]
  cores := [(0, { Core.zero with vfree := 0 })]
  rg := { Regions.zero with eff := [{ region with pri := 5 }, { region with num := 17, instM := 17, scs := 1, sbs := 1 }] } }
theorem test_swap_out_met : (match candidates crowded with
    | t :: _ => (placeOn crowded none t).isNone && (outCore crowded t).any (fun x => x.1 == 0 && x.2.map (fun c => c.cid) == [1])
    | [] => false) = true ∧ (allCrews crowded).map (fun c => c.cid) = [1] := by decide

/-- A lane's place. -/
def place (sp : Space) (a : Nat) : LaneAcc := ⟨0, a, ⟨sp, a⟩, ⟨true, true, false⟩, 5⟩
/-- A crew with a future of a kind behind a register. -/
def awaiting (d : Dest) (k : FutKind) : State := on fun c => { c with futs := [future d k] }

/-- Loads of one register and of a pair up to `v126`, in system memory and a peer's. -/
def loads : List FutKind := [.load 4 true [place .sys 0x100] .block false, .load 16 false [place (.peer 3) 0x100] .device false]
theorem findsFut_of {s : State} {f : Fut} (h : (crewsOn s 0).find? (fun k => k.slot == 0) = some s.cur ∧
    crew? s s.cur.cid = some s.cur ∧ s.cur.futs.find? (fun g => g.id == 7) = some f) : FindsFut s 0 0 7 s.cur f := h
theorem test_load_complete_met : (∀ k ∈ loads, FindsFut (awaiting (.v 125 2) k) 0 0 7 (awaiting (.v 125 2) k).cur (future (.v 125 2) k)) ∧
    125 + 2 ≤ 127 ∧ depsDone st 1 [] = true ∧ [place .sys 0x100, place (.peer 3) 0x100].any (laneHeld st 0 .block 4) = false := by
  refine ⟨fun k hk => findsFut_of ?_, by decide⟩
  revert k
  decide

/-- A load of a line that is known to be uncorrectable, and one with an element of it read already. -/
def failingLoad (got : List (Nat × Nat)) : State :=
  let k : FutKind := .load 4 true [place .loc 0x100] .device false
  { awaiting (.v 4 1) k with
    cur := { (awaiting (.v 4 1) k).cur with futs := [{ future (.v 4 1) k with got := got }] }, badLines := [2] }
theorem test_load_lost_met : (∀ got ∈ [[], [(0, 5)]], (crewsOn (failingLoad got) 0).find? (fun k => k.slot == 0) = some (failingLoad got).cur ∧
      (failingLoad got).cur.futs.map (fun f => f.got) = [got]) ∧ badAt (failingLoad []) ⟨.loc, 0x100⟩ = true ∧
    badAt st ⟨.loc, 0x100⟩ = false := by decide

/-- The crew's oldest store at an address, with `n` younger ones. -/
def translating (va n : Nat) : State := on fun c => { c with
  stores := { storing with lanes := [(0, va, 5)] } :: List.replicate n { storing with id := 10 } }
def storeMeets (s : State) : Nat × Nat × Bool :=
  let r := xlateLanes s 0 .write ((s.cur.stores.head?.map fun x => x.elements).getD [])
  ((r.1.filter fun y => match y.2.2.2 with | .absent .. => true | _ => false).length, (r.1.filter fun y => y.2.2.2 == .denied).length,
    r.1.all fun y => y.2.2.2 != .migrating)
theorem test_store_translate_met : storeMeets (translating 0x100 0) = (0, 0, true) ∧ storeMeets (translating 0xC0800000 15) = (1, 0, true) ∧
    storeMeets (translating 0xC0600000 0) = (0, 1, true) ∧ (focus (translating 0xC0800000 15) 0 0).isSome = true ∧
    stalled (translating 0xC0800000 15) 9 = false ∧
    (coreAt (xlateLanes (translating 0xC0800000 15) 0 .write [(0, 0xC0800000, 5)]).2 0).sfq.length + 1 + 15 = 16 := by decide

/-- A queued store of one lane in each place. -/
def queued (sp : Space) (sc : Scope) : State := { st with storeQ := [{ stored with lanes := [place sp 0x104], scope := sc }] }
theorem inPlace_of {s : State} {l : Nat} (h : streaming s = false) (e : launchAt? s l = none) : InPlace s l :=
  ⟨h, fun x hx => by rw [e] at hx; cases hx⟩
theorem test_store_performed_met : (∀ x ∈ ([(.sys, .block), (.peer 7, .block), (.spad 1, .block), (.loc, .block), (.loc, .device)] :
      List (Space × Scope)), ∀ y ∈ (queued x.1 x.2).storeQ, depsDone (queued x.1 x.2) y.cid y.deps = true ∧
        (queued x.1 x.2).dev.retraining = [] ∧ stalled (queued x.1 x.2) y.id = false ∧
        (y.lanes.any fun l => claimMoves (queued x.1 x.2) y.launch l.pa) = false ∧ y.rel = false) ∧ 0x104 % stored.size = 0 ∧ stored.size ∣ 128 ∧
    (List.range 4).all (fun k => !queueByte (queued (.spad 1) .block) 1 (0x104 + k)) = true ∧ st.xl.ckdm0 = 0 ∧ st.xl.ckdm1 = 0 ∧
    st.dev.ulEn = false ∧ st.blocks.all (fun y => y.pair.isSome) = true ∧
    (List.range 4).all (fun k => decide (redirect (queued .loc .device) (0x104 + k) < locSize)) = true := by decide
/-- No link that retrains, no lane that waits for one. -/
theorem test_store_lanes_met (sp : Space) (sc : Scope) : [place sp 0x104].any (laneHeld (queued sp sc) 0 sc 4) = false := by
  simp only [List.any_cons, List.any_nil, laneHeld_none (show (queued sp sc).dev.retraining = [] from rfl), Bool.or_false]
/-- A releasing store, before and after its release; what it changes stays in place. -/
theorem test_store_release_met : ∀ logged ∈ [none, some 3],
    let s := { queued .loc .device with storeQ := [{ stored with lanes := [place .loc 0x104], scope := .device, rel := true, logged := logged }] }
    s.storeQ[0]?.any (fun x => x.rel && x.logged == logged && depsDone s x.cid x.deps && !stalled s x.id &&
      !logWaits s x.pair x.scope x.lanes && !releaseHeld s x.pair x.scope) = true := by decide
theorem test_store_canonical : (∀ sp ∈ [Space.sys, .peer 7, .spad 1, .loc], MemoriesCanonical (queued sp .block)) ∧
    InPlace (queued .sys .block) 1 := by
  refine ⟨fun sp h => canon_of ?_, inPlace_of (by decide) (by decide)⟩
  revert sp
  decide

/-- A queued atomic operation of a crew that waits for its value. -/
def atomic (sp : Space) : AtomReq := { (default : AtomReq) with
  fut := 7, cid := 1, launch := 1, at_ := place sp 0x100, op := .add, src := 1, scope := .device, reply := some 4 }
def atomicAt (sp : Space) : State :=
  { awaiting (.v 4 1) (.atom false [place sp 0x100] 1 false false) with atoms := [atomic sp] }
theorem test_atomic_met : (∀ sp ∈ [Space.sys, .loc], (atomicAt sp).atoms[0]? = some (atomic sp) ∧ crew? (atomicAt sp) 1 = some (atomicAt sp).cur ∧
    depsDone (atomicAt sp) 1 [] = true ∧ (atomicAt sp).dev.retraining = [] ∧ (atomicAt sp).atoms.Nodup ∧
    (lineQueue (atomicAt sp) (0x100 / 128)).head?.all (fun h => h == atomic sp) = true ∧
    (List.range 4).all (fun k => decide (redirect (atomicAt sp) (0x100 + k) < locSize)) = true) ∧ (atomic .loc).rel = false ∧ (atomic .loc).acq = false ∧
    (atomic .loc).reply.isSome = true ∧ 0x100 % 4 = 0 := by decide

/-- At the head of its line's queue, at its home slice. -/
theorem test_atomic_head_met : let q : AtomReq := { atomic .loc with queued := true }
    let s := { atomicAt .loc with atoms := [q] }
    q.atHome = true ∧ (lineQueue s (0x100 / 128)).head? = some q ∧ ([Scope.block, .cluster].all fun sc => !({ q with scope := sc }).atHome) = true := by
  decide
/-- An atomic operation on a line that is known to be uncorrectable, and on one that is not. -/
theorem test_atomic_lost_met : laneBad { atomicAt .loc with badLines := [2] } 0 .device 4 (place .loc 0x100) = true ∧
    laneBad (atomicAt .sys) 0 .device 4 (place .sys 0x100) = false := by decide
theorem test_atomic_links_met (sp : Space) : linkHeld (atomicAt sp) (corePort 0) ⟨sp, 0x100⟩ = false := linkHeld_none rfl _ _
theorem test_atomic_canonical : (∀ sp ∈ [Space.sys, .loc], MemoriesCanonical (atomicAt sp)) ∧ InPlace (atomicAt .sys) 1 := by
  refine ⟨fun sp h => canon_of ?_, inPlace_of (by decide) (by decide)⟩
  revert sp
  decide

/-- Hints, a line's sequence before and after its snapshot, and a request. -/
def hinting (n : Nat) : State := { st with
  hints := [(3, 5)], releasers := [(sliceOf 5, (List.range n).map fun i => ⟨100 + i, [1], false⟩)] }
def sequence (snap : Bool) : PacqSeq := { (default : PacqSeq) with id := 8, fut := 7, cid := 1, pln := 2, lanes := [place .loc 0x100], snap := snap }
def promoting (snap : Bool) : State :=
  { awaiting (.v 4 1) (.pacq 4 false [place .loc 0x100]) with pacqs := [sequence snap], requests := [(8, 3)] }
theorem test_promotion_met : (∀ snap ∈ [false, true], (promoting snap).pacqs[0]? = some (sequence snap) ∧ depsDone (promoting snap) 1 [] = true ∧
      crew? (promoting snap) 1 = some (promoting snap).cur) ∧ (sequence false).evict = false ∧ (sequence true).acks = [] ∧
    (promoting false).pacqs.all (fun r => !(r.snap && r.pln == 2)) = true ∧ (promoting false).hintQ.all (fun h => h.2 != 2) = true ∧
    (promoting false).dev.retraining = [] ∧ (promoting true).dev.retraining = [] ∧
    (sequence true).lanes.all (fun l => l.pa.a / 128 == 2) = true ∧ (promoting true).requests[0]? = some (8, 3) ∧
    (promoting true).pacqs.find? (fun q => q.id == 8) = some (sequence true) := by decide
theorem test_promotion_links_met (snap : Bool) (p : Nat) : linkHeld (promoting snap) (corePort p) ⟨.loc, 2 * 128⟩ = false :=
  linkHeld_none rfl _ _
/-- A request to a core with a dirty line of before its entry's stamp, and one of after. -/
def requested : State := { promoting true with requests := [(8, 3)], cores := [(3, { Core.zero with
  plog := [⟨false, 4, 2, 7⟩], l1 := [⟨7, 2, default, 5, 1, 1, 0, 4⟩, ⟨8, 3, default, 5, 1, 1, 0, 5⟩] })] }
theorem test_request_met : requested.requests[0]? = some (8, 3) ∧ requested.pacqs.find? (fun q => q.id == 8) = some (sequence true) ∧
    Machine.releasing requested 3 (· == 2) = false ∧ wbHeld requested 3 (fun l => l.dirty != 0) = false ∧ requested.loc.wf = true ∧
    PlainHomes requested ∧ OneLineEach requested 3 ∧ (coreAt requested 3).l1.map (fun l => decide (l.stamp ≤ 4)) = [true, false] :=
  ⟨by decide, by decide, by decide, by decide, by decide, by unfold PlainHomes; decide, by unfold OneLineEach; decide, by decide⟩
/-- An eviction's sequence has no crew, and needs no link of its own. -/
theorem test_evict_met : let s := { promoting false with pacqs := [{ sequence false with cid := 0, evict := true }] }
    crew? s 0 = none ∧ depsDone s 0 [] = true ∧ s.pacqs.all (fun r => !(r.snap && r.pln == 2)) = true := by decide
theorem test_hint_met (n : Nat) (h : n < 512) : (hinting n).hints[0]? = some (3, 5) ∧ (relTable (hinting n) 5).length < 512 := by
  refine ⟨rfl, ?_⟩
  simp [hinting, relTable, kgetD, kget, h]
def jobs : List RJob := [.rpop Lanes.zero, .rbox [] [place .sys 0x100]]
theorem test_render_result_met : (∀ j ∈ jobs, FindsFut (awaiting (.v 126 1) (.render 1 j)) 0 0 7 (awaiting (.v 126 1) (.render 1 j)).cur
      (future (.v 126 1) (.render 1 j))) ∧ (∀ j ∈ jobs, j.places.any (laneHeld st 0 .block j.size) = false) ∧ depsDone st 1 [] = true := by
  refine ⟨fun j hj => findsFut_of ?_, by decide⟩
  revert j
  decide

/-- A command at the head of pair 0's operand queue, from a crew on it. -/
def commanding (k : EngCmd) : State := { st with
  blocks := [{ block with winSize := 65536 }], cores := [(0, { Core.zero with opq := [k], rsOn := true })] }

theorem test_engine_heads_met : ∀ k ∈ ([.mzero 1 31 0, .mcfg 1 1, .mldw 1 (0x40 + 2 ^ 32 * 64) 0, .mrow 1 2 3 8 2,
    .feed 1 3 Lanes.zero none, .gang 1] : List EngCmd), (coreAt (commanding k) 0).opq = [k] ∧ crew? (commanding k) 1 = some (commanding k).cur := by decide

theorem test_engine_canonical (k : EngCmd) : MemoriesCanonical (commanding k) ∧ (coreAt (commanding k) 0).infq = [] ∧
    engineHeld (commanding k) 0 = false := by
  refine ⟨canon_of ?_, rfl, rfl⟩
  exact (by decide : canonB (commanding (.mcfg 1 1)) = true)

/-- A matrix product of zeros from the crew's window. -/
def product : EngCmd := .arith 0 0 [(1, 0, 5)] [0, 0] 1
theorem test_product_met : (match operands (commanding product) crew 0 0 [0, 0] 1 with
    | .inr x => crew.ftOf 0 == isInts (commanding product) crew (x.1 ++ x.2.1)
    | .inl _ => false) = true := by decide
/-- A result queue with room, and one that is full; a feed queue whose last item fits. -/
def rows (n : Nat) : Crew := { crew with qregs := crew.qregs.set 3 ⟨0x8000000000000019, 0, n⟩ }
theorem test_rows_met : isResultQ ((rows 0).qregs.getD 3 default) = true ∧ (rows 0).all.all (fun f => f.park != .qbind 3) = true ∧
    ((rows 0).qregs.getD 3 default).count < depthOf ((rows 0).qregs.getD 3 default) ∧
    ((rows 1).qregs.getD 3 default).count ≥ depthOf ((rows 1).qregs.getD 3 default) ∧
    tsoOf (⟨0x8000000000000002 + 2 ^ 10 * 65280, 0, 0⟩ : QReg) + 256 = 65536 ∧ (windowOf (commanding product) crew).2 = 65536 := by decide
/-- The limits of a weight load: the last line of the window. -/
theorem test_load_weights_met : let x : Word := 2 ^ 32 * 64 + 0x1FFFFFC0
    let y : Word := 65536 - 64
    x.toNat / 2 ^ 29 % 8 = 0 ∧ y.toNat < 2 ^ 21 ∧ x.toNat / 2 ^ 32 = 64 ∧ x.toNat % 2 ^ 29 % 64 = 0 ∧ y.toNat % 64 = 0 ∧
    y.toNat + 64 ≤ (windowOf (commanding product) crew).2 ∧ x.toNat % 2 ^ 29 + 64 ≤ 0x20000000 := by decide

/-- Requests in a pair's queues: fifteen dispatched, sixty-three commands before a push. -/
def request (w : Word) : NrqReq := { (default : NrqReq) with cid := 1, fut := 7, act := 1, word := w }
def inferring (w : Word) (m : Mem) : State := { st with sys := m, cores := [(0, { Core.zero with
  infq := request w :: List.replicate 14 (request w), mcfg := 1, feeds := [⟨1, 3, 0, Lanes.zero⟩],
  opq := .nrq 1 7 :: List.replicate 62 (.mcfg 1 1) })] }
theorem test_engine_queue_met : (coreAt (inferring 0x100 []) 0).infq.length < 16 ∧ (coreAt (inferring 0x100 []) 0).mcfg = 1 ∧
    (coreAt (inferring 0x100 []) 0).opq.length < 64 ∧ crew? (inferring 0x100 []) 1 = some crew ∧ stalled (inferring 0x100 []) 7 = false ∧
    (∀ w ∈ [0x100, 0x120, 0x3FFFFFFFFFFFFFC0], xlateFresh (inferring 0x100 []) .read (w % 2 ^ 30) = .ok ⟨.sys, w % 2 ^ 30⟩ ⟨true, true, true⟩) ∧
    (2 : Nat) ^ 62 ≤ 0x4000000000000100 ∧ 0x100 < (2 : Nat) ^ 62 ∧ 0x120 % 64 ≠ 0 := by decide
/-- A descriptor in local memory, whose line is known to be uncorrectable or is not. -/
theorem test_engine_line_met : let s : State := { inferring 0x40000100 [] with badLines := [2] }
    xlateFresh s .read 0x40000100 = .ok ⟨.loc, 0x100⟩ ⟨true, true, true⟩ ∧ badAt s ⟨.loc, 0x100⟩ = true ∧
    badAt (inferring 0x40000100 []) ⟨.loc, 0x100⟩ = false := by decide
/-- A descriptor with a reserved bit, and one of a layer whose size does not fit. -/
theorem test_layers_met : layersOf (paBytes (inferring 0x100 [(0x100, 8)]) ⟨.sys, 0x100⟩ 64) 0 = none ∧
    ((layersOf (paBytes (inferring 0x100 []) ⟨.sys, 0x100⟩ 64) 0).bind fun ls => layersBad (inferring 0x100 []) crew 32 1 ls).isSome = true := by
  decide

/-- No link holds the requests; a network of one layer of 16 outputs, four registers' worth. -/
theorem test_layers_fit_met : let s := { inferring (0x100 + 2 ^ 57 * 3) [] with blocks := [{ block with winSize := 65536 }] }
    behindLink s (enginePort 0) 0x100 64 = false ∧ engineHeld s 0 = false ∧ releaseHeld s 0 .device = false ∧ (request (0x100 + 2 ^ 57 * 3)).vd + 4 ≤ 127 ∧
    ((layersOf (paBytes s ⟨.sys, 0x100⟩ 64) 0).map fun ls => layersBad s crew 32 4 ls) = some none := by decide

/-- Two members of a gang parked on their block's latch, whose shapes agree or not. -/
def arrival (i shape : Nat) : Arrival := ⟨i, i + 1, 0, 2 + 2 ^ 8, 0, shape, 0, [0, 0], 5⟩
def latched (shape : Nat) : State := { st with
  cur := { crew with gang := 2 + 2 ^ 8, fr := { frag with park := .latch } }
  crews := [{ crew with cid := 2, idx := 1, slot := 1, gang := 2 + 2 ^ 8, fr := { frag with fid := 2, park := .latch } }]
  blocks := [{ block with latch := [arrival 0 0, arrival 1 shape] }] }
theorem test_latch_met : ∀ shape ∈ [0, 1], ((latched shape).blocks.head?.any fun x => x.latch.find? (fun a => a.idx == 0 &&
      (List.range (a.gang.toNat % 8)).all fun i => x.latch.any fun y =>
        y.idx == a.gang.toNat / 2 ^ (3 + 5 * i) % 32 && y.num == a.num) == some (arrival 0 0)) = true ∧
    ((List.range 2).filterMap fun i => (allCrews (latched shape)).find? fun c => c.block == 1 && c.idx == i).length = 2 ∧
    ((allCrews (latched shape)).map fun c => c.cid).Nodup ∧
    ((allCrews (latched shape)).zip [arrival 0 0, arrival 1 shape]).all (fun y => (y.1.all.map fun f => f.fid) == [y.2.fid] &&
      y.1.all.any fun f => f.fid == y.2.fid && f.park == .latch) = true := by decide

/-- A running copy of the crew, from and to the places that its words name. -/
def copy (sub : Nat) (ws : List Word) : Copy := { (default : Copy) with
  id := 8, cid := 1, launch := 1, block := 1, region := 16, sub := sub, words := ws, started := true }
def copying (sub : Nat) (ws : List Word) : State := { st with
  copies := [copy sub ws], blocks := [{ block with winSize := 65536 }] }

/-- The pieces of both ends: all mapped and held by no link, one absent, none denied; places apart, none in local memory. -/
def copyEnds (ws : List Word) : Bool × Bool × Bool × Bool :=
  let s := copying 0 ws
  let n := (ws.getD 2 0).toNat % 2 ^ 25
  let src := endPieces s (copy 0 ws) .read (ws.getD 1 0) n
  let dst := endPieces s (copy 0 ws) .write (ws.getD 0 0) n
  let far := endBytes src ++ endBytes dst
  ((src ++ dst).all (fun e => match e.at_ with | .ok .. => true | _ => false) && !endHeld s (copy 0 ws) (src ++ dst) &&
      !(endBytes dst).any (claimMoves s 1),
    (src ++ dst).any (fun e => match e.at_ with | .absent .. => true | _ => false), (src ++ dst).all (fun e => e.at_ != .denied),
    far.all (fun a => a.sp != .loc) && decide (endBytes dst).Nodup && (endBytes dst).all fun a => !(endBytes src).contains a)
/-- One byte; bytes across a page's end into the end of the scratchpad. -/
theorem test_copy_met : ∀ ws ∈ ([[0x200, 0x100, 1, 0], [2 ^ 57 + 4080, 0xFF8, 16, 0]] : List (List Word)),
    runningCopy (copying 0 ws) 8 false = some (copy 0 ws) ∧ copyRsvd ws = false ∧ copyEnds ws = (true, false, true, true) ∧
    endOut (copying 0 ws) (copy 0 ws) (ws.getD 0 0) ((ws.getD 2 0).toNat % 2 ^ 25) = false ∧ crcOf (ws.getD 2 0) = false := by decide
/-- Local memory at both ends, with a checksum expected that is met or not, and a pending count that the bytes leave. -/
def countedCopy (want : Nat) : List Word := [0x40000200, 0x40000100, BitVec.ofNat 64 (1 + 2 ^ 26 + 2 ^ 27 + 2 ^ 32 * want), BitVec.ofNat 64 (2 ^ 59 + 2 ^ 57 + 0x100)]
theorem test_copy_local_met : ∀ n ∈ [0, 1], let ws := countedCopy n
    let s : State := { copying 0 ws with blocks := [{ block with scratch := [(0x108, 16)] }] }
    runningCopy s 8 false = some (copy 0 ws) ∧ copyRsvd ws = false ∧ (copyEnds ws).1 = true ∧ (copyEnds ws).2.1 = false ∧
    endOut s (copy 0 ws) 0x40000200 1 = false ∧ endOut s (copy 0 ws) 0x40000100 1 = false ∧ crcOf (ws.getD 2 0) = true ∧ finOf (ws.getD 2 0) = true ∧
    expOf (ws.getD 2 0) = n ∧ (ws.getD 3 0).getLsbD 59 = true ∧ engBar s 1 (ws.getD 3 0) = some ⟨.spad 1, 0x100⟩ ∧
    1 < (barAt s 0 ⟨.spad 1, 0x100⟩).pb ∧ copyReleaseHeld s (copy 0 ws) = false ∧ (endBytes (endPieces s (copy 0 ws) .read 0x40000100 1)).all (fun a => !badAt s a) = true ∧
    s.xl.shadows = [] ∧ s.xl.ckdm0 = 0 ∧ s.xl.ckdm1 = 0 ∧ s.dev.ulEn = false := by decide
theorem test_copy_canonical (sub : Nat) (ws : List Word) : MemoriesCanonical (copying sub ws) ∧ InPlace (copying sub ws) 1 ∧
    (copying sub ws).dev.retraining = [] :=
  ⟨canon_of (by decide : canonB (copying 0 []) = true), inPlace_of rfl rfl, rfl⟩
theorem test_copy_absent_met : let ws : List Word := [0x200, 0xC0800000, 1, 0]
    runningCopy (copying 0 ws) 8 false = some (copy 0 ws) ∧ copyRsvd ws = false ∧ (copyEnds ws).2.1 = true ∧ (copyEnds ws).2.2.1 = true := by
  decide
/-- A length of 0, and a reserved bit. -/
theorem test_copy_reserved_met : ∀ ws ∈ ([[0x200, 0x100, 0, 0], [0x200, 0x100, 1, 2 ^ 58]] : List (List Word)),
    runningCopy (copying 0 ws) 8 false = some (copy 0 ws) ∧ copyRsvd ws = true ∧ (copyEnds ws).2.2.1 = true ∧
    (ws.getD 2 0).toNat % 2 ^ 25 ≤ 2 ^ 24 ∧ crew? (copying 0 ws) 1 = some crew := by decide
/-- A stripe of the first type and one of a type of 64 bytes, from the end of the scratchpad to the end of the window. -/
theorem test_tensor_copy_met : ∀ x ∈ ([(0, 32), (0x21, 64), (0x22, 64)] : List (Nat × Nat)),
    let ws : List Word := [BitVec.ofNat 64 (65534 - x.2 + 2 ^ 21 * 65534), BitVec.ofNat 64 (2 ^ 57 + 4096 - x.2), BitVec.ofNat 64 (2 ^ 40 * x.1), 0, 0, 0]
    runningCopy (copying 2 ws) 8 true = some (copy 2 ws) ∧ (blockAt? (copying 2 ws) 1).map (fun b => (b.scratchSize, b.winSize)) = some (4096, 65536) ∧
    tcpyStripes ws = [⟨4096 - x.2, none, 65534 - x.2, 65534⟩] ∧ (ws.getD 1 0).toNat / 2 ^ 57 = 1 ∧ tcpyRsvd ws = false := by decide

/-- An operation on its way to a barrier, and barriers that hold `n`. -/
def barOp (kind arg : Nat) (at_ : PA) : BarOp := { (default : BarOp) with id := 3, cid := 1, at_ := at_, kind := kind, arg := arg }
def bars (n : Nat) : Mem := (List.range 16).filterMap fun i => if n / 256 ^ i % 256 = 0 then none else some (0x100 + i, BitVec.ofNat 8 (n / 256 ^ i))
def meeting (n : Nat) (o : BarOp) : State := { parked (.barArr 3) with barOps := [o], sys := bars n, blocks := [{ block with scratch := bars n }] }
theorem test_barrier_operation_met : ∀ x ∈ ([(0xFFFE, 0, 0, ⟨.spad 1, 0x100⟩), (0xFFFE0003, 0, 0, ⟨.spad 1, 0x100⟩), (1, 0, 0, ⟨.spad 1, 0x100⟩),
      (0, 1, 1, ⟨.spad 1, 0x100⟩), (2 ^ 64 * (2 ^ 35), 1, 2 ^ 35 - 1, ⟨.spad 1, 0x100⟩)] : List (Nat × Nat × Nat × PA)),
    let o := barOp x.2.1 x.2.2.1 x.2.2.2
    let s := meeting x.1 o
    let b := barAt s 0 o.at_
    s.barOps[0]? = some o ∧ depsDone s 1 [] = true ∧ barInOrder s o = true ∧ s.dev.retraining = [] ∧ stalled s 3 = false ∧
    claimMoves s o.launch o.at_ = false ∧ (blockAt? s 1).isSome = true ∧ o.at_.a % 16 = 0 ∧
    (o.kind = 0 → b.pb = 0 ∧ b.arv + 1 < 2 ^ 16) ∧ (o.kind = 1 → o.arg < 2 ^ 35 ∧ b.pb + o.arg < 2 ^ 36 ∧ b.pb + o.arg ≠ 0) := by decide
/-- An arrival of `bara` that writes `c5`, with the memories in their form. -/
theorem test_barrier_reply_met : let o := { barOp 0 0 ⟨.spad 1, 0x100⟩ with fut := some 7 }
    let s := { awaiting (.c 5 1) .bara with barOps := [o], blocks := [{ block with scratch := bars 3 }] }
    s.barOps[0]? = some o ∧ depsDone s 1 [] = true ∧ (crew? s 1).any (fun c => (c.futs.find? fun f => f.id == 7) == some (future (.c 5 1) .bara)) = true := by
  decide
theorem test_barrier_canonical : MemoriesCanonical (meeting 0xFFFE0003 (barOp 0 0 ⟨.spad 1, 0x100⟩)) ∧
    linkHeld (meeting 3 (barOp 0 0 ⟨.loc, 0x100⟩)) (corePort 0) ⟨.loc, 0x100⟩ = false := ⟨canon_of (by decide), linkHeld_none rfl _ _⟩
/-- An arrival at a global barrier that finds its line's entry, room for one more, or none. -/
theorem test_barrier_combine_met : ∀ x ∈ ([(2, 1), (3, 15), (3, 16)] : List (Nat × Nat)),
    let o := barOp 0 0 ⟨.loc, 0x100⟩
    let s := { meeting 3 o with combiner := (List.range x.2).map fun i => ⟨0, x.1 + i, 0, []⟩ }
    s.barOps[0]? = some o ∧ depsDone s 1 [] = true ∧ barInOrder s o = true ∧ claimMoves s o.launch o.at_ = false ∧
    s.combiner.any (fun e => e.die == 0 && e.line == 0x100 / 128) = decide (x.1 = 2) ∧
    (s.combiner.filter fun e => e.die == 0).length = x.2 := by decide
/-- A message of two arrivals at a barrier of local memory. -/
theorem test_combiner_message_met : let o := barOp 0 0 ⟨.loc, 0x100⟩
    let s : State := { st with combiner := [⟨2, 2, 32, [o, o]⟩] }
    (s.combiner.filter fun e => e.die == 2)[0]? = some ⟨2, 2, 32, [o, o]⟩ ∧ s.dev.retraining = [] ∧ s.xl.shadows = [] ∧
    s.xl.ckdm0 = 0 ∧ s.xl.ckdm1 = 0 ∧ s.dev.ulEn = false ∧ [o, o].all (fun y => y.kind == 0 && y.at_ == o.at_) = true := by decide
theorem test_combiner_met : ∀ age ∈ [31, 32], (({ st with combiner := [{ (default : Combine) with die := 2, age := age }] } : State).combiner.filter
    fun e => e.die == 2)[0]?.map (fun e => e.age) = some age := by decide
/-- An arrival that is withdrawn: its phase has passed, is open, has not been reached by less than half the circle. -/
def withdrawing (at_ : PA) (n : Nat) : State := { parked (.barTok at_ 5) with
  withdrawals := [(1, 1)], blocks := [{ block with scratch := bars n }] }
theorem test_withdrawal_met : ∀ x ∈ ([(2 ^ 32 * 6, true), (2 ^ 32 * (2 ^ 31 + 4), true), (2 ^ 32 * 5 + 2 ^ 64 + 1, false),
      (2 ^ 32 * (2 ^ 31 + 5) + 2 ^ 64 + 1, false)] : List (Nat × Bool)),
    let at_ : PA := ⟨.spad 1, 0x100⟩
    (withdrawing at_ x.1).withdrawals[0]? = some (1, 1) ∧ (withdrawing at_ x.1).combiner = [] ∧
    ((focusCid (withdrawing at_ x.1) 1).bind fun t => focusFrag t 1).any (fun t =>
      decide (t.cur.fr.park = .barTok at_ 5) && (barAt t t.cur.pair at_).passed 5 == x.2 &&
        (x.2 || (decide ((barAt t t.cur.pair at_).pb ≠ 0) && decide (1 ≤ (barAt t t.cur.pair at_).arv)))) = true := by
  decide
theorem test_withdrawal_canonical : MemoriesCanonical (withdrawing ⟨.spad 1, 0x100⟩ (2 ^ 32 * 6)) ∧
    ((focusCid (withdrawing ⟨.loc, 0x100⟩ 0) 1).bind fun t => focusFrag t 1).any (fun t =>
      decide (t.cur.fr.park = .barTok ⟨.loc, 0x100⟩ 5)) = true := ⟨canon_of (by decide), by decide⟩
/-- A wait for the value 5 since 1,000: polled early, with the counter behind, at it and beyond. -/
def polling (now n : Nat) : State := { parked (.wait ⟨.sys, 0x100⟩ 0x100 5 false 1000) with now := now, sys := bars n }
theorem test_poll_met : ∀ x ∈ ([(2399, 5), (2400, 4), (2400, 5), (2400, 2 ^ 63 + 4)] : List (Nat × Nat)),
    ((focusCid (polling x.1 x.2) 1).bind fun t => focusFrag t 1).any (fun t =>
      decide (t.cur.fr.park = .wait ⟨.sys, 0x100⟩ 0x100 5 false 1000) &&
        decide ((BitVec.ofNat 64 (counterAt t t.cur.pair ⟨.sys, 0x100⟩) - 5 : Word).toNat < 2 ^ 63 ↔ x.2 ≠ 4)) = true := by decide
theorem test_poll_saved_met : focusCid (polling 0 0) 9 = none ∧ linkHeld (polling 2400 5) (corePort 0) ⟨.sys, 0x100⟩ = false := by decide

/-- Ring 63 at an address, of 2^n entries, with a record for region 16 there whose tag is `tag`. -/
def ringing (at_ n rptr wptr : Nat) (gate : Bool) (tag : Nat) : State := { st with
  dev := { st.dev with mode := .service }
  rings := st.rings.set 63 { Ring.zero with rbase := at_, log2n := n, en := true, gate := gate, wptr := wptr, rptr := rptr, st := 1, credits := 1 }
  rg := { st.rg with eff := [{ region with psh := 1 }] }
  sys := (if tag = 0 then [] else if tag < 256 then [(0x1000, BitVec.ofNat 8 tag)] else [(0x1001, BitVec.ofNat 8 (tag / 256))]) ++ [(0x1004, 16), (0x1018, 1)] }
/-- What a ring's turn meets: records waiting and room, the record's tag and the number asked for, whether the record passes. -/
def ringMeets (s : State) : Nat × Nat × Option (Nat × Nat × Bool) :=
  let r := s.rings.getD 63 Ring.zero
  ((r.wptr + 2 ^ 32 - r.rptr) % 2 ^ 32, 2 ^ r.log, match xlateFresh s .read (r.rbase + 64 * (r.rptr % 2 ^ r.log)) with
    | .ok pa _ =>
      let x := LRec.ofBytes (paBytes s pa 64)
      some (x.tag, r.rptr / 2 ^ r.log % 65535 + 1, (effRegion? s x.regn).any fun q =>
        (x.bad false true).isNone && decide (kgetD s.rg.share q.instL 0 < q.psh))
    | _ => none)
def ringUp (s : State) : Bool :=
  let r := s.rings.getD 63 Ring.zero
  r.en && r.st == 1 && r.credits != 0 && s.dev.mode == .service && !s.dev.wsBsy && !stalled s (2 ^ 64 + 63)
def ringCases : List State := [ringing 0x1000 4 0 17 false 1, ringing 0xC0600000 4 0 16 false 1, ringing 0x1000 4 16 32 false 0,
  ringing 0x1000 4 16 17 false 1, ringing 0x1000 4 0 16 false 1, ringing 0x1000 4 (2 ^ 32 - 16) 0 true 4096]
theorem test_ring_met : ringCases.all ringUp = true ∧ (ringCases.map ringMeets == [(17, 16, some (1, 1, true)), (16, 16, none),
    (16, 16, some (0, 2, true)), (1, 16, some (1, 2, true)), (16, 16, some (1, 1, true)), (16, 16, some (4096, 4096, true))]) = true ∧
    (xlateFresh (ringing 0xC0600000 4 0 16 false 1) .read 0xC0600000 == .denied) = true := by decide
/-- The ring's link does not retrain, no line there is bad, and the memories have their form. -/
theorem test_ring_line_met : ringCases.all (fun s => s.dev.retraining.isEmpty && !badAt s ⟨.sys, 0x1000⟩ && canonB s) = true := by decide
/-- A record of no block, which R282 refuses, in a ring with a gate and a credit. -/
def malformed : State := { ringing 0x1000 4 0 16 true 1 with sys := [(0x1000, 1), (0x1004, 16)] }
theorem test_ring_malformed_met : ringUp malformed = true ∧ (match xlateFresh malformed .read 0x1000 with
    | .ok pa _ =>
      let x := LRec.ofBytes (paBytes malformed pa 64)
      x.tag == 1 && x.cca == 0 && (x.bad false (effRegion? malformed x.regn).isSome).isSome &&
        (effRegion? malformed x.regn).any fun q => decide (kgetD malformed.rg.share q.instL 0 < q.psh)
    | _ => false) = true := by decide
theorem test_ring_registers_met : let s : State := { ringing 0 4 0 0 true 0 with rings := State.reset.rings }
    s.dev.mode = .service ∧ (s.rings.getD 63 Ring.zero).en = false ∧ (0x24 : BitVec 64).getLsbD 5 = true ∧ (0x40 : BitVec 64).getLsbD 5 = false ∧
    ((ringing 0 4 0 0 true 0).rings.getD 63 Ring.zero).en = true := by decide
theorem test_ring_resume_met : ∀ x ∈ [2, 3], let r := ({ st with rings := st.rings.set 63 { Ring.zero with en := true, st := x } } : State).rings.getD 63 Ring.zero
    r.en = true ∧ (r.st = 2 ∨ r.st = 3) := by decide

/-- A beacon that last came `k` cycles ago. -/
def beacon (k : Option Nat) : State := { st with
  ctr := { st.ctr with bEn := true, bAge := k }, rg := { st.rg with eff := [{ region with bref := true, budg := 3 }] } }
theorem test_beacon_met : (∀ k ∈ [none, some 1399999, some 1400000], (beacon k).ctr.bEn = true ∧ (beacon k).ctr.bAge = k) ∧
    (beacon none).rg.eff.all (fun q => q.bref && q.instS == q.num) = true ∧ ((beacon none).rg.eff.map fun y => y.num).Nodup := by decide

/-- A launch with nothing left to run: in a queue, in the pool, running; with a counter, in a group that may commit. -/
def pooling (l : LState) (irrev : Bool) : State := { State.reset with
  nextId := 100, loc := pages, xl := { Xlate.zero with ptrt := 0x1000, groups := [{ (default : Group) with gid := 1, deps := [7] }] }
  rg := { Regions.zero with eff := [region] }
  launches := [{ launch with st := l, group := 1, irrev := irrev, retiredBlocks := 1, lr := { launch.lr with cca := 0x108 } }]
  cores := [(0, { Core.zero with pendingLaunch := [1] })] }
theorem test_pool_launch_met : (coreAt (pooling (.queued 0) true) 0).pendingLaunch = [1] ∧ queueWaits (pooling (.queued 0) true) 0 = [] ∧
    (pooling .pool true).launches.any (startTurn (pooling .pool true)) = true ∧
    (pooling .pool true).launches.any (paramWaits (pooling .pool true)) = false ∧
    (pooling .pool true).xl.shadows.all (fun e => e.committed) = true ∧ launch.lr.render = false ∧
    (pooling .running true).launches.any (launchDone (pooling .running true)) = true ∧ stalled (pooling .running true) 1 = false ∧
    (pooling .running true).launches.any (fun l => counterWaits (pooling .running true) l.lr.cca) = false ∧
    (pooling .running true).launches.all (depsMet (pooling .running true)) = true ∧ canonB (pooling .running true) = true ∧
    xlateFresh (pooling .running true) .write 0x108 = .ok ⟨.sys, 0x108⟩ ⟨true, true, true⟩ := by decide
/-- No link keeps a launch, a group or a copy-back waiting; a replayed launch with its parameters. -/
def replayed : State := { pooling .pool false with launches := (pooling .pool false).launches.map fun l => { l with again := true, params := [(0x200, 5)] } }
theorem test_launch_links_met : linesHeld (pooling .running true) (fun _ => true) = false ∧ groupHeld (pooling .running false) 1 = false ∧
    replayed.launches.all (fun l => startTurn replayed l && !paramWaits replayed l && l.again && !l.lr.render) = true := by decide
theorem test_group_met : (groupAt? (pooling .running false) 1).any (fun q => !q.irrev && q.deps.all (depMet (pooling .running false))) = true ∧
    ((pooling .running false).launches.filter fun l => l.group == 1 && !l.failed).length = 1 ∧
    (pooling .running false).launches.all (fun l => launchDone (pooling .running false) l && !counterWaits (pooling .running false) l.lr.cca) = true := by
  decide
def shadowing : State := { st with xl := { st.xl with shadows := [⟨0x40000, 0x30000, 1, true, 16⟩] } }
theorem test_shadow_met : (shadowing.xl.shadows.filter fun e => e.committed && shadowDie e.granule == shadowDie 0x40000)[0]? = some ⟨0x40000, 0x30000, 1, true, 16⟩ ∧
    streaming shadowing = false ∧ kget shadowing.rg.shadowPool 16 = none ∧ shadowing.dev.ulEn = false := by
  refine ⟨?_, by decide⟩
  simp [shadowing]
theorem test_copy_back_met : copyBackHeld shadowing ⟨0x40000, 0x30000, 1, true, 16⟩ = false :=
  copyBackHeld_none rfl _
/-- A shadow pool with room, whose stack is mapped. -/
def pushing : State := { shadowing with rg := { shadowing.rg with shadowPool := [(16, ⟨0x5000, 1, 4, 3⟩)] } }
theorem test_shadow_pool_met : kget pushing.rg.shadowPool 16 = some ⟨0x5000, 1, 4, 3⟩ ∧ Pool.moves pushing ⟨0x5000, 1, 4, 3⟩ = false ∧
    (vaBytes? pushing (0x5000 + 0x10 + 8 * 3) 8).isSome = true ∧ canonB pushing = true := by decide

/-- A write of `PTRT` with nothing running; with a launch running; with a ring running. -/
theorem test_root_met : canonB st = true ∧ st.launches.any (fun l => l.st == .running) = false ∧ st.rings.toList.all (fun r => r.st != 1) = true ∧
    (pooling .running true).launches.any (fun l => l.st == .running) = true ∧
    (ringing 0 4 0 0 false 0).rings.toList.any (fun r => r.st == 1) = true := by decide
def busy (f : Xlate → Xlate) : State := { st with xl := f st.xl }
/-- No access waited for, and one that is gone. -/
theorem test_shootdown_met : st.xl.sdBsy = false ∧ ∀ l ∈ [[], [(1, 77)]], let s := busy fun x => { x with sdBsy := true, sdWaits := l }
    s.xl.sdBsy = true ∧ (s.xl.sdWaits.any fun x => inFlight s x.1 x.2) = false := by decide
/-- A pool that is full, and one with room for one frame whose place is mapped. -/
def pooled (top : Nat) : State := { st with rg := { st.rg with touchPool := [(16, ⟨0x400, 1, 4, top⟩)] } }
theorem test_refill_met : let x : BitVec 64 := 0x8000000000010010
    x.getLsbD 63 = true ∧ x.toNat / 2 ^ 16 % 2 ^ 16 = 1 ∧ st.rg.eff.find? (fun r => r.num == x.toNat % 1024) = some region ∧ x.getLsbD 10 = false ∧
    kget (pooled 4).rg.touchPool 16 = some ⟨0x400, 1, 4, 4⟩ ∧ kget (pooled 3).rg.touchPool 16 = some ⟨0x400, 1, 4, 3⟩ ∧
    Pool.moves (pooled 3) ⟨0x400, 1, 4, 3⟩ = false ∧ moving (pooled 3) (0x400 + 0x10 + 8 * 3) 8 = false ∧
    Pool.moves (pooled 4) ⟨0x400, 1, 4, 4⟩ = false ∧ moving (pooled 4) (0x400 + 0x10 + 8 * 4) 8 = false ∧
    canonB (pooled 3) = true ∧ (vaBytes? (pooled 3) (0x400 + 0x10 + 8 * 3) 8).isSome = true ∧ (pooled 3).xl.plErr = false ∧
    vaPA? (pooled 3) (0x400 + 0x10 + 8 * 3) = some ⟨.sys, 0x428⟩ ∧ vaPA? (pooled 3) (0x400 + 8) = some ⟨.sys, 0x408⟩ := by decide
/-- A crew that waits for a page, with `n` faults recorded already; the batch as full as it may be. -/
def frec (n : Nat) : FRec := ⟨200 + n, 0x1000 * n, 1, 16, 0, 0⟩
def faulting (n fbn : Nat) : State := { parked (.batch 9 0 0 [(0, 0xC0800123)]) with
  xl := { st.xl with recs := (List.range n).map frec, fbn := fbn } }
theorem test_fault_record_met : ∀ x ∈ ([(0, 64), (62, 64), (63, 64), (255, 256)] : List (Nat × Nat)),
    (faultsNew (faulting x.1 x.2))[0]? = some ⟨9, 0xC0800000, 0, 16, 0, 0⟩ ∧ recordCount (faulting x.1 x.2) < 256 := by decide
theorem test_batch_age_met : let s := busy fun x => { x with recAge := 65536, recs := [frec 1] }
    65536 ≤ s.xl.recAge ∧ s.xl.recs ≠ [] := by decide
def fill (n : Nat) : FRange := ⟨0x100000 * n, 1, 16, 1, 1, n, n⟩
/-- A batch to deliver to a ring of 64 with 63 entries in use; a range whose batch is resolved, with the crew that waits for it. -/
def delivering : State := busy fun x => { x with closed := [[frec 1]], frl := 6, frpi := 63, ranges := (List.range 63).map fill }
theorem test_batch_deliver_met : delivering.xl.closed = [[frec 1]] ∧ ringRoom delivering 1 = true ∧
    delivering.dev.retraining.contains 20 = false ∧ canonB delivering = true := by decide
def resolvable : State := { faulting 0 64 with xl := { st.xl with ranges := [⟨0xC0800000, 1, 16, 1, 1, 7, 0⟩] } }
theorem test_resolve_met : resolvable.xl.ranges.filter (fun r => r.batch == (7 : BitVec 32).toNat) = [⟨0xC0800000, 1, 16, 1, 1, 7, 0⟩] ∧
    (allCrews resolvable).all (fun c => !storeWaits [⟨0xC0800000, 1, 16, 1, 1, 7, 0⟩] c) = true ∧ resolvable.renders = [] ∧
    resolvable.cur.alive = true ∧ (match resolvable.cur.fr.park with
      | .batch _ _ _ ls => ls.any fun l => FRange.has ⟨0xC0800000, 1, 16, 1, 1, 7, 0⟩ (pageOf l.2)
      | _ => false) = true := by decide
/-- A checkpoint: idle, armed, streaming with no map and with a bit set in it. -/
def checkpoint (bsy armed : Bool) (map : Nat) : State := busy fun x => { x with ckBsy := bsy, ckArmed := armed, ckdm1 := map }
theorem test_checkpoint_met : (checkpoint false false 0).xl.ckBsy = false ∧ (checkpoint true true 0).xl.ckArmed = true ∧
    (checkpoint true false 0).xl.ckBsy = true ∧ (checkpoint true false 0).xl.ckArmed = false ∧
    (checkpoint true false 0).xl.ckErr = false ∧ (checkpoint true false 0).dev.retraining.contains 20 = false ∧
    canonB (checkpoint true false 0x3000) = true ∧ nextDirty (checkpoint true false 0) = none ∧
    nextDirty (checkpoint true false 0x3000) = some 0 ∧ nextDirty (checkpoint true false 0x2FFF) = some 8 := by decide

/-- No link keeps a write-back, a pool's page or a granule waiting. -/
theorem test_page_links_met (g : Nat) : linesHeld st (fun _ => true) = false ∧ mustHold (pooled 3) .h (0x400 + 0x10 + 8 * 3) 8 = false ∧
    mustHold (pooled 4) .h (0x400 + 0x10 + 8 * 4) 8 = false ∧ granuleHeld (checkpoint true false 0x3000) g = false :=
  ⟨by decide, by decide, by decide, granuleHeld_none rfl g⟩

/-! ### The region table -/

/-- Two regions' control blocks, whose shares are 1 and `psh`. -/
def control (at_ : Nat) (psh : BitVec 16) : Mem :=
  [(at_, 5), (at_ + 2, 31), (at_ + 4, 255), (at_ + 5, 255), (at_ + 6, 255), (at_ + 7, 255), (at_ + 0x58, 1), (at_ + 0x5A, 1)] ++
    (if psh.setWidth 8 = 0#8 then [] else [(at_ + 0x82, psh.setWidth 8)]) ++
    (if psh.ushiftRight 8 = 0 then [] else [(at_ + 0x83, (psh.ushiftRight 8).setWidth 8)])
def tables (full : Bool) : Mem := [(1, 32), (7, 128), (8, 0), (9, 33), (15, 128)].filter (fun c => c.2 != 0) ++
  control 0x2000 1 ++ control 0x2100 (if full then 4096 else 4095)
/-- A commit of regions 0 and 1 whose shares fill the pool, or exceed it by one; and one whose table cannot be read. -/
def committing (full : Bool) : State := { st with sys := tables full, rg := { st.rg with bsy := true } }
def committingNone : State := { st with rg := { st.rg with bsy := true, rgtb := 0x200000000000000 } }

theorem walk_table {s : State} {va l tbl : Nat} {e : BitVec 64} (h : pteAt s (tbl + 8 * (va / 2 ^ (12 + 9 * (l + 1)) % 512)) = e)
    (v : pteV e = true) (f : pteLF e = false)
    (r : nodeBad e = false) :
    walkGo s va (l + 1) tbl = walkGo s va l (pteFrame e) := by
  simp only [walkGo, h, v, f, r, Bool.false_eq_true, if_false, if_true]

/-- The page table of `pages`, with no shadow of it. -/
structure Mapped (s : State) : Prop where
  loc : s.loc = pages
  root : s.xl.ptrt = 0x1000
  shadows : s.xl.shadows = []

theorem mapped_entry {s : State} (m : Mapped s) (a : Nat) : pteAt s a = pteAt st a := by
  have h (k : Nat) : homeRead s k = homeRead st k := by
    simp only [homeRead, locRead, redirect, shadowOf, m.shadows, m.loc]
    rfl
  simp only [pteAt, h]

theorem mapped_va {s : State} (m : Mapped s) (acc : Acc) (_ : acc ≠ .fetch) {va : Nat} (h : va < 2 ^ 30) :
    xlateFresh s acc va = .ok ⟨.sys, va⟩ ⟨true, true, true⟩ := by
  have z {k : Nat} (hk : 2 ^ 30 ≤ k) : va / k = 0 := Nat.div_eq_of_lt (Nat.lt_of_lt_of_le h hk)
  have c : canonical va = true := decide_eq_true (Nat.lt_of_lt_of_le h (by decide))
  have e4 : pteAt s (0x1000 + 8 * (va / 2 ^ (12 + 9 * (3 + 1)) % 512)) = 0x2001 := by rw [z (by decide), mapped_entry m]; decide
  have e3 : pteAt s (pteFrame 0x2001 + 8 * (va / 2 ^ (12 + 9 * (2 + 1)) % 512)) = 0x3001 := by
    rw [z (by decide), mapped_entry m]; decide
  have e2 : pteAt s (pteFrame 0x3001 + 8 * (va / 2 ^ (12 + 9 * (1 + 1)) % 512)) = 0x21F := by
    rw [z (by decide), mapped_entry m]; decide
  have w : ∃ k, walk s va = .leaf 0x21F 30 k := by
    rw [walk, m.root, walk_table e4 (by decide) (by decide) (by decide), walk_table e3 (by decide) (by decide) (by decide), walkGo, e2]
    exact ⟨_, rfl⟩
  obtain ⟨k, w⟩ := w
  have f : leafPA 0x21F 30 va = ⟨.sys, va⟩ := by
    have f : pteFrame 0x21F = 0 := by decide
    have g : pteTGT 0x21F = 1 := by decide
    simp only [leafPA, f, g, Nat.mod_eq_of_lt h, Nat.zero_div, Nat.zero_mul, Nat.zero_add]
    rw [if_neg (by decide)]
  have v : pteV 0x21F = true := by decide
  have p : ptePerm 0x21F = ⟨true, true, true⟩ := by decide
  have q : Perm.admits ⟨true, true, true⟩ acc = true := by cases acc <;> rfl
  simp only [xlateFresh, c, w, judge, v, p, f, q, if_true]

theorem mapped_moving {s : State} (m : Mapped s) {va n : Nat} (h : va + n + 8192 ≤ 2 ^ 30) : moving s va n = false := by
  rw [moving, List.any_eq_false]
  intro i hi
  rw [List.mem_range] at hi
  rw [mapped_va m .read (by decide) (by omega)]
  exact Bool.false_ne_true

theorem mapM_some {α β : Type} {f : α → Option β} {g : α → β} : ∀ {l : List α}, (∀ x ∈ l, f x = some (g x)) → l.mapM f = some (l.map g)
  | [], _ => rfl
  | x :: l, h => by
    rw [List.mapM_cons, h x (List.mem_cons_self ..), mapM_some fun y hy => h y (List.mem_cons_of_mem _ hy)]
    rfl

theorem mapped_bytes {s : State} (m : Mapped s) {va n : Nat} (h : va + n ≤ 2 ^ 30) :
    vaBytes? s va n = some ((List.range n).map fun i => s.sys.read (va + i)) :=
  mapM_some fun i hi => by
    rw [List.mem_range] at hi
    rw [vaPA?, mapped_va m .read (by decide) (by omega)]
    rfl

/-- What a unit reads there, while the host's link is up. -/
theorem mapped_unit {s : State} (m : Mapped s) (l : s.dev.retraining = []) {va n : Nat} (h : va + n + 8192 ≤ 2 ^ 30) (f : Port) (lid : Nat) :
    unitRead s f lid va n false = .bytes ((List.range n).map fun i => s.sys.read (va + i)) s := by
  have p : (List.range n).map (fun i => vaPA? s (va + i)) = (List.range n).map fun i => some ⟨.sys, va + i⟩ :=
    List.map_congr_left fun i hi => by
      rw [List.mem_range] at hi
      rw [vaPA?, mapped_va m .read (by decide) (by omega)]
  have k : ((List.range n).map fun i => (⟨.sys, va + i⟩ : PA)).any (linkHeld s f) = false := by
    rw [List.any_eq_false]
    intro x hx
    obtain ⟨i, _, rfl⟩ := List.mem_map.1 hx
    simp [linkHeld_none l]
  have e : ((List.range n).map fun i => some (⟨.sys, va + i⟩ : PA)).filterMap id = (List.range n).map fun i => ⟨.sys, va + i⟩ := by
    rw [List.filterMap_map]
    exact congrFun (List.filterMap_eq_map' (f := fun i => (⟨.sys, va + i⟩ : PA))) _
  have r : ((List.range n).map fun i => (⟨.sys, va + i⟩ : PA)).map (paRead s) = (List.range n).map fun i => s.sys.read (va + i) := by
    rw [List.map_map]; rfl
  have b : ((List.range n).map fun i => (⟨.sys, va + i⟩ : PA)).any (badAt s) = false := by simp [badAt]
  simp only [unitRead, mapped_moving m h, p, e, k, b, r, List.length_map, List.length_range, Nat.lt_irrefl, if_false, Bool.false_eq_true]
  have z : ∀ l : List Nat, l.foldl (fun x _ => x) s = s := fun l => by induction l <;> simp_all
  rw [List.foldl_map]
  exact congrArg _ (z _)

theorem table_mapped (full : Bool) : Mapped (committing full) := ⟨rfl, rfl, rfl⟩
theorem table_bytes (full : Bool) {va n : Nat} (h : va + n ≤ 2 ^ 30) :
    vaBytes? (committing full) va n = some ((List.range n).map fun i => (tables full).read (va + i)) := mapped_bytes (table_mapped full) h

theorem read_unlisted {a : Nat} : ∀ {m : Mem}, m.all (fun c => c.1 != a) = true → m.read a = 0
  | [], _ => rfl
  | c :: m, h => by
    simp only [List.all_cons, Bool.and_eq_true, bne_iff_ne] at h
    rw [Mem.read, if_neg h.1, read_unlisted h.2]

theorem table_zero (full : Bool) {a : Nat} (h : 16 ≤ a) (k : a < 8192) : (tables full).read a = 0 := by
  have w : (tables full).all (fun c => decide (c.1 < 16) || decide (8192 ≤ c.1)) = true := by cases full <;> decide
  refine read_unlisted (List.all_eq_true.2 fun c hc => ?_)
  have := List.all_eq_true.1 w c hc
  simp only [Bool.or_eq_true, decide_eq_true_eq] at this
  simp only [bne_iff_ne]
  omega

theorem table_entry (full : Bool) {n : Nat} (h : 2 ≤ n) (k : n < 1024) : tableEntry (committing full) n = some 0 := by
  rw [tableEntry, table_bytes full (by rw [show (committing full).rg.rgtb.toNat = 0 from rfl]; omega),
    show (committing full).rg.rgtb.toNat = 0 from rfl]
  have r : (List.range 8).map (fun i => (tables full).read (0 + 8 * n + i)) = List.replicate 8 0 :=
    List.eq_replicate_iff.2 ⟨by simp, fun b hb => by
      obtain ⟨i, hi, rfl⟩ := List.mem_map.1 hb
      rw [List.mem_range] at hi
      exact table_zero full (by omega) (by omega)⟩
  rw [r]
  rfl

theorem badPlace_none {s : State} (h : s.badLines = []) (va n : Nat) : badPlace? s va n = none := by
  rw [badPlace?, List.find?_eq_none]
  intro x _
  simp [badAt, h]
theorem commitBad_none {s : State} (h : s.badLines = []) (n : Nat) : commitBad s n = none := by
  unfold commitBad
  simp only [badPlace_none h, Option.none_or]
  split <;> simp
theorem table_reads (full : Bool) (n : Nat) : (none == some n || (commitBad (committing full) n).isSome) = false := by
  rw [commitBad_none rfl]; rfl

theorem table_read (full : Bool) {n : Nat} (h : 2 ≤ n) (k : n < 1024) : readRegion (committing full) none n = .ok none := by
  rw [readRegion, table_reads full n, table_entry full h k]
  rfl

def controlOf (full : Bool) (n : Nat) : List Byte := (List.range 256).map fun i => (tables full).read (0x2000 + 0x100 * n + i)

theorem table_valid (full : Bool) : tableEntry (committing full) 0 = some 0x8000000000002000 ∧
    tableEntry (committing full) 1 = some 0x8000000000002100 := by
  constructor <;> rw [tableEntry, show (committing full).rg.rgtb.toNat = 0 from rfl, table_bytes full (by decide)] <;> cases full <;> decide

theorem table_block (full : Bool) : readRegion (committing full) none 0 = .ok (some (controlOf full 0)) ∧
    readRegion (committing full) none 1 = .ok (some (controlOf full 1)) := by
  have b : (0x8000000000002000 / 2 ^ 57 % 64 != 0 || cbFormatBad (controlOf full 0)) = false := by cases full <;> decide
  have c : (0x8000000000002100 / 2 ^ 57 % 64 != 0 || cbFormatBad (controlOf full 1)) = false := by cases full <;> decide
  constructor
  · simp only [readRegion, table_reads, (table_valid full).1, table_bytes full (show (0x8000000000002000 % 2 ^ 57) + 256 ≤ 2 ^ 30 by decide)]
    exact if_neg (by rw [← Bool.not_eq_true] at b; exact b)
  · simp only [readRegion, table_reads, (table_valid full).2, table_bytes full (show (0x8000000000002100 % 2 ^ 57) + 256 ≤ 2 ^ 30 by decide)]
    exact if_neg (by rw [← Bool.not_eq_true] at c; exact c)

theorem table_split : List.range 1024 = 0 :: 1 :: List.range' 2 1022 := by
  rw [List.range_eq_range', List.range'_succ, List.range'_succ]

theorem table_blocks (full : Bool) : tableBlocks (committing full) = [(0, controlOf full 0), (1, controlOf full 1)] := by
  have z : (List.range' 2 1022).filterMap (fun n => match readRegion (committing full) none n with
      | .ok (some b) => some (n, b)
      | _ => none) = [] := by
    rw [List.filterMap_eq_nil_iff]
    intro n h
    rw [List.mem_range'_1] at h
    rw [table_read full h.1 (by omega)]
  rw [tableBlocks, table_split, List.filterMap_cons_some (b := (0, controlOf full 0)) (by rw [(table_block full).1]),
    List.filterMap_cons_some (b := (1, controlOf full 1)) (by rw [(table_block full).2])]
  exact congrArg _ (congrArg _ z)

theorem tableBad_none {s : State} (h : ∀ n < 1024, readRegion s none n = .ok none ∨
    ∃ b, readRegion s none n = .ok (some b) ∧ regionBad (tableBlocks s) n b = none) : tableBad s none = none := by
  rw [tableBad, List.filterMap_map]
  simp only [List.findSome?_eq_none_iff]
  intro x hx
  obtain ⟨n, hn, rfl⟩ := List.mem_map.1 hx
  rcases h n (List.mem_range.1 hn) with e | ⟨b, e, g⟩
  · simp only [e]
  · simp only [e]
    rw [Option.map_eq_none_iff]
    exact g

theorem table_good (full : Bool) : regionBad [(0, controlOf full 0), (1, controlOf full 1)] 0 (controlOf full 0) = none ∧
    regionBad [(0, controlOf full 0), (1, controlOf full 1)] 1 (controlOf full 1) = none := by cases full <;> decide

theorem test_commit_met (full : Bool) : (committing full).rg.bsy = true ∧ stalled (committing full) commitStall = false ∧
    commitMoves (committing full) = false ∧ commitHeld (committing full) = false ∧ tableBad (committing full) none = none ∧
    poolsMove (committing full) (resolveAll (tableBlocks (committing full))) = false ∧
    sharesBad (resolveAll (tableBlocks (committing full))) [] 0 = if full then some 1 else none := by
  have m {va n : Nat} (h : va + n + 8192 ≤ 2 ^ 30) : moving (committing full) va n = false := mapped_moving (table_mapped full) h
  refine ⟨rfl, rfl, ?_, commitHeld_none rfl, ?_, ?_, ?_⟩
  · rw [commitMoves, commitReads, show (committing full).rg.rgtb.toNat = 0 from rfl, m (by decide), Bool.false_or, List.any_eq_false]
    intro n hn
    rw [List.mem_range] at hn
    by_cases h : 2 ≤ n
    · rw [table_entry full h hn]
      exact Bool.false_ne_true
    · have : n = 0 ∨ n = 1 := by omega
      rcases this with rfl | rfl
      · rw [(table_valid full).1]; simp [m]
      · rw [(table_valid full).2]; simp [m]
  · refine tableBad_none fun n hn => ?_
    by_cases h : 2 ≤ n
    · exact .inl (table_read full h hn)
    · have : n = 0 ∨ n = 1 := by omega
      rcases this with rfl | rfl
      · exact .inr ⟨_, (table_block full).1, by rw [table_blocks]; exact (table_good full).1⟩
      · exact .inr ⟨_, (table_block full).2, by rw [table_blocks]; exact (table_good full).2⟩
  · have e : (resolveAll (tableBlocks (committing full))).all (fun r => r.shp == 0 && decide (r.ftp + 16 + 8192 ≤ 2 ^ 30)) = true := by
      rw [table_blocks]
      cases full <;> decide
    rw [poolsMove, List.any_eq_false]
    intro r h
    have := List.all_eq_true.1 e r (List.mem_filter.1 h).1
    simp only [Bool.and_eq_true, beq_iff_eq, decide_eq_true_eq] at this
    simp [this.1, m this.2]
  · rw [table_blocks]
    cases full <;> decide
theorem test_commit_unreadable_met : committingNone.rg.bsy = true ∧ stalled committingNone commitStall = false ∧
    commitMoves committingNone = false ∧ commitHeld committingNone = false ∧ tableBad committingNone none = some (0, 1) := by decide

/-- A region stopped or not, its budget spent or not, its watchdog at its limit with no crew of it left. -/
def budgeted (left : Int) (debit : Nat) : State := { st with
  rg := { st.rg with eff := [{ region with budg := 1, wdl := 1 }], budget := [(16, left)], wdc := [(16, 65536)] }
  cores := [(0, { Core.zero with debit := [(16, debit)] })] }
theorem test_budget_met : (effRegion? st 16).isSome = true ∧ st.rg.pre.contains (16, 2) = false ∧ effRegion? st 16 = some region ∧
    (∀ x ∈ ([(4096, 4096), (4097, 8191), (0, 4096)] : List (Int × Nat)),
      ((budgeted x.1 x.2).rg.eff.find? (fun q => q.num == 16)).any (fun q => q.instS == 16 && q.budg != 0) = true ∧
      4096 ≤ kgetD (coreAt (budgeted x.1 x.2) 0).debit 16 0 ∧ kget (budgeted x.1 x.2).rg.budget 16 = some x.1 ∧
      (budgeted x.1 x.2).rg.spent.contains 16 = false) := by decide
theorem test_watchdog_met : let s : State := { budgeted 0 0 with cur := Crew.none }
    ((faultRegions s 16).find? (fun q => q.num == 16)).any (fun d => d.wdl != 0 && decide (d.wdl * 65536 ≤ kgetD s.rg.wdc 16 0)) = true ∧
    (allCrews s).all (fun c => (faultRegions s 16).all fun q => q.num != c.region) = true := by decide
/-- The watchdog's crew is resident still; and a handler's `trap` where the region holds what ends so. -/
theorem test_watchdog_save_met : let s := budgeted 0 0
    ((faultRegions s 16).find? (fun q => q.num == 16)).any (fun d => d.wdl != 0 && decide (d.wdl * 65536 ≤ kgetD s.rg.wdc 16 0)) = true ∧
    ((allCrews s).map fun c => c.cid).Nodup ∧ (allCrews s).any (fun c => (faultRegions s 16).any fun q =>
      c.region == q.num && regionAt? s c.region == some q) = true := by decide
theorem test_end_hold_met : let s : State := { handling .user with launches := [{ launch with st := .running }], rg := { st.rg with eff := [{ region with uend := 2 }] } }
    readyB s (.trap 0) = true ∧ s.cur.cst.lvl ≠ .none ∧ (launchAt? s s.cur.launch).isSome = true ∧
    effRegion? s s.cur.region = some { region with uend := 2 } := by decide


/-- A device that starts, its start count at `n`, with an image. -/
def device (img : List (BitVec 8)) (n : Nat) : State := { st with dev := { st.dev with mode := .starting, fsc := n, image := img } }
/-- The step that fails, whether the image may run or not; no step fails for one that may. -/
theorem test_start_met (img : List (BitVec 8)) : (device img 2).dev.mode = .starting ∧
    (∀ x ∈ ([(1, 2), (4, 2), (5, 2), (7, 2), (1, 3), (3, 3)] : List (BitVec 8 × Nat)),
      let s := device img x.2
      let fail := if imageOk s.dev.image then x.1.toNat else 1
      1 ≤ fail ∧ fail ≤ (if s.dev.fsc = 3 then 3 else 7)) ∧
    (imageOk img = true → ∀ n ∈ [2, 3], (if imageOk (device img n).dev.image then (0 : BitVec 8).toNat else 1) = 0) := by
  refine ⟨rfl, ?_, ?_⟩
  · have e (n : Nat) : (device img n).dev.image = img ∧ (device img n).dev.fsc = n := ⟨rfl, rfl⟩
    simp only [e]
    cases imageOk img <;> simp
  · intro h n _
    exact if_pos h
def lifeState (f : Dev → Dev) : State := { st with dev := f st.dev }
theorem test_restart_met : (lifeState fun d => { d with restartDue := true }).dev.restartDue = true ∧ st.dev.atBsy = false := by decide
/-- A log of two lines with no launch running; and a launch that runs. -/
theorem test_rollback_met : let s := lifeState fun d => { d with undo := [⟨0, 5⟩, ⟨0x10000, 6⟩] }
    s.launches.any (fun l => l.st == .running) = false ∧ canonB s = true ∧
    ({ s with dev := { s.dev with ulBsy := true } } : State).dev.undo.getLast? = some ⟨0x10000, 6⟩ ∧ st.dev.undo = [] ∧ outHeld { s with dev := { s.dev with ulBsy := true } } 0x10000 = false ∧
    (pooling .running true).launches.any (fun l => l.st == .running) = true := by decide
/-- A load of a weight store of no, one and 64 bytes. -/
def weighing (n : Nat) : State := lifeState fun d => { d with wsBsy := true, wssrc := 0x100, wslen := n }
theorem test_weight_load_met : st.dev.wsBsy = false ∧ ∀ n ∈ [0, 1, 64], (weighing n).dev.wsBsy = true ∧ (weighing n).dev.wslen = n ∧
    (weighing n).launches.any (fun l => l.st == .running) = false ∧ stalled (weighing n) 0 = false ∧
    moving (weighing n) (weighing n).dev.wssrc (weighing n).dev.wslen = false ∧
    behindLink (weighing n) .h (weighing n).dev.wssrc (weighing n).dev.wslen = false ∧
    linkHeld (weighing n) .h ⟨.weight ((weighing n).dev.wsdst / 2 ^ 32 % 4), 0⟩ = false ∧ canonB (weighing n) = true ∧
    vaPA? (weighing n) (weighing n).dev.wssrc = some ⟨.sys, 0x100⟩ ∧ badAt (weighing n) ⟨.sys, 0x100⟩ = false := by decide
/-- The first and the last ring's place, and the registers that the statement names. -/
theorem test_host_write_met : st.xl.sdBsy = false ∧ st.dev.retraining.contains 20 = false ∧ ∀ off ∈ [0xC8, 0x100010, 0x100FD0, 0x120008, 0x120030],
    (off < 0x100 ∨ 0x100000 ≤ off) ∧ (off ≠ 0x100010 ∧ off ≠ 0x100FD0 ∨ off % 0x40 = 0x10 ∧ off < 0x101000) := by decide
theorem test_host_access_met : (∀ who ∈ [none, some 0, some 19], st.dev.retraining.contains (who.getD 20) = false) ∧ walkHeld st .h 0x100 = false ∧
    linkHeld st .h ⟨.sys, 0x100⟩ = false ∧ xlateFresh st .write 0x100 = .ok ⟨.sys, 0x100⟩ ⟨true, true, true⟩ ∧ xlateFresh st .read 0x100 = .ok ⟨.sys, 0x100⟩ ⟨true, true, true⟩ := by
  decide

/-! ### Errors and power -/

/-- A running launch; a poisoned lane's crew; a link at rest; power above, within and below the limit. -/
theorem test_error_met : (launchAt? (pooling .running true) 1).any (fun x => x.st == .running) = true ∧ st.cur.alive = true ∧
    st.cur.pair = 0 ∧ st.cur.slot = 0 ∧ 126 < st.cur.vn ∧ (∀ k ∈ [0, 7, 8, 11, 12, 20], st.dev.retraining.contains k = false) ∧
    st.xl.freeFrames = [] ∧ st.xl.plPend = [] := by decide
theorem test_power_met : st.dev.plim = 1800 ∧ st.dev.duty = 16 ∧ st.dev.coolantBad = false ∧
    (1800 < (1801 : BitVec 16).toNat ∧ 4 ≤ st.dev.duty) ∧ 100 * (1709 : BitVec 16).toNat < 95 * 1800 ∧
    95 * 1800 ≤ 100 * (1710 : BitVec 16).toNat ∧ (1800 : BitVec 16).toNat ≤ 1800 ∧
    (lifeState fun d => { d with coolantBad := true }).dev.coolantBad = true := by decide
def refreshing (n : Nat) : State := { st with ctr := { st.ctr with rfph := st.ctr.rfph.set 3 n } }
theorem test_refresh_met : (refreshing 0).ctr.rfph.getD 3 0 / 4096 ≠ 31 ∧ (refreshing (31 * 4096 - 1)).ctr.rfph.getD 3 0 / 4096 ≠ 31 ∧
    (refreshing (31 * 4096)).ctr.rfph.getD 3 0 / 4096 = 31 := by decide
/-- Units at the threshold: the last core, the first row, the last way; a pair whose crews have had 10 ms. -/
def worn (u : Nat) : State := { st with ctr := { st.ctr with wear := [(u, st.ctr.thresholds.getD (unitKind u) 0)] } }
theorem test_remap_met : (∀ u ∈ [191, 408, 2671], u < 2672 ∧ entryUsed (worn u) u = false ∧
      (worn u).ctr.thresholds.getD (unitKind u) 0 ≤ kgetD (worn u).ctr.wear u 0) ∧
    (coreAt (worn 191) 191).inService = true ∧ (coreAt (worn 191) 191).remapping = 0 := by decide
theorem test_force_save_met : let s : State := { st with cores := [(0, { Core.zero with remapping := 1, remapAge := 14000000 })] }
    (coreAt s 0).remapping ≠ 0 ∧ 14000000 ≤ (coreAt s 0).remapAge ∧ ((allCrews s).map fun c => c.cid).Nodup := by decide

/-! ### Rendering -/

/-- A camera block of 33 rows of one pixel (two buckets of 32 rows), with the resolve bit or without. -/
def lensMem (rcr : Bool) : Mem := [(0x2000, 5), (0x2002, if rcr then 6 else 4), (0x2004, 1), (0x2006, 33), (0x2008, 1), (0x2022, 0x80),
  (0x2023, 0x3F), (0x202A, 0x80), (0x202B, 0x3F), (0x202E, 0x80), (0x202F, 0x3F), (0x2038, 8), (0x204A, 1)]
def lens (rcr : Bool) : List Byte := (List.range 128).map fun i => (lensMem rcr).read (0x2000 + i)
/-- A patch at 0x3000 whose points all lie at a depth of 2. -/
def patchMem : Mem := (List.range 32).map fun i => (0x3000 + 0x20 + 12 * i + 11, 0x40)
def patch : List Byte := (List.range 416).map fun i => patchMem.read (0x3000 + i)
def renderLaunch (l : LState) (n : Nat) : Launch := { launch with
  st := l, lr := { (default : LRec) with lfl := 1, regn := 16, param := 0x2000, blks := n, qtb := 0x3000 } }
def drawing (l : LState) (n : Nat) (m : Mem) (r : List Render) : State := { State.reset with
  nextId := 100, loc := pages, sys := m, launches := [renderLaunch l n], renders := r
  xl := { Xlate.zero with ptrt := 0x1000 }, rg := { Regions.zero with eff := [region] } }

theorem test_lens_met : camOk (lens false) = true ∧ camOk (lens true) = true ∧ camOk (List.replicate 128 0) = false ∧
    (Cam.ofBytes (lens false)).count = 2 ∧ (Cam.ofBytes (lens false)).slices = 1 := by decide
theorem drawing_mapped (l : LState) (n : Nat) (m : Mem) (r : List Render) : Mapped (drawing l n m r) := ⟨rfl, rfl, rfl⟩
theorem test_render_start_met (good : Bool) : let s := drawing .pool 1 (if good then lensMem false else []) []
    s.launches.all (fun l => startTurn s l && l.lr.render && !paramWaits s l) = true ∧ stalled s 1 = false ∧ s.xl.shadows = [] ∧
    unitRead s .h 1 0x2000 128 false = .bytes (if good then lens false else List.replicate 128 0) s := by
  refine ⟨by cases good <;> decide, rfl, rfl, ?_⟩
  rw [mapped_unit (drawing_mapped .pool 1 (if good then lensMem false else []) []) rfl (by decide)]
  cases good <;> rfl

/-- Two dies of four units each, with the references that unit 0 has for die 0. -/
def binning (next : Nat) (q : List (Nat × Nat × Nat)) : Render := { (default : Render) with
  lid := 1, cam := lens false, units := (List.range 8).map fun u => (u, if u = 0 then next else 8)
  queues := [(0, 0, q)], deques := [(0, [0]), (1, [1])] }
theorem test_bin_met : let s (n : Nat) := drawing .running n patchMem [binning 0 []]
    (∀ n ∈ [0, 1], render? (s n) 1 = some (binning 0 []) ∧ stalled (s n) 1 = false ∧ launchAt? (s n) 1 = some (renderLaunch .running n)) ∧
    (binning 0 []).full 0 = false ∧ (binning 0 []).units.find? (fun x => x.1 == 0) = some (0, 0) ∧ (binning 0 []).cut (s 0) 0 1 = false ∧
    ((binning 0 []).deques.map fun y => y.1).Nodup := by decide
/-- A patch that may be binned, and one with a reserved field not 0. -/
theorem test_patch_met : ∀ x ∈ [patchMem, patchMem ++ [(0x3008, 1)]], let s := drawing .running 1 x [binning 0 []]
    unitRead s (.v 0) 1 0x3000 416 false = .bytes ((List.range 416).map fun i => x.read (0x3000 + i)) s :=
  fun x _ => mapped_unit (drawing_mapped _ _ x _) rfl (by decide) (.v 0) 1
theorem test_patch_kinds_met : (pieceOf 0 patch).isSome = true ∧
    pieceOf 0 ((List.range 416).map fun i => (patchMem ++ [(0x3008, 1)]).read (0x3000 + i)) = none := by decide
/-- Whatever buckets a patch meets, the spill areas hold its references. -/
theorem test_hits_met (b : Bound) (k : Nat) : 4 * ((bucketsOf (Cam.ofBytes (lens false)) b).filter fun j =>
    (binning 0 []).owner (Cam.ofBytes (lens false)) j == k).length ≤ (Cam.ofBytes (lens false)).spsz := by
  have h : (bucketsOf (Cam.ofBytes (lens false)) b).length ≤ 2 := by
    exact Nat.le_trans (List.length_filter_le ..) (Nat.le_of_eq (List.length_range.trans test_lens_met.2.2.2.1))
  have g : (Cam.ofBytes (lens false)).spsz = 65536 := by decide
  have := List.length_filter_le (fun j => (binning 0 []).owner (Cam.ofBytes (lens false)) j == k) (bucketsOf (Cam.ofBytes (lens false)) b)
  omega
/-- Two references of patch 0 and one of patch 1 in the queue of unit 0 to die 0. -/
theorem test_merge_met : let r := binning 8 [(0, 0, 0), (0, 1, 4), (1, 0, 8)]
    let s := drawing .running 2 [] [r]
    renderGoes s 1 = some r ∧ leastPatch s r 0 = some (0, 0) ∧
    (((r.queue 0 0).filter fun x => x.1 == 0).map fun x => (x.2.1, (Cam.ofBytes r.cam).part 0 + x.2.2)).all (fun x =>
      !moving s x.2 4 && !unitWaits s (.v 0) 1 x.2 4) = true := by decide

/-- All binned: die 0 starts its bucket, or die 1, with none, steals the last of two, the bucket memory as full as it may be. -/
def binned (a b : List Nat) (n : Nat) : Render := { binning 8 [] with
  closed := (List.range 8).flatMap fun u => [(u, 0), (u, 1)], deques := [(0, a), (1, b)]
  flight := List.replicate n { (default : Bucket) with bix := 9, die := 1 } }
theorem test_bucket_start_met : ∀ x ∈ ([(binned [1] [0] 15, 1), (binned [0, 1] [] 15, 1)] : List (Render × Nat)),
    let s := drawing .running 1 [] [x.1]
    renderGoes s 1 = some x.1 ∧ x.1.ready 0 = true ∧ x.1.ready 1 = true ∧ slicesUsed s x.2 + 1 ≤ 16 := by decide
theorem test_steal_met : kget (binned [0, 1] [] 15).deques 1 = some [] ∧ fullest (binned [0, 1] [] 15) = some (0, [0, 1]) ∧
    [0, 1].getLast? = some 1 ∧ kgetD (binned [1] [0] 15).deques 1 [] = [0] := by decide

/-- A piece at a depth of division, at the camera or away from it. -/
def piece (depth z : Nat) : Piece := { (default : Piece) with
  depth := depth, open_ := List.replicate 16 (0, 0, z), close_ := List.replicate 16 (0, 0, z) }
theorem test_dice_met : diceOf (Cam.ofBytes (lens false)) (piece 9 0) = .split ∧ diceOf (Cam.ofBytes (lens false)) (piece 10 0) = .cull ∧
    diceOf (Cam.ofBytes (lens false)) (piece 0 0x40000000) = .grid 1 1 ∧ (gridOf (piece 0 0x40000000) 0 1 1).bytes = 512 := by decide
/-- A bucket in flight on die 0: the second bucket, which has one pixel. -/
def filling (x : Bucket) : Bucket := { x with bix := 1, share := 512 }
def fillingIn (rcr : Bool) (x : Bucket) : State :=
  drawing .running 1 patchMem [{ binned [] [] 0 with cam := lens rcr, flight := [filling x] }]
def gridIn (g : GridSt) : Grid := { grid with st := g }
theorem test_bucket_met : ∀ x ∈ ([{ (default : Bucket) with pieces := [piece 9 0] }, { (default : Bucket) with refs := [0] },
      { (default : Bucket) with grids := [gridIn (.shading 5)] }, { (default : Bucket) with grids := [gridIn .passed] }, default,
      { (default : Bucket) with pixel := 1 }] : List Bucket),
    (renderGoes (fillingIn false x) 1).isSome = true ∧ bucket? (fillingIn false x) 1 1 = some (filling x) ∧
    blockDone (fillingIn false x) 5 = true ∧ (x.grids.map fun g => g.num).Nodup := by decide
/-- A passed grid that no link keeps waiting, in a slice or spilled. -/
theorem test_grid_links_met : ∀ a ∈ [none, some 0x100], let g : Grid := { gridIn .passed with spilled := a }
    gridHeld (fillingIn false { (default : Bucket) with grids := [g] }) (.v 0) g = false := by decide
/-- The first reference of the list, patch 0, and that patch. -/
theorem test_reference_met : let s := fillingIn false { (default : Bucket) with refs := [0] }
    unitRead s (.v 0) 1 0 4 false = .bytes [0, 0, 0, 0] s ∧ leNat [0, 0, 0, 0] = 0 ∧ unitRead s (.v 0) 1 0x3000 416 false = .bytes patch s ∧
    MemoriesCanonical s := by
  have p := drawing_mapped .running 1 patchMem [{ binned [] [] 0 with cam := lens false, flight := [filling { (default : Bucket) with refs := [0] }] }]
  refine ⟨?_, rfl, ?_, canon_of (by decide)⟩
  · refine (mapped_unit p rfl (by decide) _ _).trans ?_
    rfl
  · exact mapped_unit p rfl (by decide) _ _
theorem test_resolve_pixels_met : let c := Cam.ofBytes (lens false)
    (filling default).sampled = true ∧ c.rcr = false ∧ (bucketPixels c 1).drop 1 = [] ∧ (bucketPixels c 1).drop 0 = [(0, 0, 32)] ∧
    xlateFresh (fillingIn false default) .write (c.img + 32 * c.pitch + 0 * c.size) = .ok ⟨.sys, 256⟩ ⟨true, true, true⟩ ∧
    linkHeld (fillingIn false default) (.v 0) ⟨.sys, 256⟩ = false ∧ canonB (fillingIn false default) = true ∧
    claimMoves (fillingIn false default) 1 ⟨.sys, 256⟩ = false := by decide
/-- The same of a launch that cannot be replayed. -/
theorem test_resolve_irrevocable_met : let c := Cam.ofBytes (lens false)
    let s : State := { fillingIn false default with launches := [{ renderLaunch .running 1 with irrev := true }] }
    (launchAt? s 1).all (fun l => l.irrev) = true ∧ (renderGoes s 1).isSome = true ∧
    ((bucketPixels c 1).drop 0).all (fun y => (match xlateFresh s .write (c.img + y.2.2 * c.pitch + y.2.1 * c.size) with
      | .ok pa _ => pa.sp == .sys && !linkHeld s (.v 0) pa
      | _ => false)) = true := by decide
/-- A grid of 33 vertices to be shaded, and pixels to be resolved, with a core to place them on. -/
theorem test_render_place_met : ((nextPlace (fillingIn false { (default : Bucket) with grids := [gridIn .diced] })).any fun x =>
      (match x.1 with | .render l die b g n => l.lid == 1 && die == 0 && b == 1 && g == some 3 && n == 1 | _ => false)) = true ∧
    ((nextPlace (fillingIn true default)).any fun x =>
      (match x.1 with | .render l _ b g _ => l.lid == 1 && b == 1 && g == none | _ => false)) = true := by decide

/-! ### A step -/

/-- An issue turn of a crew at a word, whose fragment's turn it is. -/
def issuing (w : BitVec 32) (c : State) : State := { c with
  agenda := [.issue 0 0], dev := { c.dev with duty := 16 }, cur := { c.cur with ibuf := [(0x1000, w)] }
  cores := [(0, { Core.zero with quarters := Core.zero.quarters.set 0 { Core.zero.quarters[0] with turn := some (1, 1) } })] }
/-- The quarter as its turn finds it: without a run that cannot go on. -/
def turnState (s : State) : State := releaseTurn (modQuarter { s with agenda := [] } 0 0 fun k => { k with duty := Duty.zero }) 0 0
/-- What the turn meets: the choice, the fragment, no PREEMPT owed, the word's instruction, whether it is held. -/
def turnMeets (s : State) : Option (Bool × Bool × Option Instr × Bool) :=
  let s1 := turnState s
  (pick s1 0 0).bind fun x => ((focus s1 0 x.1.slot).bind fun t => focusFrag t x.2.fid).map fun u =>
    let w := ((kget u.cur.ibuf u.cur.fr.pc.toNat).getD 0).toNat
    let a := { modFr (modQuarter u 0 0 fun k => { k with promo := k.promo.filter fun t => t != nameOf x })
      (fun f => { f with passed := 0 }) with ir := w }
    ((quarterAt s1 0 0).busy == 0, owed a, (match decode w with | .ok i => some i | _ => none), (match decode w with | .ok i => held a i | _ => false))
theorem test_turn_met : turnMeets (issuing 0x10000000 st) = some (true, false, some .nop, false) ∧
    (pick (turnState (issuing 0x84085000 waitingLoad)) 0 0).isNone = true ∧
    (quarterAt (turnState (issuing 0x84085000 waitingLoad)) 0 0).busy = 0 := by decide
/-- A quarter at full duty, and one whose duty its cycle does not reach; a crew to pick, and none. -/
theorem test_duty_met : 16 ≤ (issuing 0x10000000 st).dev.duty ∧
    (∀ x ∈ ([(Duty.zero, 4), (⟨8, 2⟩, 4), (Duty.zero, 15)] : List (Duty × Nat)), x.1.credit + x.2 < 16 ∧ x.1.capped < 3) ∧
    (pick (issuing 0x10000000 st) 0 0).isSome = true ∧ (pick { issuing 0x10000000 st with cur := Crew.none } 0 0).isSome = false := by decide
/-- A state whose memories hold bytes, and its step. -/
theorem test_canonical_met : MemoriesCanonical (issuing 0x10000000 st) ∧
    (match step (issuing 0x10000000 st) with | .next _ => true | _ => false) = true := by
  exact ⟨⟨by decide, by decide, by decide, by decide, by decide, by decide, by decide⟩, by decide⟩
theorem test_encode_met : Instr.wf (.caddImm 5 5 1000) = true ∧ encode (.caddImm 5 5 1000) = some 0x205143E8 ∧
    decodeTableWord 32 0x205143E8 = some (.caddImm 5 5 1000) := by decide

end Sys2Proof.Tests
end

section
/-! SUPPORT. Reading a word's fields back, and the decoder on them (R37, R44 to R50). -/

namespace Sys2Proof

/-! ## The word of fields within their widths, read back (R37) -/

/-- What the bits of a word say when it holds the given fields (R37). -/
def Fields.ReadFrom (w : Nat) : Fields → Prop
  | .fmtV maj d a b et =>
    w / 2 ^ 26 % 64 = maj ∧ w / 2 ^ 19 % 128 = d ∧ w / 2 ^ 12 % 128 = a ∧ srcOf w = b ∧ w % 8 = et
  | .fmtVS maj d a b sub =>
    w / 2 ^ 26 % 64 = maj ∧ w / 2 ^ 19 % 128 = d ∧ w / 2 ^ 12 % 128 = a ∧ w / 2 ^ 5 % 128 = b ∧ w % 32 = sub
  | .fmtC maj d a b sub =>
    w / 2 ^ 26 % 64 = maj ∧ w / 2 ^ 20 % 64 = d ∧ w / 2 ^ 14 % 64 = a ∧ w / 2 ^ 8 % 64 = b ∧ w % 256 = sub
  | .fmtCI maj d a imm =>
    w / 2 ^ 26 % 64 = maj ∧ w / 2 ^ 20 % 64 = d ∧ w / 2 ^ 14 % 64 = a ∧ w % 2 ^ 14 = imm
  | .fmtA maj d a c b sub =>
    w / 2 ^ 26 % 64 = maj ∧ w / 2 ^ 21 % 32 = d ∧ w / 2 ^ 16 % 32 = a ∧ w / 2 ^ 10 % 64 = c ∧ w / 2 ^ 5 % 32 = b ∧
      w % 32 = sub
  | .fmtM maj d m z =>
    w / 2 ^ 26 % 64 = maj ∧ w / 2 ^ 19 % 128 = d ∧ (∀ b, mopOf w b = { m with scaled := b }) ∧ w % 32 = z
  | .fmtB maj t cond off =>
    w / 2 ^ 26 % 64 = maj ∧ w / 2 ^ 20 % 64 = t ∧ w / 2 ^ 18 % 4 = cond ∧ w % 2 ^ 18 = off
  | .fmtBV maj k off => w / 2 ^ 26 % 64 = maj ∧ w / 2 ^ 23 % 8 = k ∧ w % 2 ^ 23 = off
  | .fmtX maj t a b shape kind =>
    w / 2 ^ 26 % 64 = maj ∧ w / 2 ^ 21 % 32 = t ∧ w / 2 ^ 15 % 64 = a ∧ w / 2 ^ 9 % 64 = b ∧ w / 2 ^ 4 % 32 = shape ∧
      w % 16 = kind
  | .fmtS maj c sel => w / 2 ^ 26 % 64 = maj ∧ w / 2 ^ 20 % 64 = c ∧ w / 2 ^ 10 % 1024 = sel
  | .fmtH hk p => w / 2 ^ 26 % 64 = 0x3F ∧ w / 2 ^ 24 % 4 = hk ∧ w % 2 ^ 24 = p

theorem mod_eq_of_dvd {x k j n : Nat} (h : x % k = n) (hj : j ∣ k) (hn : n < j) : x % j = n := by
  rw [← Nat.mod_mod_of_dvd x hj, h, Nat.mod_eq_of_lt hn]

section Operands
variable {w lo k : Nat}

/-! A register or number whose field, or the low part of it, is given. -/

theorem creg_eq {r : CReg} (h : w / 2 ^ lo % k = r.val) (hk : 64 ∣ k := by decide) : creg w lo = r :=
  Fin.ext (mod_eq_of_dvd h hk r.isLt)
theorem vreg_eq {r : VReg} (h : w / 2 ^ lo % k = r.val) (hk : 128 ∣ k := by decide) : vreg w lo = r :=
  Fin.ext (mod_eq_of_dvd h hk r.isLt)
theorem areg_eq {r : Fin 32} (h : w / 2 ^ lo % k = r.val) (hk : 32 ∣ k := by decide) : areg w lo = r :=
  Fin.ext (mod_eq_of_dvd h hk r.isLt)
theorem mreg_eq {r : MReg} (h : w / 2 ^ lo % k = r.val) (hk : 8 ∣ k := by decide) : mreg w lo = r :=
  Fin.ext (mod_eq_of_dvd h hk r.isLt)
theorem bit1_eq {r : Bit1} (h : w / 2 ^ lo % k = r.val) (hk : 2 ∣ k := by decide) : bit1 w lo = r :=
  Fin.ext (mod_eq_of_dvd h hk r.isLt)
theorem ofNat_low_eq {n : Nat} {v : BitVec n} (h : w % 2 ^ n = v.toNat) : BitVec.ofNat n (w / 2 ^ 0) = v := by
  apply BitVec.eq_of_toNat_eq
  rw [BitVec.toNat_ofNat, Nat.pow_zero, Nat.div_one, h]
end Operands

/-- The nine bits `BF`, `B` of a word give the second source (R39). -/
theorem srcOf_eq {w : Nat} {b : Src} (h : w / 2 ^ 3 % 2 ^ 9 = b.bits / 2 ^ 3) : srcOf w = b := by
  have hv : w / 2 ^ 10 % 4 = w / 2 ^ 3 % 2 ^ 9 / 2 ^ 7 := by omega
  have hr : w / 2 ^ 3 % 128 = w / 2 ^ 3 % 2 ^ 9 % 128 := by omega
  rw [h] at hv hr
  cases b with
  | v r =>
    have hf : w / 2 ^ 10 % 4 = 0 := by simp only [Src.bits] at hv; omega
    have hx : w / 2 ^ 3 % 128 = r.val := by simp only [Src.bits] at hr; omega
    simp only [srcOf, hf, vreg_eq hx]
  | c r =>
    have hf : w / 2 ^ 10 % 4 = 1 := by simp only [Src.bits] at hv; omega
    have hx : w / 2 ^ 3 % 128 = r.val := by simp only [Src.bits] at hr; omega
    simp only [srcOf, hf, creg_eq hx]
  | a r =>
    have hf : w / 2 ^ 10 % 4 = 2 := by simp only [Src.bits] at hv; omega
    have hx : w / 2 ^ 3 % 128 = r.val := by simp only [Src.bits] at hr; omega
    simp only [srcOf, hf, areg_eq hx]
  | imm v =>
    have hf : w / 2 ^ 10 % 4 = 3 := by simp only [Src.bits] at hv; omega
    have hx : w / 2 ^ 3 % 128 = v.toNat := by simp only [Src.bits] at hr; omega
    have hi : BitVec.ofNat 7 (w / 2 ^ 3) = v := BitVec.eq_of_toNat_eq hx
    simp only [srcOf, hf, hi]

theorem bitAt_eq {w lo : Nat} {b : Bool} (h : w / 2 ^ lo % 2 = b.toNat) : bitAt w lo = b := by
  cases b <;> simp [bitAt, h]

/-- `BASE` and the eight bits `IDX`, `IF` of a word give the memory operand (R47). -/
theorem mopOf_eq {w : Nat} {m : MOp} (hb : w / 2 ^ 13 % 64 = m.base.val) (hi : w / 2 ^ 5 % 2 ^ 8 = m.idx.bits / 2 ^ 5)
    (sc : Bool) : mopOf w sc = { m with scaled := sc } := by
  have hv : w / 2 ^ 5 % 2 = w / 2 ^ 5 % 2 ^ 8 % 2 := by omega
  have hr : w / 2 ^ 6 % 128 = w / 2 ^ 5 % 2 ^ 8 / 2 := by omega
  rw [hi] at hv hr
  obtain ⟨base, idx, _⟩ := m
  cases idx with
  | a r =>
    have hf : bitAt w 5 = false := bitAt_eq (by simp only [Idx.bits, Bool.toNat_false] at *; omega)
    have hx : w / 2 ^ 6 % 128 = r.val := by simp only [Idx.bits] at hr; omega
    simp [mopOf, hf, creg_eq hb, areg_eq hx]
  | v r =>
    have hf : bitAt w 5 = true := bitAt_eq (by simp only [Idx.bits, Bool.toNat_true] at *; omega)
    have hx : w / 2 ^ 6 % 128 = r.val := by simp only [Idx.bits] at hr; omega
    simp [mopOf, hf, creg_eq hb, vreg_eq hx]

/-- The word of fields within their widths holds them (R37). -/
theorem Fields.word_readFrom {f : Fields} (h : f.Fits) : f.ReadFrom f.word := by
  cases f with
  | fmtV maj d a b et =>
    have hb := b.bits_lt
    have h8 : b.bits % 2 ^ 3 = 0 := by cases b <;> simp only [Src.bits] <;> omega
    simp only [Fields.Fits, Fields.word, Fields.ReadFrom] at *
    have hs : (maj * 2 ^ 26 + d * 2 ^ 19 + a * 2 ^ 12 + b.bits + et) / 2 ^ 3 % 2 ^ 9 = b.bits / 2 ^ 3 := by omega
    exact ⟨by omega, by omega, by omega, srcOf_eq hs, by omega⟩
  | fmtM maj d m z =>
    have hm := m.base.isLt
    have hi := m.idx.bits_lt
    have h32 : m.idx.bits % 2 ^ 5 = 0 := by cases m.idx <;> simp only [Idx.bits] <;> omega
    simp only [Fields.Fits, Fields.word, Fields.ReadFrom] at *
    exact ⟨by omega, by omega, mopOf_eq (by omega) (by omega), by omega⟩
  | _ => simp only [Fields.Fits, Fields.word, Fields.ReadFrom] at *; omega

/-! ## Codes (R40, R46, R47, R66) -/

theorem IntTy.ofLow_code (t : IntTy) : IntTy.ofLow t.code = t := by cases t <;> rfl
theorem FltTy.ofLow_low (t : FltTy) : FltTy.ofLow t.low = t := by cases t <;> rfl
theorem ElTy.ofCode_code (t : ElTy) : ElTy.ofCode t.code = t := by
  cases t with
  | int t => cases t <;> rfl
  | flt t => cases t <;> rfl
theorem Size.ofCode_code (z : Size) : Size.ofCode z.code = z := by cases z <;> rfl
theorem Rel.ofCode_code (r : Rel) : Rel.ofCode r.code = r := by cases r <;> rfl
theorem RedOp.ofCode_code (o : RedOp) : RedOp.ofCode o.code = o := by cases o <;> rfl
theorem MaskSel.ofCode_code (m : MaskSel) : MaskSel.ofCode m.code = m := by
  cases m with
  | m k => simp [MaskSel.ofCode, MaskSel.code]
  | xm => rfl
  | lm => rfl
theorem SReg.ofSelector_selector (r : SReg) : SReg.ofSelector r.selector = some r := by
  cases r with
  | pme n => revert n; decide
  | pmc n => revert n; decide
  | _ => rfl
theorem SReg.selector_inj {r q : SReg} (h : r.selector = q.selector) : r = q :=
  Option.some.inj (by rw [← r.ofSelector_selector, h, q.ofSelector_selector])

/-- The fields of every instruction that has a word are within their widths. -/
theorem Instr.fields_fit {i : Instr} {f : Fields} (h : i.fields = some f) : f.Fits := by
  cases i with
  | sread _ r | swrite _ r =>
    cases h
    have := r.selector_lt
    simp only [Fields.Fits]; omega
  | vadd _ _ _ t | fadd _ _ _ t | vsub _ _ _ t | fsub _ _ _ t | vmul _ _ _ t | fmul _ _ _ t | vmulh _ _ _ t
  | vmad _ _ _ t | ffma _ _ _ t | vand _ _ _ t | vor _ _ _ t | vxor _ _ _ t | vshl _ _ _ t | vshr _ _ _ t | vsar _ _ _ t
  | vmin _ _ _ t | fmin _ _ _ t | vminu _ _ _ t | vmax _ _ _ t | fmax _ _ _ t | vmaxu _ _ _ t
  | vnot _ _ t | vabs _ _ t | vneg _ _ t | vpopc _ _ t | fabs _ _ t | fneg _ _ t | frnd _ _ t | fclass _ _ t
  | vcmpLtu _ _ _ t | fcmpUo _ _ _ t | vcmpLeu _ _ _ t | vclz _ _ t
  | frcp _ _ t | frsq _ _ t | fsqrt _ _ t | fexp2 _ _ t | flog2 _ _ t | fsin _ _ t | fcos _ _ t
  | cvn _ _ t _ | cvw _ _ t _ =>
    cases h
    have := t.code_lt
    simp only [Fields.Fits]; omega
  | vcmp _ _ _ r t | fcmp _ _ _ r t | cvt _ _ r t | rdc _ _ r t | scan _ _ r t =>
    cases h
    have := r.code_lt
    have := t.code_lt
    simp only [Fields.Fits]; omega
  | mmov d a | mnot d a | mfirst d a =>
    cases h
    have := d.code_lt
    have := a.code_lt
    simp only [Fields.Fits]; omega
  | mand d a b | mor d a b | mxor d a b =>
    cases h
    have := d.code_lt
    have := a.code_lt
    have := b.code_lt
    simp only [Fields.Fits]; omega
  | mpop _ a =>
    cases h
    have := a.code_lt
    simp only [Fields.Fits]; omega
  | ld _ m z x | lds _ m z x | ldc _ m z x | pacq _ m z x =>
    cases h
    have := msz_lt z x m.scaled
    simp only [Fields.Fits]; omega
  | st _ m z | sts _ m z | pref m z =>
    cases h
    have := msz_lt z false m.scaled
    simp only [Fields.Fits]; omega
  | atomAdd _ _ w | atomAnd _ _ w | atomOr _ _ w | atomXor _ _ w | atomMin _ _ w | atomMax _ _ w | atomMinu _ _ w
  | atomMaxu _ _ w | atomExch _ _ w | atomFadd _ _ w | atomFmin _ _ w | atomFmax _ _ w | cas _ _ w =>
    cases h
    have := w.toNat_lt
    simp only [Fields.Fits, asz]; omega
  | _ => cases h <;> simp only [Fields.Fits] <;> omega

/-! ## Fields that hold codes -/

section
variable {w : Nat}

theorem intTy_of_mod {t : IntTy} (h : w % 8 = t.code) : bitAt w 2 = false ∧ IntTy.ofLow (w / 2 ^ 0 % 4) = t := by
  have ht := t.code_lt
  have h4 : w / 2 ^ 0 % 4 = t.code := by omega
  exact ⟨bitAt_eq (by simp only [Bool.toNat_false]; omega), by rw [h4, t.ofLow_code]⟩

theorem fltTy_of_mod {t : FltTy} (h : w % 8 = t.code) : bitAt w 2 = true ∧ FltTy.ofLow (w / 2 ^ 0 % 4) = t := by
  have ht := t.low_lt
  rw [FltTy.code] at h
  have h4 : w / 2 ^ 0 % 4 = t.low := by omega
  exact ⟨bitAt_eq (by simp only [Bool.toNat_true]; omega), by rw [h4, t.ofLow_low]⟩

theorem fltTy_ofLow_mod {t : FltTy} {lo : Nat} (h : w / 2 ^ lo % 128 = t.code) : FltTy.ofLow (w / 2 ^ lo % 4) = t := by
  have ht := t.low_lt
  rw [FltTy.code] at h
  have h4 : w / 2 ^ lo % 4 = t.low := by omega
  rw [h4, t.ofLow_low]

theorem elTy_ofCode_mod {t : ElTy} {lo k : Nat} (h : w / 2 ^ lo % k = t.code) (hk : 8 ∣ k := by decide) :
    ElTy.ofCode (w / 2 ^ lo % 8) = t := by
  rw [mod_eq_of_dvd h hk t.code_lt, t.ofCode_code]

theorem maskSel_of_mod {m : MaskSel} {lo : Nat} (h : w / 2 ^ lo % 128 = m.code) :
    MaskSel.ofCode (w / 2 ^ lo % 16) = m := by
  rw [mod_eq_of_dvd h (by decide) (Nat.lt_trans m.code_lt (by decide)), m.ofCode_code]

theorem msz_read {z : Size} {x s : Bool} (h : w % 32 = msz z x s) :
    bitAt w 0 = s ∧ bitAt w 1 = x ∧ Size.ofCode (w / 2 ^ 2 % 8) = z := by
  have hz := z.code_lt
  have hx := x.toNat_lt
  have hs := s.toNat_lt
  rw [msz] at h
  have hc : w / 2 ^ 2 % 8 = z.code := by omega
  exact ⟨bitAt_eq (by omega), bitAt_eq (by omega), by rw [hc, z.ofCode_code]⟩

theorem asz_read {x : Bool} {op : Nat} (h : w % 32 = asz x op) (ho : op < 16) : bitAt w 4 = x ∧ w % 16 = op := by
  have hx := x.toNat_lt
  rw [asz] at h
  exact ⟨bitAt_eq (by omega), by omega⟩

theorem shape_eq {s : Shape} (h : w / 2 ^ 4 % 32 = s.val) : Fin.ofNat 27 (w / 2 ^ 4 % 32) = s :=
  Fin.ext (by rw [h]; exact Nat.mod_eq_of_lt s.isLt)
theorem shape2_eq {s : Shape2} (h : w / 2 ^ 4 % 32 = 3 * s.val) : Fin.ofNat 9 (w / 2 ^ 4 % 32 / 3) = s :=
  Fin.ext (by rw [h, Nat.mul_div_cancel_left _ (by decide)]; exact Nat.mod_eq_of_lt s.isLt)

/-! The majors that hold several rows. -/

theorem decodeOp_eq_dec01 (h : w / 2 ^ 26 % 64 = 0x01) : decodeOp w = dec01 w := by rw [decodeOp, h]; rfl
theorem decodeOp_eq_dec04 (h : w / 2 ^ 26 % 64 = 0x04) : decodeOp w = dec04 w := by rw [decodeOp, h]; rfl
theorem decodeOp_eq_dec06 (h : w / 2 ^ 26 % 64 = 0x06) : decodeOp w = dec06 w := by rw [decodeOp, h]; rfl
theorem decodeOp_eq_dec07 (h : w / 2 ^ 26 % 64 = 0x07) : decodeOp w = dec07 w := by rw [decodeOp, h]; rfl
theorem decodeOp_eq_dec0A (h : w / 2 ^ 26 % 64 = 0x0A) : decodeOp w = dec0A w := by rw [decodeOp, h]; rfl
theorem decodeOp_eq_dec0B (h : w / 2 ^ 26 % 64 = 0x0B) : decodeOp w = dec0B w := by rw [decodeOp, h]; rfl
theorem decodeOp_eq_dec0C (h : w / 2 ^ 26 % 64 = 0x0C) : decodeOp w = dec0C w := by rw [decodeOp, h]; rfl
theorem decodeOp_eq_dec0D (h : w / 2 ^ 26 % 64 = 0x0D) : decodeOp w = dec0D w := by rw [decodeOp, h]; rfl
theorem decodeOp_eq_dec0E (h : w / 2 ^ 26 % 64 = 0x0E) : decodeOp w = dec0E w := by rw [decodeOp, h]; rfl
theorem decodeOp_eq_dec0F (h : w / 2 ^ 26 % 64 = 0x0F) : decodeOp w = dec0F w := by rw [decodeOp, h]; rfl
theorem decodeOp_eq_dec21 (h : w / 2 ^ 26 % 64 = 0x21) : decodeOp w = dec21 w := by rw [decodeOp, h]; rfl
theorem decodeOp_eq_dec23 (h : w / 2 ^ 26 % 64 = 0x23) : decodeOp w = dec23 w := by rw [decodeOp, h]; rfl
theorem decodeOp_eq_dec26 (h : w / 2 ^ 26 % 64 = 0x26) : decodeOp w = dec26 w := by rw [decodeOp, h]; rfl
theorem decodeOp_eq_dec28 (h : w / 2 ^ 26 % 64 = 0x28) : decodeOp w = dec28 w := by rw [decodeOp, h]; rfl
theorem decodeOp_eq_dec2D (h : w / 2 ^ 26 % 64 = 0x2D) : decodeOp w = dec2D w := by rw [decodeOp, h]; rfl
theorem decodeOp_eq_dec2E (h : w / 2 ^ 26 % 64 = 0x2E) : decodeOp w = dec2E w := by rw [decodeOp, h]; rfl
theorem decodeOp_eq_dec31 (h : w / 2 ^ 26 % 64 = 0x31) : decodeOp w = dec31 w := by rw [decodeOp, h]; rfl
theorem decodeOp_eq_dec37 (h : w / 2 ^ 26 % 64 = 0x37) : decodeOp w = dec37 w := by rw [decodeOp, h]; rfl
theorem decodeOp_eq_dec3B (h : w / 2 ^ 26 % 64 = 0x3B) : decodeOp w = dec3B w := by rw [decodeOp, h]; rfl
theorem decodeOp_eq_dec3C (h : w / 2 ^ 26 % 64 = 0x3C) : decodeOp w = dec3C w := by rw [decodeOp, h]; rfl
theorem decodeOp_eq_dec3D (h : w / 2 ^ 26 % 64 = 0x3D) : decodeOp w = dec3D w := by rw [decodeOp, h]; rfl
theorem decodeOp_eq_dec3E (h : w / 2 ^ 26 % 64 = 0x3E) : decodeOp w = dec3E w := by rw [decodeOp, h]; rfl
theorem decodeOp_eq_dec3F (h : w / 2 ^ 26 % 64 = 0x3F) : decodeOp w = dec3F w := by rw [decodeOp, h]; rfl

/-- A writable register's `swrite` is not one of the two selectors with rows of their own. -/
theorem dec06_swrite {r : SReg} (h : w / 2 ^ 10 % 1024 = r.selector) (hr : r.writable = true) :
    dec06 w = some (.swrite (creg w 20) r) := by
  unfold dec06
  split
  case h_1 hsel =>
    obtain rfl : r = .mcfg := SReg.selector_inj (h.symm.trans hsel)
    cases hr
  case h_2 hsel =>
    obtain rfl : r = .ftmap := SReg.selector_inj (h.symm.trans hsel)
    cases hr
  case h_3 => rw [h, r.ofSelector_selector]; rfl

/-! ### The decoder, format by format

Of the instructions of one format, those of a major read the same operand fields; what is left of the word is the number that
picks the row. `fmtVS` is cut in two at major 0x28. -/

theorem decodeOp_of_fmtB {i : Instr} {maj t cond off : Nat}
    (hf : i.fields = some (.fmtB maj t cond off)) (hr : (Fields.fmtB maj t cond off).ReadFrom w) : decodeOp w = some i := by
  cases i with
  | br o =>
    cases hf
    obtain ⟨hm, -, hc, ho⟩ := hr
    simp only [decodeOp_eq_dec01 hm, dec01, ↓hc, ↓ofNat_low_eq ho]
  | brcZ t o | brcNz t o | brcNeg t o =>
    cases hf
    obtain ⟨hm, ht, hc, ho⟩ := hr
    simp only [decodeOp_eq_dec01 hm, dec01, ↓hc, creg_eq ht, ↓ofNat_low_eq ho]
  | call l o =>
    cases hf
    obtain ⟨hm, ht, hc, ho⟩ := hr
    simp only [decodeOp, ↓hm, creg_eq ht, ↓ofNat_low_eq ho]
  | _ => cases hf

theorem decodeOp_of_fmtBV {i : Instr} {maj k off : Nat}
    (hf : i.fields = some (.fmtBV maj k off)) (hr : (Fields.fmtBV maj k off).ReadFrom w) : decodeOp w = some i := by
  cases i with
  | brv m o =>
    cases hf
    obtain ⟨hm, hk, ho⟩ := hr
    simp only [decodeOp, ↓hm, mreg_eq hk, ↓ofNat_low_eq ho]
  | _ => cases hf

theorem decodeOp_of_fmtC {i : Instr} {maj d a b sub : Nat}
    (hf : i.fields = some (.fmtC maj d a b sub)) (hr : (Fields.fmtC maj d a b sub).ReadFrom w) : decodeOp w = some i := by
  cases i with
  | nop | yield | endd | rft | pdone | sigchk =>
    cases hf
    obtain ⟨hm, -, -, -, hs⟩ := hr
    simp only [decodeOp_eq_dec04 hm, dec04, hs]
  | jmpi a | ret a | trap a | wcnt a =>
    cases hf
    obtain ⟨hm, -, ha, -, hs⟩ := hr
    simp only [decodeOp_eq_dec04 hm, dec04, hs, creg_eq ha]
  | elect m =>
    cases hf
    obtain ⟨hm, hd, -, -, hs⟩ := hr
    simp only [decodeOp_eq_dec04 hm, dec04, hs, mreg_eq hd]
  | cadd d a b | csub d a b | cmul d a b | cmulh d a b | cmad d a b | cand d a b | cor d a b | cxor d a b | cshl d a b
  | cshr d a b | csar d a b | cmin d a b | cminu d a b | cmax d a b | cmaxu d a b | ccmpEq d a b | ccmpNe d a b
  | ccmpLt d a b | ccmpLe d a b | ccmpLtu d a b | ccmpLeu d a b | csel d a b | cbfe d a b =>
    cases hf
    obtain ⟨hm, hd, ha, hb, hs⟩ := hr
    simp only [decodeOp_eq_dec07 hm, dec07, hs, creg_eq hd, creg_eq ha, creg_eq hb]
  | cnot d a | cmov d a | cpopc d a | cclz d a =>
    cases hf
    obtain ⟨hm, hd, ha, -, hs⟩ := hr
    simp only [decodeOp_eq_dec07 hm, dec07, hs, creg_eq hd, creg_eq ha]
  | growV d a | growT d a | shrinkV d a | shrinkT d a =>
    cases hf
    obtain ⟨hm, hd, ha, -, hs⟩ := hr
    simp only [decodeOp_eq_dec0C hm, dec0C, hs, creg_eq hd, creg_eq ha]
  | qbind k a =>
    cases hf
    obtain ⟨hm, hd, ha, -, hs⟩ := hr
    simp only [decodeOp_eq_dec0D hm, dec0D, hs, mreg_eq hd, creg_eq ha]
  | qstat d k =>
    cases hf
    obtain ⟨hm, hd, -, hb, hs⟩ := hr
    simp only [decodeOp_eq_dec0D hm, dec0D, hs, creg_eq hd, mreg_eq hb]
  | cpy a | tcpy a =>
    cases hf
    obtain ⟨hm, -, ha, -, hs⟩ := hr
    simp only [decodeOp_eq_dec0E hm, dec0E, hs, creg_eq ha]
  | cpyw a b =>
    cases hf
    obtain ⟨hm, -, ha, hb, hs⟩ := hr
    simp only [decodeOp_eq_dec0E hm, dec0E, hs, creg_eq ha, creg_eq hb]
  | lnch d a | bara d a =>
    cases hf
    obtain ⟨hm, hd, ha, -, hs⟩ := hr
    simp only [decodeOp_eq_dec0F hm, dec0F, hs, creg_eq hd, creg_eq ha]
  | bar a =>
    cases hf
    obtain ⟨hm, -, ha, -, hs⟩ := hr
    simp only [decodeOp_eq_dec0F hm, dec0F, hs, creg_eq ha]
  | bare a b | barw a b | wait a b | waitExt a b =>
    cases hf
    obtain ⟨hm, -, ha, hb, hs⟩ := hr
    simp only [decodeOp_eq_dec0F hm, dec0F, hs, creg_eq ha, creg_eq hb]
  | fence | drain =>
    cases hf
    obtain ⟨hm, -, -, -, hs⟩ := hr
    simp only [decodeOp_eq_dec3B hm, dec3B, hs]
  | cctlWb a b | cctlInv a b | cctlIinv a b =>
    cases hf
    obtain ⟨hm, hd, ha, hb, hs⟩ := hr
    simp only [decodeOp_eq_dec3B hm, dec3B, hs, ↓hd, creg_eq ha, creg_eq hb]
  | locq d a k =>
    cases hf
    obtain ⟨hm, hd, ha, hb, hs⟩ := hr
    simp only [decodeOp_eq_dec3B hm, dec3B, hs, creg_eq hd, creg_eq ha, bit1_eq hb]
  | _ => cases hf

theorem decodeOp_of_fmtCI {i : Instr} {maj d a imm : Nat}
    (hf : i.fields = some (.fmtCI maj d a imm)) (hr : (Fields.fmtCI maj d a imm).ReadFrom w) : decodeOp w = some i := by
  cases i with
  | caddImm d a v =>
    cases hf
    obtain ⟨hm, hd, ha, hv⟩ := hr
    simp only [decodeOp, ↓hm, creg_eq hd, creg_eq ha, ↓ofNat_low_eq hv]
  | _ => cases hf

theorem decodeOp_of_fmtA {i : Instr} {maj d a c b sub : Nat}
    (hf : i.fields = some (.fmtA maj d a c b sub)) (hr : (Fields.fmtA maj d a c b sub).ReadFrom w) : decodeOp w = some i := by
  cases i with
  | amov d a =>
    cases hf
    obtain ⟨hm, hd, ha, -, -, hs⟩ := hr
    simp only [decodeOp_eq_dec0A hm, dec0A, hs, areg_eq hd, areg_eq ha]
  | aidx d c =>
    cases hf
    obtain ⟨hm, hd, -, hc, -, hs⟩ := hr
    simp only [decodeOp_eq_dec0A hm, dec0A, hs, areg_eq hd, creg_eq hc]
  | aaddA d a b | asubA d a b =>
    cases hf
    obtain ⟨hm, hd, ha, -, hb, hs⟩ := hr
    simp only [decodeOp_eq_dec0A hm, dec0A, hs, areg_eq hd, areg_eq ha, areg_eq hb]
  | aaddC d a c | asubC d a c | amul d a c | ashl d a c =>
    cases hf
    obtain ⟨hm, hd, ha, hc, -, hs⟩ := hr
    simp only [decodeOp_eq_dec0A hm, dec0A, hs, areg_eq hd, areg_eq ha, creg_eq hc]
  | _ => cases hf

theorem decodeOp_of_fmtS {i : Instr} {maj c sel : Nat} (hw : i.wf = true)
    (hf : i.fields = some (.fmtS maj c sel)) (hr : (Fields.fmtS maj c sel).ReadFrom w) : decodeOp w = some i := by
  cases i with
  | sread d r =>
    cases hf
    obtain ⟨hm, hc, hs⟩ := hr
    simp only [decodeOp, ↓hm, dec05, ↓hs, r.ofSelector_selector, creg_eq hc, Option.map_some]
  | swrite c r =>
    cases hf
    obtain ⟨hm, hc, hs⟩ := hr
    simp only [decodeOp_eq_dec06 hm, dec06_swrite hs hw, creg_eq hc]
  | mcfgWrite c | ftmapWrite c =>
    cases hf
    obtain ⟨hm, hc, hs⟩ := hr
    simp only [decodeOp_eq_dec06 hm, dec06, ↓hs, creg_eq hc]
  | _ => cases hf

theorem decodeOp_of_fmtV {i : Instr} {maj d a et : Nat} {b : Src}
    (hf : i.fields = some (.fmtV maj d a b et)) (hr : (Fields.fmtV maj d a b et).ReadFrom w) : decodeOp w = some i := by
  cases i with
  | vadd d a b t | vsub d a b t | vmul d a b t | vmulh d a b t | vmad d a b t | vand d a b t | vor d a b t | vxor d a b t
  | vshl d a b t | vshr d a b t | vsar d a b t | vmin d a b t | vminu d a b t | vmax d a b t | vmaxu d a b t =>
    cases hf
    obtain ⟨hm, hd, ha, hb, ht⟩ := hr
    obtain ⟨h2, ht⟩ := intTy_of_mod ht
    simp only [decodeOp, ↓hm, vreg_eq hd, vreg_eq ha, hb, h2, ↓ht, Bool.false_eq_true, ↓reduceIte]
  | fadd d a b t | fsub d a b t | fmul d a b t | ffma d a b t | fmin d a b t | fmax d a b t =>
    cases hf
    obtain ⟨hm, hd, ha, hb, ht⟩ := hr
    obtain ⟨h2, ht⟩ := fltTy_of_mod ht
    simp only [decodeOp, ↓hm, vreg_eq hd, vreg_eq ha, hb, h2, ↓ht, ↓reduceIte]
  | vbfe d a b t | vbfi d a b t =>
    cases hf
    obtain ⟨hm, hd, ha, hb, ht⟩ := hr
    have hz : w / 2 % 4 = 0 := by omega
    have h0 : w / 2 ^ 0 % 2 = t.val := by omega
    simp only [decodeOp, ↓hm, vreg_eq hd, vreg_eq ha, hb, hz, bit1_eq h0, ↓reduceIte]
  | _ => cases hf

theorem decodeOp_of_fmtVS_lt {i : Instr} {maj d a b sub : Nat} (hj : maj < 0x28)
    (hf : i.fields = some (.fmtVS maj d a b sub)) (hr : (Fields.fmtVS maj d a b sub).ReadFrom w) : decodeOp w = some i := by
  cases i with
  | lca d a =>
    cases hf
    obtain ⟨hm, hd, ha, -, hs⟩ := hr
    simp only [decodeOp_eq_dec0B hm, dec0B, hs, areg_eq hd, creg_eq ha]
  | lcv d a =>
    cases hf
    obtain ⟨hm, hd, ha, -, hs⟩ := hr
    simp only [decodeOp_eq_dec0B hm, dec0B, hs, vreg_eq hd, creg_eq ha]
  | lav d a =>
    cases hf
    obtain ⟨hm, hd, ha, -, hs⟩ := hr
    simp only [decodeOp_eq_dec0B hm, dec0B, hs, vreg_eq hd, areg_eq ha]
  | lvc d a | lvcx d a =>
    cases hf
    obtain ⟨hm, hd, ha, -, hs⟩ := hr
    simp only [decodeOp_eq_dec0B hm, dec0B, hs, creg_eq hd, vreg_eq ha]
  | vnot d a t | vabs d a t | vneg d a t | vpopc d a t | fabs d a t | fneg d a t | frnd d a t | fclass d a t =>
    cases hf
    obtain ⟨hm, hd, ha, -, hs⟩ := hr
    have h4 : w / 4 % 8 = w % 32 / 4 := by omega
    have h0 : w / 2 ^ 0 % 4 = w % 32 % 4 := by omega
    simp only [decodeOp_eq_dec21 hm, dec21, h4, ↓h0, hs, vreg_eq hd, vreg_eq ha]
    cases t <;> rfl
  | vcmp m a b r t =>
    cases hf
    obtain ⟨hm, hd, ha, hb, hs⟩ := hr
    have ht := t.code_lt
    have hc := r.code_lt
    have h3 : w / 2 ^ 3 % 4 = r.code := by omega
    obtain ⟨h2, ht⟩ := intTy_of_mod (t := t) (w := w) (by omega)
    simp only [decodeOp, ↓hm, mreg_eq hd, vreg_eq ha, vreg_eq hb, ↓h3, r.ofCode_code, h2, ↓ht, Bool.false_eq_true,
      ↓reduceIte]
  | fcmp m a b r t =>
    cases hf
    obtain ⟨hm, hd, ha, hb, hs⟩ := hr
    have ht := t.code_lt
    have hc := r.code_lt
    have h3 : w / 2 ^ 3 % 4 = r.code := by omega
    obtain ⟨h2, ht⟩ := fltTy_of_mod (t := t) (w := w) (by omega)
    simp only [decodeOp, ↓hm, mreg_eq hd, vreg_eq ha, vreg_eq hb, ↓h3, r.ofCode_code, h2, ↓ht, ↓reduceIte]
  | vcmpLtu m a b t | fcmpUo m a b t | vcmpLeu m a b t =>
    cases hf
    obtain ⟨hm, hd, ha, hb, hs⟩ := hr
    have h4 : w / 4 % 8 = w % 32 / 4 := by omega
    have h0 : w / 2 ^ 0 % 4 = w % 32 % 4 := by omega
    simp only [decodeOp_eq_dec23 hm, dec23, h4, ↓h0, hs, mreg_eq hd, vreg_eq ha, vreg_eq hb]
    cases t <;> rfl
  | vclz d a t =>
    cases hf
    obtain ⟨hm, hd, ha, -, hs⟩ := hr
    have ht := t.code_lt
    have h4 : w / 4 % 8 = 0 := by omega
    have h0 : w / 2 ^ 0 % 4 = t.code := by omega
    simp only [decodeOp, ↓hm, h4, ↓h0, t.ofLow_code, vreg_eq hd, vreg_eq ha, ↓reduceIte]
  | vperm d a b =>
    cases hf
    obtain ⟨hm, hd, ha, hb, hs⟩ := hr
    have h4 : w / 4 % 8 = 2 := by omega
    simp only [decodeOp, ↓hm, h4, hs, vreg_eq hd, vreg_eq ha, vreg_eq hb]
    rfl
  | vsel d a b k =>
    cases hf
    obtain ⟨hm, hd, ha, hb, hs⟩ := hr
    have h0 : w / 2 ^ 0 % 32 = k.val := by omega
    simp only [decodeOp, ↓hm, vreg_eq hd, vreg_eq ha, vreg_eq hb, mreg_eq h0]
  | frcp d a t | frsq d a t | fsqrt d a t | fexp2 d a t | flog2 d a t | fsin d a t | fcos d a t =>
    cases hf
    obtain ⟨hm, hd, ha, -, hs⟩ := hr
    have h4 : w / 4 % 8 = w % 32 / 4 := by omega
    have h0 : w / 2 ^ 0 % 4 = w % 32 % 4 := by omega
    simp only [decodeOp_eq_dec26 hm, dec26, h4, ↓h0, hs, vreg_eq hd, vreg_eq ha]
    cases t <;> rfl
  | cvt d a s t =>
    cases hf
    obtain ⟨hm, hd, ha, hb, hs⟩ := hr
    have h0 : w / 2 ^ 0 % 32 = t.code := by omega
    simp only [decodeOp, ↓hm, vreg_eq hd, vreg_eq ha, ↓elTy_ofCode_mod hb, ↓elTy_ofCode_mod h0]
  | _ => cases hf <;> omega

theorem decodeOp_of_fmtVS_ge {i : Instr} {maj d a b sub : Nat} (hj : 0x28 ≤ maj)
    (hf : i.fields = some (.fmtVS maj d a b sub)) (hr : (Fields.fmtVS maj d a b sub).ReadFrom w) : decodeOp w = some i := by
  cases i with
  | dot2F32x2 d a b | dot4F16x4 d a b | dot4Bf16x4 d a b | dot4I16x4 d a b | dot8I8x8 d a b =>
    cases hf
    obtain ⟨hm, hd, ha, hb, hs⟩ := hr
    simp only [decodeOp_eq_dec28 hm, dec28, hs, vreg_eq hd, vreg_eq ha, vreg_eq hb]
  | dot8Binary8 d a b f | cvs d a b f =>
    cases hf
    obtain ⟨hm, hd, ha, hb, hs⟩ := hr
    simp only [decodeOp, ↓hm, vreg_eq hd, vreg_eq ha, vreg_eq hb, ↓ofNat_low_eq (n := 5) hs]
  | cvn d a t f | cvw d a t f =>
    cases hf
    obtain ⟨hm, hd, ha, hb, hs⟩ := hr
    simp only [decodeOp, ↓hm, vreg_eq hd, vreg_eq ha, ↓fltTy_ofLow_mod hb, ↓ofNat_low_eq (n := 5) hs]
  | welf d a t | wmrg d a t =>
    cases hf
    obtain ⟨hm, hd, ha, -, hs⟩ := hr
    have h2 : w / 2 % 16 = w % 32 / 2 := by omega
    have h0 : w / 2 ^ 0 % 2 = t.val := by omega
    simp only [decodeOp_eq_dec2D hm, dec2D, h2, hs, vreg_eq hd, vreg_eq ha, bit1_eq h0]
    match t with
    | 0 => rfl
    | 1 => rfl
  | shfl d a b | shflx d a b =>
    cases hf
    obtain ⟨hm, hd, ha, hb, hs⟩ := hr
    simp only [decodeOp_eq_dec2E hm, dec2E, hs, vreg_eq hd, vreg_eq ha, vreg_eq hb]
  | bcst d a j =>
    cases hf
    obtain ⟨hm, hd, ha, hb, hs⟩ := hr
    simp only [decodeOp_eq_dec2E hm, dec2E, hs, vreg_eq hd, vreg_eq ha, areg_eq hb]
  | voteAny d a | voteAll d a | voteBal d a =>
    cases hf
    obtain ⟨hm, hd, ha, -, hs⟩ := hr
    simp only [decodeOp_eq_dec2E hm, dec2E, hs, vreg_eq hd, vreg_eq ha]
  | rdc d a o e | scan d a o e =>
    cases hf
    obtain ⟨hm, hd, ha, -, hs⟩ := hr
    have he := e.code_lt
    have ho := o.code_lt
    have h3 : w / 2 ^ 3 % 4 = o.code := by omega
    have h0 : w / 2 ^ 0 % 8 = e.code := by omega
    simp only [decodeOp, ↓hm, vreg_eq hd, vreg_eq ha, ↓h3, o.ofCode_code, ↓h0, e.ofCode_code]
  | mmov d a | mnot d a | mfirst d a =>
    cases hf
    obtain ⟨hm, hd, ha, -, hs⟩ := hr
    simp only [decodeOp_eq_dec31 hm, dec31, hs, ↓maskSel_of_mod hd, ↓maskSel_of_mod ha]
  | mand d a b | mor d a b | mxor d a b =>
    cases hf
    obtain ⟨hm, hd, ha, hb, hs⟩ := hr
    simp only [decodeOp_eq_dec31 hm, dec31, hs, ↓maskSel_of_mod hd, ↓maskSel_of_mod ha, ↓maskSel_of_mod hb]
  | mpop d a =>
    cases hf
    obtain ⟨hm, hd, ha, -, hs⟩ := hr
    simp only [decodeOp_eq_dec31 hm, dec31, hs, creg_eq hd, ↓maskSel_of_mod ha]
  | grdv d a k | grdw d a k =>
    cases hf
    obtain ⟨hm, hd, ha, hb, hs⟩ := hr
    simp only [decodeOp_eq_dec3E hm, dec3E, hs, vreg_eq hd, areg_eq ha, mreg_eq hb]
  | rsub d a c =>
    cases hf
    obtain ⟨hm, hd, ha, hb, hs⟩ := hr
    simp only [decodeOp_eq_dec3E hm, dec3E, hs, vreg_eq hd, areg_eq ha, creg_eq hb]
  | samp d a c | nrq d a c =>
    cases hf
    obtain ⟨hm, hd, ha, hb, hs⟩ := hr
    simp only [decodeOp_eq_dec3E hm, dec3E, hs, vreg_eq hd, vreg_eq ha, creg_eq hb]
  | rbox d g n | rtri d g n | rtriAlpha d g n | rhit d g n =>
    cases hf
    obtain ⟨hm, hd, ha, hb, hs⟩ := hr
    simp only [decodeOp_eq_dec3E hm, dec3E, hs, vreg_eq hd, vreg_eq ha, vreg_eq hb]
  | rpsh a c =>
    cases hf
    obtain ⟨hm, -, ha, hb, hs⟩ := hr
    simp only [decodeOp_eq_dec3E hm, dec3E, hs, vreg_eq ha, creg_eq hb]
  | rpop d c =>
    cases hf
    obtain ⟨hm, hd, -, hb, hs⟩ := hr
    simp only [decodeOp_eq_dec3E hm, dec3E, hs, vreg_eq hd, creg_eq hb]
  | _ => cases hf <;> omega

theorem decodeOp_of_fmtM {i : Instr} {maj d z : Nat} {m : MOp} (hw : i.wf = true)
    (hf : i.fields = some (.fmtM maj d m z)) (hr : (Fields.fmtM maj d m z).ReadFrom w) : decodeOp w = some i := by
  cases i with
  | ld d m z x | lds d m z x | pacq d m z x =>
    cases hf
    obtain ⟨hm, hd, ho, hs⟩ := hr
    obtain ⟨h0, h1, h2⟩ := msz_read hs
    simp only [decodeOp, ↓hm, vreg_eq hd, h0, h1, ↓h2, ho]
  | ldc d m z x =>
    cases hf
    obtain ⟨hm, hd, ho, hs⟩ := hr
    obtain ⟨h0, h1, h2⟩ := msz_read hs
    simp only [decodeOp, ↓hm, creg_eq hd, h0, h1, ↓h2, ho]
  | st v m z | sts v m z =>
    cases hf
    obtain ⟨hm, hd, ho, hs⟩ := hr
    obtain ⟨h0, -, h2⟩ := msz_read hs
    simp only [decodeOp, ↓hm, vreg_eq hd, h0, ↓h2, ho]
  | pref m z =>
    cases hf
    obtain ⟨hm, -, ho, hs⟩ := hr
    obtain ⟨h0, -, h2⟩ := msz_read hs
    simp only [decodeOp, ↓hm, h0, ↓h2, ho]
  | atomAdd d m x | atomAnd d m x | atomOr d m x | atomXor d m x | atomMin d m x | atomMax d m x | atomMinu d m x
  | atomMaxu d m x | atomExch d m x | atomFadd d m x | atomFmin d m x | atomFmax d m x =>
    cases hf
    obtain ⟨hm, hd, ho, hs⟩ := hr
    obtain ⟨h4, hs⟩ := asz_read hs (by decide)
    have hsc : m.scaled = true := (Bool.and_eq_true_iff.mp hw).2
    simp only [decodeOp_eq_dec37 hm, dec37, hs, vreg_eq hd, h4, ho, ← hsc]
  | cas d m x =>
    cases hf
    obtain ⟨hm, hd, ho, hs⟩ := hr
    obtain ⟨h4, hs⟩ := asz_read hs (by decide)
    have hsc : m.scaled = true := (Bool.and_eq_true_iff.mp hw).2
    simp only [decodeOp, ↓hm, vreg_eq hd, h4, ho, ← hsc]
  | _ => cases hf

theorem decodeOp_of_fmtX {i : Instr} {maj t a b shape kind : Nat}
    (hf : i.fields = some (.fmtX maj t a b shape kind)) (hr : (Fields.fmtX maj t a b shape kind).ReadFrom w) :
    decodeOp w = some i := by
  cases i with
  | mmaE8 t a b s | mmasE8 t a b s | mmauE8 t a b s | mmaE16 t a b s | mmasE16 t a b s | mmauE16 t a b s =>
    cases hf
    obtain ⟨hm, ht, ha, hb, hk, hs⟩ := hr
    simp only [decodeOp_eq_dec3C hm, dec3C, hs, areg_eq ht, creg_eq ha, creg_eq hb, ↓shape_eq hk]
  | gang a =>
    cases hf
    obtain ⟨hm, -, ha, -, -, hs⟩ := hr
    simp only [decodeOp_eq_dec3D hm, dec3D, hs, creg_eq ha]
  | mzero t a =>
    cases hf
    obtain ⟨hm, ht, ha, -, -, hs⟩ := hr
    simp only [decodeOp_eq_dec3D hm, dec3D, hs, areg_eq ht, creg_eq ha]
  | mldw a b =>
    cases hf
    obtain ⟨hm, -, ha, hb, -, hs⟩ := hr
    simp only [decodeOp_eq_dec3D hm, dec3D, hs, creg_eq ha, creg_eq hb]
  | mdrnTs t a b s | mdrnPeer t a b s =>
    cases hf
    obtain ⟨hm, ht, ha, hb, hk, hs⟩ := hr
    simp only [decodeOp_eq_dec3D hm, dec3D, hs, areg_eq ht, creg_eq ha, creg_eq hb, ↓shape2_eq hk]
  | mdrnQ t q b s =>
    cases hf
    obtain ⟨hm, ht, ha, hb, hk, hs⟩ := hr
    simp only [decodeOp_eq_dec3D hm, dec3D, hs, areg_eq ht, mreg_eq ha, creg_eq hb, ↓shape2_eq hk]
  | mrow t q s =>
    cases hf
    obtain ⟨hm, ht, ha, -, hk, hs⟩ := hr
    simp only [decodeOp_eq_dec3D hm, dec3D, hs, areg_eq ht, mreg_eq ha, ↓shape2_eq hk]
  | _ => cases hf

theorem decodeOp_of_fmtH {i : Instr} {hk p : Nat}
    (hf : i.fields = some (.fmtH hk p)) (hr : (Fields.fmtH hk p).ReadFrom w) : decodeOp w = some i := by
  cases i with
  | hintLo p | hintHi p | hintMod p | hintJoin p =>
    cases hf
    obtain ⟨hm, hk, hp⟩ := hr
    simp only [decodeOp_eq_dec3F hm, dec3F, ↓hk, ↓ofNat_low_eq hp]
  | _ => cases hf

/-- The decoder names the instruction whose fields the word holds. -/
theorem decodeOp_of_readFrom {i : Instr} {f : Fields} (hw : i.wf = true) (hf : i.fields = some f) (hr : f.ReadFrom w) :
    decodeOp w = some i := by
  cases f with
  | fmtV => exact decodeOp_of_fmtV hf hr
  | fmtVS maj => exact (Nat.lt_or_ge maj 0x28).elim (decodeOp_of_fmtVS_lt · hf hr) (decodeOp_of_fmtVS_ge · hf hr)
  | fmtC => exact decodeOp_of_fmtC hf hr
  | fmtCI => exact decodeOp_of_fmtCI hf hr
  | fmtA => exact decodeOp_of_fmtA hf hr
  | fmtM => exact decodeOp_of_fmtM hw hf hr
  | fmtB => exact decodeOp_of_fmtB hf hr
  | fmtBV => exact decodeOp_of_fmtBV hf hr
  | fmtX => exact decodeOp_of_fmtX hf hr
  | fmtS => exact decodeOp_of_fmtS hw hf hr
  | fmtH => exact decodeOp_of_fmtH hf hr
end

/-! ## Encoding and decoding -/

theorem encode_eq_some {i : Instr} {w : Nat} (h : encode i = some w) : ∃ f, i.fields = some f ∧ f.word = w :=
  Option.map_eq_some_iff.mp h

theorem encode_lt {i : Instr} {w : Nat} (h : encode i = some w) : w < 2 ^ 32 := by
  obtain ⟨f, hf, rfl⟩ := encode_eq_some h
  exact Fields.word_lt (Instr.fields_fit hf)

/-- The opcode bits and operand fields of an instruction's word name the instruction. -/
theorem decodeOp_encode {i : Instr} {w : Nat} (hw : i.wf = true) (h : encode i = some w) : decodeOp w = some i := by
  obtain ⟨f, hf, rfl⟩ := encode_eq_some h
  exact decodeOp_of_readFrom hw hf (Fields.word_readFrom (Instr.fields_fit hf))

theorem decode_eq_ok_iff {i : Instr} {w : Nat} :
    decode w = .ok i ↔ decodeOp w = some i ∧ encode i = some w ∧ i.wf = true := by
  unfold decode
  cases decodeOp w with
  | none => simp
  | some j =>
    constructor
    · intro h
      by_cases he : encode j = some w
      · by_cases hw : j.wf = true
        · obtain rfl : j = i := by simpa [he, hw] using h
          exact ⟨rfl, he, hw⟩
        · simp [he, hw] at h
      · simp [he] at h
    · rintro ⟨hj, he, hw⟩
      cases hj
      simp [he, hw]

theorem decode_encode {i : Instr} {w : Nat} (hw : i.wf = true) (h : encode i = some w) : decode w = .ok i :=
  decode_eq_ok_iff.mpr ⟨decodeOp_encode hw h, h, hw⟩

theorem wordOfBytes_bytesOfWord {w : Nat} (h : w < 2 ^ 32) : wordOfBytes (bytesOfWord w) = some w := by
  simp only [bytesOfWord, wordOfBytes, BitVec.toNat_ofNat, Option.some.injEq]
  omega

/-- The bytes in memory order give the number back (R36). -/
theorem decodeTableWord_of_decode {i : Instr} {w : Nat} (hlt : w < 2 ^ 32) (h : decode w = .ok i) :
    decodeTableWord 32 w = some i := by
  simp only [decodeTableWord, decodeBytes, Nat.mod_eq_of_lt hlt, wordOfBytes_bytesOfWord hlt, h, Nat.le_refl, ↓reduceIte]

/-- Settles O56: an instruction's fields fit their widths, so that its word gives each of them back, and the decoder, reading
them by format, names the instruction; the other direction is what `decode` checks before it answers. -/
theorem encodeAndDecodeAgree : Obligations.EncodeAndDecodeAgree := by
  refine ⟨fun i w hw he => ?_, fun i w h => ?_⟩
  · have hd := decode_encode hw he
    exact ⟨encode_lt he, hd, decodeTableWord_of_decode (encode_lt he) hd⟩
  · obtain ⟨-, he, hw⟩ := decode_eq_ok_iff.mp h
    exact ⟨hw, he⟩

/-- Settles O55: each instruction is well formed and its word encodes it, so that the word decodes to it. -/
theorem decodeWords : Obligations.DecodeWords := by
  have table : decodeTableWord 32 0x205143E8 = some (.caddImm 5 5 1000) :=
    decodeTableWord_of_decode (by decide) (decode_encode rfl rfl)
  exact ⟨decode_encode rfl rfl, decode_encode rfl rfl, decode_encode rfl rfl, decode_encode rfl rfl, decode_encode rfl rfl,
    decode_encode rfl rfl, decode_encode rfl rfl, decode_encode rfl rfl, decode_encode rfl rfl, decode_encode rfl rfl,
    decode_encode rfl rfl, decode_encode rfl rfl, table, rfl⟩

end Sys2Proof
end

section
/-! SUPPORT. What branches do, and what `sread` gives (R176, R177, R190). -/

namespace Sys2Proof

open Sys2Proof.Machine

/-! ## Branches -/

/-- A ready instruction whose effect is completion at `pc` only moves its fragment. -/
theorem onlyMoves_of_run {s : State} {i : Instr} {body : Mods → State → State} {pc : VAddr} (hi : exec i s = run i s body)
    (hb : body (curMods s) s = completeAt s pc) (h : Ready s i) : OnlyMoves s i pc := by
  rw [OnlyMoves, hi, run_ready h, hb, completeAt_eq]
  rfl

/-- A ready instruction whose effect raises a cause raises it. -/
theorem raises_of_run {s : State} {i : Instr} {body : Mods → State → State} {t : Trap} (hi : exec i s = run i s body)
    (hb : body (curMods s) s = raise s t) (h : Ready s i) : Raises s i t := by
  rw [Raises, hi, run_ready h, hb]

/-- A branch completes at its target when taken, at the next word when not (R176). -/
theorem branchIf_eq (s : State) (o : BitVec 18) (b : Bool) :
    branchIf s o b = completeAt s (if b then targetAt s o else nextPc s) := by
  cases b <;> rfl

theorem badPc_eq_false_iff (v : Word) : badPc v = false ↔ v.toNat % 4 = 0 ∧ v.toNat < 2 ^ 57 := by
  simp [badPc]

theorem jumpTo_good {v : Word} (h : v.toNat % 4 = 0 ∧ v.toNat < 2 ^ 57) (s : State) :
    jumpTo s v = completeAt s (v.setWidth 57) := by
  rw [jumpTo, (badPc_eq_false_iff v).mpr h]; rfl

theorem jumpTo_bad {v : Word} (h : v.toNat % 4 ≠ 0 ∨ 2 ^ 57 ≤ v.toNat) (s : State) :
    jumpTo s v = raise s { cause := .badpc, addr := v.toNat } := by
  have hb : badPc v = true := by
    apply Decidable.byContradiction
    intro hn
    obtain ⟨h4, h57⟩ := (badPc_eq_false_iff v).mp (Bool.eq_false_iff.mpr hn)
    omega
  rw [jumpTo, if_pos hb]

/-- What an indirect branch through a value does (R177). -/
theorem jump_of_run {s : State} {i : Instr} {v : Word} (hi : exec i s = run i s fun _ s => jumpTo s v) (h : Ready s i) :
    (v.toNat % 4 = 0 ∧ v.toNat < 2 ^ 57 → OnlyMoves s i (v.setWidth 57)) ∧
      (v.toNat % 4 ≠ 0 ∨ 2 ^ 57 ≤ v.toNat → Raises s i { cause := .badpc, addr := v.toNat }) :=
  ⟨fun hv => onlyMoves_of_run hi (jumpTo_good hv s) h, fun hv => raises_of_run hi (jumpTo_bad hv s) h⟩

/-- The link register after `call`, and the target (R176). -/
theorem call_setsUniform {s : State} {c : CReg} {o : BitVec 18} (hc : c.val = 63 ∨ fullMask s = true)
    (h : Ready s (.call c o)) :
    SetsUniform s (.call c o) c ((nextPc s).setWidth 64) (targetAt s o) := by
  refine ⟨completeAt (setC s c ((nextPc s).setWidth 64)) (targetAt s o), ?_, fun r => getC_setC s c r _, ?_⟩
  · show run _ s _ = _
    rw [run_ready h, needFullFor_ok hc]
    rfl
  · rw [completeAt_eq, setC_frame]
    rfl

/-- Settles O14: each branch is a completion at the target its condition picks, and an indirect one a completion or BADPC. -/
theorem branchResults : Obligations.BranchResults := by
  intro s c o v cond jump
  have branch {i : Instr} {b b' : Bool} (hi : exec i s = run i s fun _ s => branchIf s o b) (hb : b = b') : cond i b' := by
    subst hb
    exact onlyMoves_of_run hi (branchIf_eq s o b)
  have hbr : cond (.br o) true := branch (b := true) rfl rfl
  have hnop : cond .nop false := branch (b := false) rfl rfl
  have hz : cond (.brcZ c o) (decide (v = 0)) := branch (b := v == 0) rfl rfl
  have hnz : cond (.brcNz c o) (decide (v ≠ 0)) := branch (b := v != 0) rfl decide_not.symm
  have hneg : cond (.brcNeg c o) (decide (v.toInt < 0)) := branch (b := v.msb) rfl BitVec.msb_eq_toInt
  exact ⟨hbr, hnop, hz, hnz, hneg, jump_of_run rfl, jump_of_run rfl, call_setsUniform⟩

/-! ## Special registers -/

theorem sread_setsUniform {s : State} {d : CReg} {r : SReg} (hr : readRefused s r = false)
    (hd : d.val = 63 ∨ fullMask s = true) (h : Ready s (.sread d r)) :
    SetsUniform s (.sread d r) d (sregRead s r) (nextPc s) := by
  refine setsUniform_of ?_
  show run _ s _ = _
  rw [run_ready h, hr, if_neg Bool.false_ne_true, needFullFor_ok hd]

theorem sread_illegal {s : State} {d : CReg} {r : SReg} (hr : readRefused s r = true) (h : Ready s (.sread d r)) :
    Raises s (.sread d r) { cause := .illegal, info := s.ir } :=
  raises_of_run rfl (if_pos hr) h

theorem readRefused_supervisor {s : State} (h : s.cur.cst.lvl = .supervisor) (r : SReg) : readRefused s r = false := by
  simp [readRefused, h]
theorem readRefused_supervised {s : State} (h : s.cur.cst.lvl ≠ .supervisor) {r : SReg} (hr : r = .ftmap ∨ r = .ftst) :
    readRefused s r = true := by
  simp [readRefused, h, hr]

/-- Settles O20: each register's value is `sregRead`'s, whatever the level but for the supervisor's two registers. -/
theorem specialRegisterReads : Obligations.SpecialRegisterReads := by
  intro s d n k c die reads supervised
  have plain {r : SReg} {v : Word} (hr : readRefused s r = false) (hv : sregRead s r = v) : reads r v := by
    subst hv
    exact sread_setsUniform hr
  have guarded {r : SReg} {v : Word} (hr : r = .ftmap ∨ r = .ftst) (hv : sregRead s r = v) : supervised r v :=
    ⟨fun hs => plain (readRefused_supervisor hs r) hv, fun hs => sread_illegal (readRefused_supervised hs hr)⟩
  have hmst : sregRead s .mst = BitVec.ofNat 64 (256 * (decide (s.ctr.rfph.getD die 0 / 4096 = 31)).toNat +
      128 * c.rsOn.toNat + min c.opq.length 64) := by
    simp only [sregRead, mstWord, dieOf, eq_comm (a := 31), die, c, k]
  have hwdc {r} (hr : regionAt? s k.region = some r) : sregRead s .wdc = BitVec.ofNat 64 (kgetD s.rg.wdc r.instF 0) := by
    simp only [sregRead, wdcOf, hr, k]
  exact ⟨plain rfl rfl, plain rfl rfl, plain rfl rfl, plain rfl rfl, plain rfl rfl, plain rfl rfl, plain rfl rfl,
    plain rfl rfl, plain rfl rfl, plain rfl rfl, plain rfl rfl, plain rfl rfl, plain rfl rfl, plain rfl rfl, plain rfl rfl,
    plain rfl rfl, plain rfl rfl, plain rfl rfl, plain rfl hmst, plain rfl rfl, guarded (.inl rfl) rfl, guarded (.inr rfl) rfl,
    plain rfl rfl, plain rfl rfl, plain rfl rfl, fun _ hr => plain rfl (hwdc hr), plain rfl rfl, plain rfl rfl⟩

end Sys2Proof
end

section
/-! SUPPORT. What uniform and affine instructions, lifts, lowerings and allotment changes do, and what a partial mask raises
(R101 to R115). -/

namespace Sys2Proof

open Sys2Proof.Machine

/-- What a ready instruction's meaning gives is the next state. -/
theorem next_of_run {s t : State} {i : Instr} {body : Mods → State → State} (hi : exec i s = run i s body)
    (hb : body (curMods s) s = t) (h : Ready s i) : exec i s = .next t := by
  rw [hi, run_ready h, hb]

/-! ## Uniform arithmetic -/

/-- The high half of the signed product (R105). -/
theorem extract_signExtend_mul (x y : Word) :
    (x.signExtend 128 * y.signExtend 128).extractLsb' 64 64 = BitVec.ofInt 64 (x.toInt * y.toInt / 2 ^ 64) := by
  rw [BitVec.signExtend, BitVec.signExtend, ← BitVec.ofInt_mul]
  apply BitVec.eq_of_toNat_eq
  rw [BitVec.extractLsb'_toNat, BitVec.toNat_ofInt, BitVec.toNat_ofInt, Nat.shiftRight_eq_div_pow]
  omega

/-- The low six bits of a shift amount (R105). -/
theorem toNat_and_63 (y : Word) : (y &&& 63).toNat = y.toNat % 64 := by
  rw [BitVec.toNat_and]
  exact Nat.and_two_pow_sub_one_eq_mod y.toNat 6

/-- A word picked by a comparison, as a choice among the values that words stand for, read back as a word. -/
theorem ite_eq_back {α : Type} {val : Word → α} {back : α → Word} (hb : ∀ x, back (val x) = x) {c : Bool} {p : Prop}
    [Decidable p] (hc : c = decide p) {x y : Word} {m : α} (hy : p → m = val y) (hx : ¬p → m = val x) :
    (if c then y else x) = back m := by
  subst hc
  by_cases h : p
  · rw [hy h, hb, if_pos (decide_eq_true h)]
  · rw [hx h, hb, if_neg (mt of_decide_eq_true h)]

/-- The field that `cbfe` takes, by shift and mask (R105). -/
theorem cbfeOf_eq (x y : Word) :
    cbfeOf x y = (x >>> (y.toNat % 64)) &&&
      BitVec.ofNat 64 (2 ^ min (y.toNat / 256 % 128) (64 - y.toNat % 64) - 1) := by
  rw [cbfeOf, show 2 ^ 8 = 256 from rfl]
  generalize hn : min (y.toNat / 256 % 128) (64 - y.toNat % 64) = n
  have hpow : 2 ^ n ≤ 2 ^ 64 := Nat.pow_le_pow_right (by decide) (by omega)
  have hfit : x.toNat / 2 ^ (y.toNat % 64) % 2 ^ n < 2 ^ 64 := Nat.lt_of_lt_of_le (Nat.mod_lt _ (Nat.two_pow_pos n)) hpow
  have hmask : 2 ^ n - 1 < 2 ^ 64 := by omega
  apply BitVec.eq_of_toNat_eq
  rw [BitVec.toNat_ofNat, Nat.mod_eq_of_lt hfit, BitVec.toNat_and, BitVec.toNat_ushiftRight, BitVec.toNat_ofNat,
    Nat.mod_eq_of_lt hmask, Nat.and_two_pow_sub_one_eq_mod, Nat.shiftRight_eq_div_pow]

/-- The model's count of set bits counts the bits that are set. -/
theorem popCount_eq_length (w n : Nat) : popCount w n = ((List.range w).filter n.testBit).length := by
  induction w generalizing n with
  | zero => rfl
  | succ w ih =>
    have hsucc : n.testBit ∘ Nat.succ = (n / 2).testBit := funext fun i => Nat.testBit_succ n i
    rw [popCount, ih, List.range_succ_eq_map, List.filter_cons, List.filter_map, hsucc, Nat.testBit_zero]
    rcases Nat.mod_two_eq_zero_or_one n with h | h <;> simp [h, Nat.add_comm]

theorem clzN_toNat (x : Word) : clzN 64 x.toNat = if x = 0 then 64 else 63 - x.toNat.log2 := by
  have h0 : x.toNat = 0 ↔ x = 0 := (BitVec.toNat_eq (y := 0)).symm
  by_cases h : x = 0
  · rw [clzN, if_pos (h0.mpr h), if_pos h]
  · rw [clzN, if_neg (mt h0.mp h), if_neg h]

/-- A uniform result of a ready instruction, as claims say it. -/
theorem setsUniform_of_run {s : State} {i : Instr} {d : CReg} {f : Mods → State → Word} {v : Word}
    (hd : d.val = 63 ∨ fullMask s = true) (hi : exec i s = run i s (uniBody d f)) (hv : f (curMods s) s = v)
    (h : Ready s i) : SetsUniform s i d v (nextPc s) := by
  subst hv
  exact setsUniform_of (hi.trans (uniBody_ready h hd f))

/-- Settles O1: each sub-op's meaning is a uniform write, of the value that the rule gives it. -/
theorem uniformResults : Obligations.UniformResults := by
  refine ⟨fun s d a b k hd => ?_, fun s d a b hd => ?_, fun s d a b hd => ?_, fun s d a b k hd => ?_⟩
  · intro x y
    have hmulh := (extract_signExtend_mul x y).symm
    have hnot : ~~~x = x ^^^ BitVec.allOnes 64 := BitVec.xor_allOnes.symm
    exact ⟨setsUniform_of_run hd rfl rfl, setsUniform_of_run hd rfl rfl, setsUniform_of_run hd rfl rfl,
      setsUniform_of_run hd rfl rfl, setsUniform_of_run hd rfl hmulh, setsUniform_of_run hd rfl rfl,
      setsUniform_of_run hd rfl rfl, setsUniform_of_run hd rfl hnot⟩
  · intro x y
    have hshl : x <<< (y.toNat % 64) = x <<< (y &&& 63) := by rw [BitVec.shiftLeft_eq', toNat_and_63]
    have hshr : x >>> (y.toNat % 64) = x >>> (y &&& 63) := by rw [BitVec.ushiftRight_eq', toNat_and_63]
    have hsar : x.sshiftRight (y.toNat % 64) = x.sshiftRight' (y &&& 63) := by rw [BitVec.sshiftRight_eq', toNat_and_63]
    exact ⟨setsUniform_of_run hd rfl rfl, setsUniform_of_run hd rfl rfl, setsUniform_of_run hd rfl rfl,
      setsUniform_of_run hd rfl hshl, setsUniform_of_run hd rfl hshr, setsUniform_of_run hd rfl hsar⟩
  · intro x y bit
    have hbit {p q : Bool} (hpq : p = q) : one p = bit q := congrArg one hpq
    have hne : (x != y) = decide (x ≠ y) := decide_not.symm
    have hsel : (if getC s d != 0 then x else y) = if getC s d = 0 then y else x := by
      by_cases h : getC s d = 0 <;> simp [h]
    have hint (v : Word) : BitVec.ofInt 64 v.toInt = v := BitVec.ofInt_toInt
    have hnat (v : Word) : BitVec.ofNat 64 v.toNat = v := (BitVec.ofNat_toNat 64 v).trans (BitVec.setWidth_eq v)
    have hmin : (if y.slt x then y else x) = BitVec.ofInt 64 (min x.toInt y.toInt) :=
      ite_eq_back hint BitVec.slt_eq_decide (by omega) (by omega)
    have hminu : (if y.ult x then y else x) = BitVec.ofNat 64 (min x.toNat y.toNat) :=
      ite_eq_back hnat BitVec.ult_eq_decide (by omega) (by omega)
    have hmax : (if x.slt y then y else x) = BitVec.ofInt 64 (max x.toInt y.toInt) :=
      ite_eq_back hint BitVec.slt_eq_decide (by omega) (by omega)
    have hmaxu : (if x.ult y then y else x) = BitVec.ofNat 64 (max x.toNat y.toNat) :=
      ite_eq_back hnat BitVec.ult_eq_decide (by omega) (by omega)
    exact ⟨setsUniform_of_run hd rfl hmin, setsUniform_of_run hd rfl hminu, setsUniform_of_run hd rfl hmax,
      setsUniform_of_run hd rfl hmaxu,
      setsUniform_of_run hd rfl (hbit rfl), setsUniform_of_run hd rfl (hbit hne),
      setsUniform_of_run hd rfl (hbit BitVec.slt_eq_decide), setsUniform_of_run hd rfl (hbit BitVec.sle_eq_decide),
      setsUniform_of_run hd rfl (hbit BitVec.ult_eq_decide), setsUniform_of_run hd rfl (hbit BitVec.ule_eq_decide),
      setsUniform_of_run hd rfl hsel⟩
  · intro x y o n
    have hpop {w : Nat} (v : BitVec w) : BitVec.ofNat 64 (popCount w v.toNat) =
        BitVec.ofNat 64 ((List.range w).filter fun i => v.getLsbD i).length :=
      congrArg (BitVec.ofNat 64) (popCount_eq_length w v.toNat)
    have hclz := congrArg (BitVec.ofNat 64) (clzN_toNat x)
    exact ⟨setsUniform_of_run hd rfl (cbfeOf_eq x y), setsUniform_of_run hd rfl (hpop x), setsUniform_of_run hd rfl hclz,
      setsUniform_of_run (f := fun _ s => BitVec.ofNat 64 (popCount 32 (maskSrc s k).toNat)) hd rfl (hpop (maskSrc s k))⟩

/-! ## A partial mask (R101) -/

theorem needFullFor_part {s : State} {d : CReg} (hd : d.val ≠ 63) (h : fullMask s = false) (k : State → State) :
    needFullFor s d k = upartial s := by
  rw [needFullFor, if_neg hd, needFull_part h]

theorem affBody_part {s : State} {d : AReg} (hd : d.val ≠ 31) (h : fullMask s = false) (f : Mods → State → Word × Int)
    (m : Mods) : affBody d f m s = upartial s := by
  unfold affBody
  rw [if_neg hd, needFull_part h]

section
variable {s : State} {i : Instr} (hf : fullMask s = false)
include hf

/-- A uniform destination other than `cz` under a partial mask (R101). -/
theorem upartial_of_needFullFor {d : CReg} {k : Mods → State → State} (hd : d.val ≠ 63)
    (hi : exec i s = run i s fun m t => needFullFor t d (k m)) : Ready s i → exec i s = .next (upartial s) :=
  next_of_run hi (needFullFor_part hd hf _)

/-- An affine destination other than `az` under a partial mask (R101). -/
theorem upartial_of_affBody {d : AReg} {f : Mods → State → Word × Int} (hd : d.val ≠ 31)
    (hi : exec i s = run i s (affBody d f)) : Ready s i → exec i s = .next (upartial s) :=
  next_of_run hi (affBody_part hd hf f _)

/-- An effect that always needs a full mask, under a partial one (R101). -/
theorem upartial_of_needFull {k : Mods → State → State} (hi : exec i s = run i s fun m t => needFull t (k m)) :
    Ready s i → exec i s = .next (upartial s) :=
  next_of_run hi (needFull_part hf _)

/-- A barrier operation under a partial mask names no lane (R372). -/
theorem upartial_of_needWhole {k : Mods → State → State} (hi : exec i s = run i s fun m t => needWhole t (k m)) :
    Ready s i → Raises s i { cause := .upartial } :=
  raises_of_run hi (if_neg (by simp [hf]))

/-- `sread` at a level that may read the register (R101, R190). -/
theorem sread_upartial {d : CReg} {r : SReg} (hd : d.val ≠ 63) (hr : readRefused s r = false) :
    Ready s (.sread d r) → exec (.sread d r) s = .next (upartial s) :=
  next_of_run rfl (by rw [hr, if_neg Bool.false_ne_true, needFullFor_part hd hf])

/-- `swrite` of a register other than `xm`, at a level that may write it (R101, R190). -/
theorem swrite_upartial {c : CReg} {r : SReg} (hw : writeRefused s r = false) (hx : r ≠ .xm) :
    Ready s (.swrite c r) → exec (.swrite c r) s = .next (upartial s) :=
  next_of_run rfl (by rw [hw, if_neg Bool.false_ne_true, if_neg (by simpa using hx), needFull_part hf])

/-- `swrite` of `ftmap` by the supervisor (R101, R348). -/
theorem ftmapWrite_upartial {c : CReg} (hl : s.cur.cst.lvl = .supervisor) :
    Ready s (.ftmapWrite c) → exec (.ftmapWrite c) s = .next (upartial s) :=
  next_of_run rfl (by rw [hl, if_neg (by decide), needFull_part hf])
end

/-- Settles O22: past what each instruction checks first, its effect asks for a full mask and raises UPARTIAL. -/
theorem partialMaskTraps : Obligations.PartialMaskTraps := by
  intro s d a b x y w v o q m z e n r k j hf missing up
  have whole {i : Instr} {k : Mods → State → State} := upartial_of_needFull (i := i) (k := k) hf
  have bar {i : Instr} {k : Mods → State → State} := upartial_of_needWhole (i := i) (k := k) hf
  have write {r : SReg} (hx : r ≠ .xm) (hw : writeRefused s r = false) : up (.swrite a r) := swrite_upartial hf hw hx
  refine ⟨fun hd => ?_, ⟨whole rfl, whole rfl, whole rfl, whole rfl, bar rfl, bar rfl, bar rfl⟩, fun hx => ?_,
    write nofun rfl, write nofun rfl, write nofun rfl, write nofun rfl, write nofun rfl, whole rfl, fun hl => ?_, fun hl => ?_⟩
  · have uni {i : Instr} {k : Mods → State → State} := upartial_of_needFullFor (i := i) (k := k) hf hd
    exact ⟨fun _ => uni rfl, uni rfl, uni rfl, uni rfl, uni rfl, uni rfl, uni rfl, uni rfl, uni rfl, uni rfl, uni rfl,
      uni rfl, uni rfl, uni rfl, uni rfl, uni rfl, uni rfl, uni rfl, uni rfl, uni rfl, uni rfl, uni rfl, uni rfl, uni rfl,
      uni rfl, uni rfl, uni rfl, uni rfl, uni rfl, sread_upartial hf hd, uni rfl, uni rfl, uni rfl, uni rfl, uni rfl,
      uni rfl, uni rfl⟩
  · have aff {i : Instr} {f : Mods → State → Word × Int} := upartial_of_affBody (i := i) (f := f) hf hx
    exact ⟨aff rfl, aff rfl, aff rfl, aff rfl, aff rfl, aff rfl, aff rfl, aff rfl, aff rfl⟩
  · have hw : (s.cur.cst.lvl == .none) = false := beq_eq_false_iff_ne.mpr hl
    exact ⟨write nofun hw, write nofun hw, write nofun hw, write nofun hw, write nofun hw, write nofun hw⟩
  · have hw : (s.cur.cst.lvl != .supervisor) = false := bne_eq_false_iff_eq.mpr hl
    exact ⟨write nofun hw, write nofun hw, ftmapWrite_upartial hf hl⟩

/-! ## Affine arithmetic (R107) -/

/-- An affine effect past its mask: AFFOVF for a stride beyond 32 bits, else the write (R107). -/
theorem affBody_ok {s : State} {d : AReg} (hd : d.val = 31 ∨ fullMask s = true) (f : Mods → State → Word × Int)
    (m : Mods) : affBody d f m s = if (f m s).2 < -(2 ^ 31) ∨ 2 ^ 31 - 1 < (f m s).2 then raise s { cause := .affovf }
      else complete (setA s d ⟨(f m s).1, BitVec.ofInt 32 (f m s).2⟩) := by
  unfold affBody
  split
  · rfl
  · exact needFull_full (hd.resolve_left ‹_›) _

/-- An affine result of a ready instruction, as claims say it. -/
theorem affine_of_run {s : State} {i : Instr} {d : AReg} {f : Mods → State → Word × Int} {b : Word} {st : Int}
    (hd : d.val = 31 ∨ fullMask s = true) (hi : exec i s = run i s (affBody d f)) (hv : f (curMods s) s = (b, st))
    (h : Ready s i) :
    (-(2 ^ 31) ≤ st ∧ st ≤ 2 ^ 31 - 1 → SetsAffine s i d b (BitVec.ofInt 32 st)) ∧
      (st < -(2 ^ 31) ∨ 2 ^ 31 - 1 < st → Raises s i { cause := .affovf }) := by
  have hb := affBody_ok hd f (curMods s)
  rw [hv] at hb
  constructor
  · intro hr
    rw [if_neg (by omega)] at hb
    exact setsAffine_of (next_of_run hi hb h)
  · intro hr
    rw [if_pos hr] at hb
    exact raises_of_run hi hb h

/-- A stride that a register holds never overflows. -/
theorem setsAffine_of_run {s : State} {i : Instr} {d : AReg} {f : Mods → State → Word × Int} {b : Word} {st : BitVec 32}
    (hd : d.val = 31 ∨ fullMask s = true) (hi : exec i s = run i s (affBody d f)) (hv : f (curMods s) s = (b, st.toInt))
    (h : Ready s i) : SetsAffine s i d b st := by
  have hr := (affine_of_run hd hi hv h).1 ⟨st.le_toInt, BitVec.toInt_le⟩
  rwa [BitVec.ofInt_toInt] at hr

/-- Settles O2: each instruction's meaning is an affine write; only sums and products of strides can overflow. -/
theorem affineResults : Obligations.AffineResults := by
  intro s d a b c x y u v n result partly
  refine ⟨fun hd => ?_, fun hd hf => ?_⟩
  · have hshl : x.base <<< n = x.base * BitVec.ofNat 64 (2 ^ n) := by
      have htwo : BitVec.twoPow 64 n = BitVec.ofNat 64 (2 ^ n) :=
        BitVec.eq_of_toNat_eq (by rw [BitVec.toNat_twoPow, BitVec.toNat_ofNat])
      rw [BitVec.shiftLeft_eq_mul_twoPow, htwo]
    exact ⟨setsAffine_of_run hd rfl rfl, setsAffine_of_run hd rfl rfl, affine_of_run hd rfl rfl, setsAffine_of_run hd rfl rfl,
      affine_of_run hd rfl rfl, setsAffine_of_run hd rfl rfl, affine_of_run hd rfl rfl,
      affine_of_run hd rfl (congrArg (·, x.stride.toInt * 2 ^ n) hshl)⟩
  · have part {i : Instr} {f : Mods → State → Word × Int} := upartial_of_affBody (i := i) (f := f) hf hd
    exact ⟨part rfl, part rfl, part rfl, part rfl, part rfl, part rfl, part rfl, part rfl⟩

/-! ## Lifts and lowerings (R109, R110) -/

/-- A write of the active lanes without poison that ends an instruction, as claims say it. -/
theorem setsLanes_of_run {s : State} {i : Instr} {d : VReg} {f : State → Nat → Word}
    (hi : exec i s = run i s fun m t => complete (setV t d (actOf t m) (mkLanes (f t)))) (h : Ready s i) :
    SetsLanes s i d (f s) (fun _ => false) s.cur.nsf s.cur.cst.dsrc := by
  refine setsLanes_of (b := 0) (fun l _ _ => by simp [inMask]) ?_
  rw [hi, run_ready h]
  unfold setV modCur Crew.putV
  split <;> rfl

theorem lowerLane_zero (x : Lanes) : lowerLane x 0 = none := by
  have hl : lanesOf 0 = [] := by simp [lanesOf, inMask]
  rw [lowerLane, hl]

/-- The lowest lane of a mask stands first among its lanes. -/
theorem lanesOf_eq_cons {m : Mask} {l : Nat} (h32 : l < 32) (hl : inMask m l = true)
    (hlow : ∀ j, j < l → inMask m j = false) : ∃ ls, lanesOf m = l :: ls := by
  have hhead : (lanesOf m).head? = some l := by
    rw [lanesOf, List.head?_filter, List.find?_range_eq_some]
    exact ⟨hl, List.mem_range.mpr h32, fun j hj => by simp [hlow j hj]⟩
  obtain ⟨ls, hls⟩ := List.head?_eq_some_iff.mp hhead
  exact ⟨ls, hls⟩

theorem lowerLane_lowest {x : Lanes} {m : Mask} {l : Nat} (h32 : l < 32) (hl : inMask m l = true)
    (hlow : ∀ j, j < l → inMask m j = false) :
    lowerLane x m = some (laneAt x l, maskOf ((lanesOf m).filter fun k => laneAt x k != laneAt x l)) := by
  obtain ⟨ls, hls⟩ := lanesOf_eq_cons h32 hl hlow
  rw [lowerLane, hls]

/-- With no active lane a lowering only completes (R110). -/
theorem lower_none {s : State} {c : CReg} {v : VReg} {i : Instr} (hc : c.val = 63 ∨ fullMask s = true)
    (hcl : Clean s i [v.val]) (ha : active s = 0) (x : Bool) : lower c v x (curMods s) s = complete s := by
  rw [lower, needFullFor_ok hc, consuming_clean (clean_active hcl), show actOf s (curMods s) = 0 from ha, lowerLane_zero]

/-- A lowering of clean lanes: `lvcx` of lanes that differ raises NONUNIF, else the value is written (R110). -/
theorem lower_some {s : State} {c : CReg} {v : VReg} {i : Instr} {y : Word} {dis : Mask}
    (hc : c.val = 63 ∨ fullMask s = true) (hcl : Clean s i [v.val]) (hl : lowerLane (getV s v) (active s) = some (y, dis))
    (x : Bool) : lower c v x (curMods s) s =
      if x && dis != 0 then raise s { cause := .nonunif, lanes := dis } else complete (setC s c y) := by
  rw [lower, needFullFor_ok hc, consuming_clean (clean_active hcl)]
  rw [active] at hl
  simp only [hl]

/-- Settles O13: a lift is a write of its register or of the active lanes; a lowering goes by the lowest active lane. -/
theorem liftAndLowerResults : Obligations.LiftAndLowerResults := by
  intro s v c a x differ
  refine ⟨fun h => ⟨fun ha => setsAffine_of_run ha rfl rfl h, fun ha hf => upartial_of_affBody hf ha rfl h⟩,
    fun h _ => setsLanes_of_run rfl h, fun h _ => setsLanes_of_run (f := fun t => affineAt (getA t a)) rfl h,
    fun hc hcl => ⟨fun ha => ?_, fun l h32 hl hlow => ?_⟩⟩
  · exact ⟨onlyMoves_of_run rfl (lower_none hc hcl ha false), onlyMoves_of_run rfl (lower_none hc hcl ha true)⟩
  · have hlower := lower_some hc hcl (lowerLane_lowest (x := getV s v) h32 hl hlow)
    have writes {i : Instr} {e : Bool} (hi : exec i s = run i s (lower c v e)) (hd : (e && differ l != 0) = false)
        (h : Ready s i) : SetsUniform s i c (x l) (nextPc s) :=
      setsUniform_of (next_of_run hi ((hlower e).trans (if_neg (by simpa using hd))) h)
    exact ⟨writes rfl rfl, fun hd => writes rfl (by simp [hd]),
      fun hd => raises_of_run rfl ((hlower true).trans (if_pos (by simpa using hd)))⟩

/-! ## Allotments (R113 to R115) -/

theorem legalReq_tile_iff (grow : Bool) (n : Nat) : legalReq true grow n = true ↔ n ≤ 32 := by simp [legalReq]
theorem legalReq_grow_iff (n : Nat) : legalReq false true n = true ↔ n % 8 = 0 ∧ n ≤ 128 := by simp [legalReq]
theorem legalReq_shrink_iff (n : Nat) : legalReq false false n = true ↔ (n % 8 = 0 ∧ n ≤ 128) ∧ n ≠ 0 := by
  simp [legalReq]

/-- With no command queued nothing is pending on a tile (R115). -/
theorem shrinkClear_tile_of_opq_nil {s : State} (h : (coreAt s s.cur.pair).opq = []) (n : Nat) :
    shrinkClear s true n = true := by
  simp [shrinkClear, h]

/-- Registers are clear of pending work when every one that waits lies below the new size (R115). -/
theorem shrinkClear_reg_iff (s : State) (n : Nat) : shrinkClear s false n = true ↔ ∀ r ∈ pendingV s.cur, r < n := by
  simp [shrinkClear]

section
variable {s : State} {tile : Bool} {d a : CReg} (hf : fullMask s = true)
include hf

/-! What `grow` does with a full mask (R114). -/

theorem growStep_illegal (hl : ¬ legalReq tile true (getC s a).toNat = true) :
    growStep tile d a s = raise s { cause := .allot, info := (getC s a).toNat } := by
  rw [growStep, needFull_full hf]
  exact if_pos (by simpa using hl)

theorem growStep_answers (hl : legalReq tile true (getC s a).toNat = true) (hle : (getC s a).toNat ≤ allotOf s.cur tile) :
    growStep tile d a s = complete (setC s d (BitVec.ofNat 64 (allotOf s.cur tile))) := by
  rw [growStep, needFull_full hf]
  simp only [hl, hle, Bool.not_true, Bool.false_eq_true, ↓reduceIte]

theorem growStep_parks (hl : legalReq tile true (getC s a).toNat = true) (hlt : allotOf s.cur tile < (getC s a).toNat) :
    growStep tile d a s = parkAs (modCore s s.cur.pair fun c =>
      if tile then { c with growT := c.growT ++ [(s.cur.cid, s.cur.fr.fid, (getC s a).toNat)] }
      else { c with growV := c.growV ++ [(s.cur.cid, s.cur.fr.fid, (getC s a).toNat)] }) (.grow tile (getC s a).toNat) := by
  rw [growStep, needFull_full hf]
  simp only [hl, Nat.not_le.mpr hlt, Bool.not_true, Bool.false_eq_true, ↓reduceIte]

/-! What `shrink` does with a full mask (R115). -/

theorem shrinkStep_illegal (hl : ¬ legalReq tile false (getC s a).toNat = true) :
    shrinkStep tile d a s = raise s { cause := .allot, info := (getC s a).toNat } := by
  rw [shrinkStep, needFull_full hf]
  exact if_pos (by simpa using hl)

theorem shrinkStep_answers (hl : legalReq tile false (getC s a).toNat = true)
    (hle : allotOf s.cur tile ≤ (getC s a).toNat) :
    shrinkStep tile d a s = complete (setC s d (BitVec.ofNat 64 (allotOf s.cur tile))) := by
  rw [shrinkStep, needFull_full hf]
  simp only [hl, hle, Bool.not_true, Bool.false_eq_true, ↓reduceIte]

section
variable (hl : legalReq tile false (getC s a).toNat = true) (hlt : (getC s a).toNat < allotOf s.cur tile)
include hl hlt

theorem shrinkStep_gives (hc : shrinkClear s tile (getC s a).toNat = true) : shrinkStep tile d a s =
    complete (setC (narrow s tile (getC s a).toNat) d (BitVec.ofNat 64 (allotOf s.cur tile))) := by
  rw [shrinkStep, needFull_full hf]
  simp only [hl, hc, Nat.not_le.mpr hlt, Bool.not_true, Bool.false_eq_true, ↓reduceIte]

theorem shrinkStep_parks (hc : shrinkClear s tile (getC s a).toNat = false) :
    shrinkStep tile d a s = parkAs s (.shrink tile (getC s a).toNat) := by
  rw [shrinkStep, needFull_full hf]
  simp only [hl, hc, Nat.not_le.mpr hlt, Bool.not_true, Bool.false_eq_true, ↓reduceIte]
end
end

/-- A release changes no register. -/
theorem getC_narrow (s : State) (tile : Bool) (n : Nat) (r : CReg) : getC (narrow s tile n) r = getC s r := by
  cases tile <;> rfl

/-- A completed shrink writes the old allotment, and nothing else but the release changes (R115). -/
theorem complete_setC_narrow (s : State) (tile : Bool) (n : Nat) (d : CReg) (v : Word) :
    let u := complete (setC (narrow s tile n) d v)
    (∀ r, getC u r = if r = d ∧ d.val ≠ 63 then v else getC s r) ∧
      u = { narrow s tile n with cur := { (narrow s tile n).cur with c := u.cur.c, fr := after s (nextPc s) } } := by
  refine ⟨fun r => ?_, ?_⟩
  · exact (getC_setC (narrow s tile n) d r v).trans (by rw [getC_narrow])
  · rw [setC_frame]
    cases tile <;> rfl

/-- Settles O28: a request is judged, then compared with the allotment; a shrink also asks what is pending. -/
theorem allotmentResults : Obligations.AllotmentResults := by
  intro s d a hf k n c v t illegal parks gives legalV
  refine ⟨?growV, ?growT, ?shrinkV, ?shrinkT⟩ <;> intro h
  case growV =>
    have legal := legalReq_grow_iff n
    exact ⟨fun hl => raises_of_run rfl (growStep_illegal hf (mt legal.mp hl)) h,
      fun hl hle => setsUniform_of (next_of_run rfl (growStep_answers hf (legal.mpr hl) hle) h),
      fun hl hlt => next_of_run rfl (growStep_parks hf (legal.mpr hl) hlt) h⟩
  case growT =>
    have legal := legalReq_tile_iff true n
    exact ⟨fun hl => raises_of_run rfl (growStep_illegal hf (mt legal.mp (Nat.not_le.mpr hl))) h,
      fun hl hle => setsUniform_of (next_of_run rfl (growStep_answers hf (legal.mpr hl) hle) h),
      fun hl hlt => next_of_run rfl (growStep_parks hf (legal.mpr hl) hlt) h⟩
  case shrinkV =>
    have legal := legalReq_shrink_iff n
    have clear := shrinkClear_reg_iff s n
    refine ⟨fun hl => raises_of_run rfl (shrinkStep_illegal hf (mt legal.mp hl)) h,
      fun hl h0 hle => setsUniform_of (next_of_run rfl (shrinkStep_answers hf (legal.mpr ⟨hl, h0⟩) hle) h),
      fun hl h0 hlt hp => ?_, fun hl h0 hlt hp => ?_⟩
    · have hc : shrinkClear s false n = true := clear.mpr (by simpa using hp)
      exact ⟨_, next_of_run rfl (shrinkStep_gives hf (legal.mpr ⟨hl, h0⟩) hlt hc) h, complete_setC_narrow s false n d v⟩
    · obtain ⟨r, hr, hn⟩ := List.any_eq_true.mp hp
      have hc : shrinkClear s false n = false :=
        Bool.eq_false_iff.mpr fun hc => Nat.not_lt.mpr (of_decide_eq_true hn) (clear.mp hc r hr)
      exact next_of_run rfl (shrinkStep_parks hf (legal.mpr ⟨hl, h0⟩) hlt hc) h
  case shrinkT =>
    have legal := legalReq_tile_iff false n
    have clear := shrinkClear_tile_of_opq_nil (s := s)
    exact ⟨fun hl => raises_of_run rfl (shrinkStep_illegal hf (mt legal.mp (Nat.not_le.mpr hl))) h,
      fun hl hle => setsUniform_of (next_of_run rfl (shrinkStep_answers hf (legal.mpr hl) hle) h),
      fun hlt hl hq => ⟨_, next_of_run rfl (shrinkStep_gives hf (legal.mpr hl) hlt (clear hq n)) h,
        complete_setC_narrow s true n d t⟩⟩

end Sys2Proof
end

section
/-! SUPPORT. What matrix commands do at issue, and a joint command whose member the latch loses (R150 to R171, R306). -/

namespace Sys2Proof

open Sys2Proof.Machine

/-! ## A release leaves the issue stage as it is (R223, R226) -/

/-- The crew at the issue stage and the word that it issues. -/
def atIssue (s : State) : Crew × Nat := (s.cur, s.ir)

theorem atIssue_foldl {α : Type} {f : State → α → State} (hf : ∀ s x, atIssue (f s x) = atIssue s) (l : List α) (s : State) :
    atIssue (l.foldl f s) = atIssue s := by
  induction l generalizing s with
  | nil => rfl
  | cons x l ih => exact (ih (f s x)).trans (hf s x)

theorem atIssue_ite {c : Prop} [Decidable c] {s t u : State} (ht : atIssue t = atIssue s) (hu : atIssue u = atIssue s) :
    atIssue (if c then t else u) = atIssue s := by
  split
  · exact ht
  · exact hu

theorem atIssue_undoLog (s : State) (a : Nat) : atIssue (undoLog s a) = atIssue s := atIssue_ite rfl rfl

theorem atIssue_locWrite (s : State) (a : Nat) (b : Byte) : atIssue (locWrite s a b) = atIssue s :=
  atIssue_ite (atIssue_undoLog s a) rfl

theorem atIssue_setDirtyBit (s : State) (i : Bool) (g : Nat) (v : Bool) : atIssue (setDirtyBit s i g v) = atIssue s :=
  atIssue_ite rfl (atIssue_locWrite s _ _)

theorem atIssue_touchGranule (n : Nat) (seen : List Nat) (s : State) (g : Nat) :
    atIssue (touchGranule n seen s g) = atIssue s := by
  induction n generalizing seen s g with
  | zero => rfl
  | succ n ih =>
    have sent : atIssue (if streaming s && dirtyBit s (!s.xl.sel) g then
        setDirtyBit (touchGranule n (g :: seen) (sendGranule s g) (bitGranule s (!s.xl.sel) g)) (!s.xl.sel) g false
      else s) = atIssue s := atIssue_ite ((atIssue_setDirtyBit _ _ _ _).trans (ih _ _ _)) rfl
    exact atIssue_ite rfl (atIssue_ite sent ((atIssue_setDirtyBit _ _ _ _).trans ((ih _ _ _).trans sent)))

theorem atIssue_homeWrite (s : State) (a : Nat) (b : Byte) : atIssue (homeWrite s a b) = atIssue s :=
  (atIssue_locWrite _ _ _).trans (atIssue_ite rfl (atIssue_touchGranule _ _ _ _))

theorem atIssue_hintAt (s : State) (p pln : Nat) : atIssue (hintAt s p pln) = atIssue s := by
  unfold hintAt
  dsimp only
  split
  · rfl
  · refine atIssue_ite rfl (atIssue_ite rfl ?_)
    split <;> rfl

theorem atIssue_hintsFirst (s : State) (p pln : Nat) : atIssue (hintsFirst s p pln) = atIssue s := by
  refine atIssue_foldl (fun t q => ?_) _ _
  split
  · exact (atIssue_hintAt _ q pln).trans rfl
  · rfl

theorem atIssue_writeBack (s : State) (p : Nat) (l : Line) : atIssue (writeBack s p l) = atIssue s := by
  have bytes := atIssue_foldl
    (f := fun t i => if l.dirty.getLsbD i then homeWrite t (l.pln * 128 + i) (lineByte l.data i) else t)
    (fun _ _ => atIssue_ite (atIssue_homeWrite _ _ _) rfl) (List.range 128) (hintsFirst s p l.pln)
  exact bytes.trans (atIssue_hintsFirst s p l.pln)

theorem atIssue_writeBackAll (s : State) (p : Nat) (f : Line → Bool) : atIssue (writeBackAll s p f) = atIssue s :=
  atIssue_foldl (fun s l => atIssue_writeBack s p l) _ _

theorem atIssue_unregister (s : State) (k : Nat) (but : Option Nat) (a : Nat) : atIssue (unregister s k but a) = atIssue s := by
  refine atIssue_foldl (fun s p => atIssue_ite rfl ?_) _ _
  split
  · exact atIssue_ite rfl rfl
  · rfl

theorem atIssue_registerAll (s : State) (p : Nat) : atIssue (registerAll s p) = atIssue s := by
  refine atIssue_foldl (fun t l => ?_) _ _
  exact (atIssue_foldl (fun _ _ => atIssue_ite (atIssue_unregister _ _ _ _) rfl) _ _).trans rfl

theorem atIssue_releaseAt (s : State) (p : Nat) (sc : Scope) : atIssue (releaseAt s p sc) = atIssue s := by
  have out : atIssue (writeBackAll ((clusterCores (clusterOf p)).foldl (fun s q =>
      if q == p then s else writeBackAll s q fun l => l.reg != 0) s) p fun _ => true) = atIssue s :=
    (atIssue_writeBackAll _ _ _).trans (atIssue_foldl (fun _ _ => atIssue_ite rfl (atIssue_writeBackAll _ _ _)) _ _)
  cases sc with
  | crew | block => rfl
  | cluster => exact atIssue_registerAll s p
  | device | system => exact out

/-! ## Commands that enter the operand queue (R159) -/

/-- What a command's issue under the acquire flag does first (R219). -/
theorem cmdAcquire_eq_unitStart (s : State) : cmdAcquire s (curMods s) = unitStart s := by
  simp [cmdAcquire, unitStart, ordAcq]

theorem atIssue_unitStart (s : State) : atIssue (unitStart s) = atIssue s := atIssue_ite (atIssue_releaseAt _ _ _) rfl
theorem unitStart_cur (s : State) : (unitStart s).cur = s.cur := congrArg Prod.fst (atIssue_unitStart s)
theorem unitStart_ir (s : State) : (unitStart s).ir = s.ir := congrArg Prod.snd (atIssue_unitStart s)

/-- A command's entry in the queue, said of the crew and the word that issued it (R159). -/
theorem enqueue_eq {s u : State} (hp : u.cur.pair = s.cur.pair) (hf : u.cur.fr = s.cur.fr) (hw : u.ir = s.ir) (k : EngCmd) :
    enqueue u k = { u with
      cores := kset u.cores s.cur.pair { coreAt u s.cur.pair with opq := (coreAt u s.cur.pair).opq ++ [k] }
      cur := { u.cur with fr := after s (nextPc s) } } := by
  rw [after, nextPc, ← hp, ← hf, ← hw]
  rfl

/-- A ready instruction whose effect puts a command in the queue of the state at issue. -/
theorem entersQueue_of_run {s : State} {i : Instr} {body : Mods → State → State} {k : EngCmd} (hi : exec i s = run i s body)
    (hb : body (curMods s) s = enqueue s k) (h : Ready s i) : EntersQueue s s i k :=
  next_of_run hi (hb.trans (enqueue_eq rfl rfl rfl k)) h

/-- The same after the release that an acquire makes of the command's issue. -/
theorem entersQueue_of_acquire {s : State} {i : Instr} {body : Mods → State → State} {k : EngCmd} (hi : exec i s = run i s body)
    (hb : body (curMods s) s = enqueue (cmdAcquire s (curMods s)) k) (h : Ready s i) : EntersQueue s (unitStart s) i k := by
  have hc := unitStart_cur s
  rw [cmdAcquire_eq_unitStart] at hb
  exact next_of_run hi (hb.trans (enqueue_eq (congrArg Crew.pair hc) (congrArg Crew.fr hc) (unitStart_ir s) k)) h

/-! ## Arithmetic commands (R159, R165, R166) -/

section
variable {s : State} {kind : Nat} {t : TReg} {ops : List CReg} {sh : Shape} {x : Block}

theorem arithStep_alone (h : s.cur.gang.toNat % 8 = 0) : arithStep kind t ops sh s =
    enqueue s (.arith kind sh.val [(s.cur.cid, t.val, s.cur.nbv.toNat % 16)] (ops.map fun r => getC s r) s.cur.cid) := if_pos h

theorem arithStep_retired (h : s.cur.gang.toNat % 8 ≠ 0) (hb : blockAt? s s.cur.block = some x)
    (hr : (gangMembers s.cur.gang).any (fun m => x.retired.contains m) = true) :
    arithStep kind t ops sh s = raise s { cause := .gangf } := by
  simp only [arithStep, if_neg h, hb, hr, ↓reduceIte]

theorem arithStep_joint (h : s.cur.gang.toNat % 8 ≠ 0) (hb : blockAt? s s.cur.block = some x)
    (hr : (gangMembers s.cur.gang).all (fun m => !x.retired.contains m) = true) :
    arithStep kind t ops sh s = { s with
      blocks := s.blocks.map fun y => if y.bid = s.cur.block then
          { y with latch := y.latch ++ [⟨s.cur.idx, s.cur.fr.fid, s.cur.joint, s.cur.gang, kind, sh.val, t.val,
            ops.map fun r => getC s r, s.cur.nbv.toNat % 16⟩] }
        else y
      cur := { s.cur with
        owes := if s.cur.fr.handler then s.cur.owes else none, fr := { s.cur.fr with park := .latch, word := s.ir } } } := by
  have hn : (gangMembers s.cur.gang).any (fun m => x.retired.contains m) = false := by
    rw [List.any_eq_not_all_not, hr]
    rfl
  simp only [arithStep, if_neg h, hb, hn, modBlock, beq_iff_eq]
  rfl
end

/-- Settles O33: an arithmetic command is `arithStep` of its kind on its operand words, alone or in a gang. -/
theorem arithmeticCommandsEnter : Obligations.ArithmeticCommandsEnter := by
  intro s t a b sh x k ver n members two five form
  have arith {i : Instr} {kind : Nat} {ops : List CReg} (hi : exec i s = run i s fun _ s => arithStep kind t ops sh s) :
      form i kind (ops.map fun r => getC s r) := fun h =>
    ⟨fun h0 => entersQueue_of_run hi (arithStep_alone h0) h,
      fun h0 hb => ⟨fun hr => raises_of_run hi (arithStep_retired h0 hb hr) h,
        fun hr => next_of_run hi (arithStep_joint h0 hb hr) h⟩⟩
  have hfive : (group4 a ++ [b]).map (fun r => getC s r) = five := by simp [group4, five]
  exact ⟨arith (ops := [a, b]) rfl, arith (ops := [a, b]) rfl, hfive ▸ arith rfl, arith (ops := [a, b]) rfl,
    arith (ops := [a, b]) rfl, hfive ▸ arith rfl⟩

/-! ## Gangs (R153, R165) -/

/-- Numbers added to a list that holds them already are added no more; all of them are when none repeats. -/
theorem length_foldl_distinct (l acc : List Nat) :
    let r := l.foldl (fun acc x => if acc.contains x then acc else acc ++ [x]) acc
    r.length ≤ acc.length + l.length ∧ (r.length = acc.length + l.length ↔ l.Nodup ∧ ∀ x ∈ l, x ∉ acc) := by
  induction l generalizing acc with
  | nil => simp
  | cons y l ih =>
    rw [List.foldl_cons]
    by_cases hy : y ∈ acc
    · obtain ⟨hle, -⟩ := ih acc
      simp only [List.contains_iff_mem, hy, ↓reduceIte, List.length_cons, List.mem_cons, forall_eq_or_imp, not_true_eq_false,
        false_and, and_false, iff_false] at hle ⊢
      omega
    · obtain ⟨hle, hiff⟩ := ih (acc ++ [y])
      simp only [List.contains_iff_mem, hy, ↓reduceIte, List.length_append, List.length_cons, List.length_nil] at hle hiff ⊢
      refine ⟨by omega, ?_⟩
      rw [show acc.length + (l.length + 1) = acc.length + (0 + 1) + l.length by omega, hiff]
      simp only [List.mem_append, not_or, List.nodup_cons, List.mem_cons, forall_eq_or_imp]
      grind

theorem length_distinct_eq_iff (l : List Nat) : (distinct l).length = l.length ↔ l.Nodup := by
  simpa [distinct] using (length_foldl_distinct l []).2

/-- The legal values of `GANG`, their bounds as comparisons and their members without repeats. -/
theorem gangOk_eq (s : State) (w : Word) : gangOk s w =
    (decide (w.toNat = 0) ||
      (decide (2 ≤ w.toNat % 8 ∧ w.toNat % 8 ≤ 6 ∧ w.toNat < 2 ^ (3 + 5 * (w.toNat % 8)) ∧ w.toNat < 2 ^ 33) &&
      (gangMembers w).all (fun i => decide (i < ((blockAt? s s.cur.block).map fun x => x.crews).getD 1)) &&
      decide (gangMembers w).Nodup && (gangMembers w).contains s.cur.idx)) := by
  have hnodup : (distinct (gangMembers w)).length = w.toNat % 8 ↔ (gangMembers w).Nodup := by
    rw [← length_distinct_eq_iff]
    simp [gangMembers]
  have hlt (k : Nat) : w.toNat / 2 ^ k = 0 ↔ w.toNat < 2 ^ k := by
    rw [Nat.div_eq_zero_iff]
    have := Nat.two_pow_pos k
    omega
  unfold gangOk
  rw [Bool.eq_iff_iff]
  have swap (p : Prop) := and_left_comm (a := w.toNat < 2 ^ 33) (b := w.toNat < 2 ^ (3 + 5 * (w.toNat % 8))) (c := p)
  cases blockAt? s s.cur.block <;>
    simp only [Option.map_none, Option.map_some, Option.getD_none, Option.getD_some, Bool.or_eq_true, Bool.and_eq_true, beq_iff_eq,
      decide_eq_true_eq, hnodup, hlt, and_assoc, swap]

/-! ## The other commands (R153, R167 to R171, R306) -/

theorem matf_of_run {s : State} {i : Instr} {body : Mods → State → State} (code kind : Nat) (hi : exec i s = run i s body)
    (hb : body (curMods s) s = matTrap s code kind) (h : Ready s i) :
    Raises s i { cause := .matf, info := code + 2 ^ 8 * kind + 2 ^ 12 } := raises_of_run hi hb h

theorem boundResult_eq (s : State) (q : MReg) : boundResult s q =
    decide ((s.cur.qregs.get q).word.getLsbD 63 = true ∧ (s.cur.qregs.get q).word.toNat % 4 = 1) := by
  rw [Bool.eq_iff_iff]
  simp [boundResult, isResultQ]

/-- The later of two writes of one key stays. -/
theorem kset_kset {α : Type} (l : List (Nat × α)) (a : Nat) (v w : α) : kset (kset l a v) a w = kset l a w := by
  induction l with
  | nil => simp [kset]
  | cons c l ih =>
    obtain ⟨k, x⟩ := c
    by_cases h1 : a < k
    · simp [kset, h1]
    · by_cases h2 : a = k
      · simp [kset, h2]
      · simp [kset, h1, h2, ih]

/-- A command enters the queue of a core that has just changed. -/
theorem enqueue_modCore {s u : State} (hp : u.cur.pair = s.cur.pair) (hf : u.cur.fr = s.cur.fr) (hw : u.ir = s.ir)
    (f : Core → Core) (k : EngCmd) : enqueue (modCore u s.cur.pair f) k = { u with
      cores := kset u.cores s.cur.pair { f (coreAt u s.cur.pair) with opq := (f (coreAt u s.cur.pair)).opq ++ [k] }
      cur := { u.cur with fr := after s (nextPc s) } } := by
  rw [enqueue_eq (s := s) (u := modCore u s.cur.pair f) hp hf hw, coreAt_modCore, modCore_cores, kset_kset]
  rfl

/-- The future of an inference request, behind the registers of its outputs (R306, R310). -/
def nrqFut (s : State) (id : Nat) (d : VReg) (w : Word) : Fut :=
  ⟨id, s.cur.fr.fid, s.cur.fr.po, [], .v d.val (w.toNat / 2 ^ 57 % 16 + 1), .nrq (active s), []⟩

/-- The request itself, with what it read at its issue. -/
def nrqReq (s : State) (id : Nat) (d : VReg) (w : Word) (ins : List Nat) : NrqReq :=
  { cid := s.cur.cid, fut := id, act := active s, word := w, inputs := ins.map fun r => s.cur.vreg r, vd := d.val,
    ver := s.cur.nbv.toNat % 16, ord := (curMods s).ord, scope := scopeOf .device (curMods s).scp, got := [] }

/-- A clean `nrq` leaves its request in the pair, its future in the crew and its name in the queue (R306, R310). -/
theorem exec_nrq_clean {s : State} {d v : VReg} {b : CReg} {ins : List Nat}
    (hins : groupOf v.val (if (getC s b).toNat / 2 ^ 61 % 2 = 1 then 16 else 8) = ins) (hcl : Clean s (.nrq d v b) ins)
    (h : Ready s (.nrq d v b)) :
    let u := unitStart s
    let p := s.cur.pair
    exec (.nrq d v b) s = .next { u with
      nextId := u.nextId + 1
      cores := kset u.cores p { coreAt u p with
        opq := (coreAt u p).opq ++ [.nrq s.cur.cid u.nextId]
        nrqs := (coreAt u p).nrqs ++ [nrqReq s u.nextId d (getC s b) ins] }
      cur := { u.cur with futs := u.cur.futs ++ [nrqFut s u.nextId d (getC s b)], fr := after s (nextPc s) } } := by
  intro u p
  refine next_of_run rfl ((consuming_clean (hins ▸ clean_active hcl) _).trans ?_) h
  simp only [cmdAcquire_eq_unitStart, fresh, hins, modCur, u, unitStart_cur]
  exact enqueue_modCore (s := s) (u := { unitStart s with
    nextId := (unitStart s).nextId + 1
    cur := { s.cur with futs := s.cur.futs ++ [nrqFut s (unitStart s).nextId d (getC s b)] } }) rfl rfl (unitStart_ir s) _ _

/-- Settles O34: each command's meaning is `enqueue` of what it read, behind the checks that R153, R167, R170 and R306 give it. -/
theorem matrixCommandsEnter : Obligations.MatrixCommandsEnter := by
  intro s t a b q sh d v k u m sc w n members crews legal bound matf nrqWord ins
  have hbound : boundResult s q = bound := boundResult_eq s q
  have hlegal : gangOk s w = legal := gangOk_eq s w
  refine ⟨entersQueue_of_run rfl rfl, entersQueue_of_run rfl rfl, entersQueue_of_acquire rfl rfl, ?drain, ?peer, ?row, ?gang,
    ?nrq⟩ <;> intro h
  case drain =>
    exact ⟨fun hb => matf_of_run 0x13 4 rfl (if_neg (by simp [hbound, hb])) h,
      fun hb => entersQueue_of_acquire rfl (if_pos (hbound.trans hb)) h⟩
  case peer =>
    refine ⟨fun hn => matf_of_run 0x11 5 rfl (if_pos (by simpa using Or.inr hn)) h,
      fun hn => entersQueue_of_acquire rfl (if_neg ?_) h⟩
    simp only [Bool.or_eq_true, decide_eq_true_eq, not_or]
    exact ⟨Nat.ne_zero_of_lt hn, Nat.not_le.mpr hn⟩
  case row =>
    exact ⟨fun hm => matf_of_run 0x10 6 rfl (if_pos (by simpa using hm)) h,
      fun hm hb => matf_of_run 0x13 6 rfl ((if_neg (by simpa using hm)).trans (if_pos (by simp [hbound, hb]))) h,
      fun hm hb => entersQueue_of_run rfl ((if_neg (by simpa using hm)).trans (if_neg (by simp [hbound, hb]))) h⟩
  case gang =>
    exact ⟨fun hl => matf_of_run 0x12 0 rfl (if_neg (by simp [w, hlegal, hl])) h,
      fun hl => next_of_run rfl ((if_pos (hlegal.trans hl)).trans (enqueue_eq rfl rfl rfl _)) h⟩
  case nrq =>
    intro hcl
    have hins : groupOf v.val (if nrqWord.toNat / 2 ^ 61 % 2 = 1 then 16 else 8) = ins := by
      simp only [ins, BitVec.getLsbD, Nat.testBit_eq_decide_div_mod_eq, decide_eq_true_eq]
    exact ⟨_, exec_nrq_clean hins hcl h, rfl, rfl⟩

/-! ## A member that the latch loses (R166) -/

/-- A member of a gang of two, parked on its block's latch. -/
def gangMember (live : Bool) (cid idx : Nat) : Crew := { Crew.none with
  alive := live, cid := cid, block := 1, idx := idx, slot := idx, gang := 2 + 2 ^ 8
  fr := { Frag.zero with fid := cid, park := .latch } }

/-- The arrival of that member. -/
def gangArrival (cid idx : Nat) : Arrival := ⟨idx, cid, 0, 2 + 2 ^ 8, 0, 0, 0, [0, 0], 5⟩

/-- The block of the gang, both of whose members have arrived. -/
def gangBlock : Block := { (default : Block) with
  bid := 1, crews := 2, pair := some 0, latch := [gangArrival 1 0, gangArrival 2 1] }

/-- One member is at the issue stage; the other is listed with the crews, but not as one that is alive. -/
def halfLiveGang : State := { State.reset with
  cur := gangMember true 1 0, crews := [gangMember false 2 1], blocks := [gangBlock] }

/-- The release brings the second member to the issue stage, where a crew that is not alive counts as none. -/
theorem crew?_latchStep_halfLiveGang : crew? (latchStep halfLiveGang 1 0) 2 = none := by decide

/-- Refutes O45: nothing in its last clause says that the crews of the members are alive, and `latchRelease` moves each to the issue
stage, where the model takes one that is not for the absent crew. In `halfLiveGang` the agreeing members' command is released, and the
second member is then no crew of the machine. -/
theorem not_engineQueueEvents : ¬ Obligations.EngineQueueEvents := by
  intro h
  obtain ⟨-, -, -, -, latch⟩ := h halfLiveGang 0 1 0 false
  obtain ⟨released, -⟩ := latch gangBlock (gangArrival 1 0) 0 rfl (by decide) rfl (by decide) (by decide) (by decide) (by decide)
    (by decide) (by decide)
  obtain ⟨v, hv, -, -, members⟩ := released (by decide) (by decide)
  obtain ⟨d, hd, -⟩ := members (gangMember false 2 1, gangArrival 2 1) (List.mem_of_getElem? (i := 1) rfl)
  cases hv
  cases crew?_latchStep_halfLiveGang.symm.trans hd

end Sys2Proof
end
